-- ==== Sys2Proof/Word.lean ====
section
/-! DEFINITION. The word types of the KX4 and the operand types its encodings hold (13_encoding.md, R172, R175, R176). -/

namespace Sys2Proof

abbrev Byte := BitVec 8
/-- An x register, a payload or a memory double word. -/
abbrev Word := BitVec 64

/-- x0 to x31 (R176). -/
abbrev XReg := BitVec 5
/-- k0 to k15; a field value of 16 to 31 does not decode (R176). -/
abbrev KReg := BitVec 4
/-- v0 to v30, and 31 for vin (R176). -/
abbrev VReg := BitVec 5
/-- m0 to m7 (R176). -/
abbrev MReg := BitVec 3
/-- c0 to c3, encoded as 8 to 11 (R176). -/
abbrev CReg := BitVec 2
/-- vw0 to vw3 (R176). -/
abbrev VwReg := BitVec 2
/-- sem0 to sem15 (R176). -/
abbrev SemNo := BitVec 4

/-- vin as a field value (R176). -/
abbrev vin : VReg := 31

/-- A matrix operand field of kind mc: a tile view or an accumulator (R290). -/
inductive MC where
  | m (r : MReg)
  | c (r : CReg)
  deriving DecidableEq, Repr

/-- The predicate modes of R180. -/
inductive VMode where
  | all | m1 | m1z | m0 | m0z
  deriving DecidableEq, Repr

/-- The sub-code of the reductions and of VSCAN (R253). -/
inductive RedOp where
  | sum | max | min
  deriving DecidableEq, Repr

/-- The four sizes of scalar accesses (R229). -/
inductive Size where
  | b | h | w | d
  deriving DecidableEq, Repr

/-- Bytes of a size. -/
def Size.bytes : Size → Nat
  | .b => 1 | .h => 2 | .w => 4 | .d => 8

end Sys2Proof
end

