-- ==== Sys2Proof/Machine/Num.lean ====
section
/-! DEFINITION. Exact values between an operand and its one rounding (11_formats.md): dyadic numbers with a signed zero,
infinities and one NaN; their sum, product and order; the representatives of the function instructions of R264. -/

namespace Sys2Proof.Machine

/-- An exact value: NaN, an infinity, or (-1)^neg × m × 2^e, with m = 0 for a signed zero. -/
inductive Num where
  | nan
  | inf (neg : Bool)
  | fin (neg : Bool) (m : Nat) (e : Int)
  deriving DecidableEq, Repr

/-- +0. -/
def Num.zero : Num := .fin false 0 0

/-- An integer as a value. -/
def Num.ofInt (i : Int) : Num := .fin (i < 0) i.natAbs 0

def Num.neg : Num → Num
  | .nan => .nan
  | .inf s => .inf (!s)
  | .fin s m e => .fin (!s) m e

def Num.abs : Num → Num
  | .nan => .nan
  | .inf _ => .inf false
  | .fin _ m e => .fin false m e

def Num.isNaN : Num → Bool
  | .nan => true
  | _ => false

/-- The value times 2^k, exactly. -/
def Num.scale2 (x : Num) (k : Int) : Num :=
  match x with
  | .fin s m e => .fin s m (e + k)
  | y => y

/-- The signed mantissa of m × 2^e at the exponent e0 ≤ e. -/
def alignTo (neg : Bool) (m : Nat) (e e0 : Int) : Int :=
  let a : Int := (m <<< (e - e0).toNat : Nat)
  if neg then -a else a

/-- The exact sum; an exact zero takes the sign of roundTiesToEven (R260). -/
def Num.add : Num → Num → Num
  | .nan, _ => .nan
  | _, .nan => .nan
  | .inf a, .inf b => if a = b then .inf a else .nan
  | .inf a, .fin _ _ _ => .inf a
  | .fin _ _ _, .inf b => .inf b
  | .fin s m e, .fin t n f =>
    if m = 0 ∧ n = 0 then .fin (s && t) 0 0
    else if m = 0 then .fin t n f
    else if n = 0 then .fin s m e
    else
      let e0 := min e f
      let i := alignTo s m e e0 + alignTo t n f e0
      .fin (i < 0) i.natAbs e0

def Num.sub (x y : Num) : Num := x.add y.neg

/-- The exact product. -/
def Num.mul : Num → Num → Num
  | .nan, _ => .nan
  | _, .nan => .nan
  | .inf a, .inf b => .inf (a != b)
  | .inf a, .fin t n _ => if n = 0 then .nan else .inf (a != t)
  | .fin s m _, .inf b => if m = 0 then .nan else .inf (s != b)
  | .fin s m e, .fin t n f => .fin (s != t) (m * n) (e + f)

/-- Order of two values that are not NaN; zeros are equal whatever their signs. -/
def Num.lt : Num → Num → Bool
  | .nan, _ => false
  | _, .nan => false
  | .inf a, .inf b => a && !b
  | .inf a, .fin _ _ _ => a
  | .fin _ _ _, .inf b => !b
  | .fin s m e, .fin t n f =>
    if m = 0 ∧ n = 0 then false
    else if m = 0 then !t
    else if n = 0 then s
    else
      let e0 := min e f
      alignTo s m e e0 < alignTo t n f e0

/-- Larger operand as VFMAX picks it: NaN if either is NaN, +0 above -0 (R170, R263). -/
def Num.maxN (x y : Num) : Num :=
  match x, y with
  | .nan, _ => .nan
  | _, .nan => .nan
  | .fin s 0 e, .fin t 0 _ => .fin (s && t) 0 e
  | x, y => if x.lt y then y else x

/-- Smaller operand as VFMIN picks it (R170, R263). -/
def Num.minN (x y : Num) : Num :=
  match x, y with
  | .nan, _ => .nan
  | _, .nan => .nan
  | .fin s 0 e, .fin t 0 _ => .fin (s || t) 0 e
  | x, y => if y.lt x then y else x

/-- Exact sum of a list, for the chunks of R167: NaN and infinities as that rule says. -/
def Num.sum (xs : List Num) : Num := xs.foldl Num.add (.fin true 0 0)

/-- floor(log2 |x|) of a nonzero finite value. -/
def Num.floorLog2 : Num → Int
  | .fin _ m e => (Nat.log2 m : Int) + e
  | _ => 0

/-! ### Function instructions (R264)

Each result that is no dyadic number is represented by its first bits and one further bit set below them, so that every
comparison with a representable value, a midpoint or a threshold of R161 comes out as for the exact result. The fixed
point carries `fp` fraction bits. -/

/-- Fraction bits of the fixed-point evaluation. [log 61 UNVERIFIED] -/
def fp : Nat := 640

/-- A positive value that is m × 2^e cut short: the sticky bit says it is not exactly that. [log 61 UNVERIFIED] -/
def sticky (neg : Bool) (m : Nat) (e : Int) : Num := .fin neg (2 * m + 1) (e - 1)

/-- Integer square root by bits, k the bits of the root still to find. -/
def isqrt (n : Nat) : Nat → Nat → Nat
  | 0, r => r
  | k + 1, r =>
    let c := r + 2 ^ k
    if c * c ≤ n then isqrt n k c else isqrt n k r

/-- Sum of the terms t(n), t(n+1), …, each from the one before, in fixed point; used by every series below. -/
def series (next : Nat → Nat → Nat) : Nat → Nat → Nat → Nat → Nat
  | 0, _, _, acc => acc
  | k + 1, n, t, acc => series next k (n + 1) (next n t) (acc + t)

/-- ln 2 in fixed point: the sum of 1 / (n 2^n). -/
def ln2 : Nat :=
  let w := fp + 32
  (series (fun n t => t * n / (2 * (n + 1))) 700 1 (2 ^ w / 2) 0) / 2 ^ 32

/-- e^y for y in fixed point, 0 ≤ y < 1, by its power series. -/
def expSmall (y : Nat) : Nat := series (fun n t => t * y / 2 ^ fp / (n + 1)) 200 0 (2 ^ fp) 0

/-- 2^f for a fixed-point fraction f. -/
def exp2Frac (f : Nat) : Nat := expSmall (f * ln2 / 2 ^ fp)

/-- The fixed-point value of m × 2^e, rounded down. -/
def toFixed (m : Nat) (e : Int) : Nat :=
  let s := e + fp
  if s ≥ 0 then m <<< s.toNat else m >>> (-s).toNat

/-- e^(-y) for y ≥ 0 in fixed point: a mantissa in fixed point and a power of two. -/
def expNeg (y : Nat) : Nat × Int :=
  let n := y / ln2
  let r := y - n * ln2
  if r = 0 then (2 ^ fp, -(n : Int)) else (expSmall (ln2 - r) , -(n : Int) - 1)

/-- 1/v (R264 VFRCP). [log 61 UNVERIFIED] -/
def Num.rcp : Num → Num
  | .nan => .nan
  | .inf s => .fin s 0 0
  | .fin s 0 _ => .inf s
  | .fin s m e =>
    let q := 2 ^ fp / m
    if q * m = 2 ^ fp then .fin s q (-e - fp) else sticky s q (-e - fp)

/-- 1/√v (R264 VFRSQ). [log 61 UNVERIFIED] -/
def Num.rsq : Num → Num
  | .nan => .nan
  | .inf s => if s then .nan else .zero
  | .fin s 0 _ => .inf s
  | .fin true _ _ => .nan
  | .fin false m e =>
    let m2 := if e % 2 = 0 then m else 2 * m
    let e2 := if e % 2 = 0 then e else e - 1
    let n := 2 ^ (2 * fp) / m2
    let r := isqrt n (fp + 1) 0
    if r * r * m2 = 2 ^ (2 * fp) then .fin false r (-(e2 / 2) - fp) else sticky false r (-(e2 / 2) - fp)

/-- 2^v (R264 VFEXP2); a power beyond every format is cut to ±4096. [log 61 UNVERIFIED] -/
def Num.exp2 : Num → Num
  | .nan => .nan
  | .inf s => if s then .zero else .inf false
  | .fin s m e =>
    if m = 0 then .fin false 1 0
    else if (Num.fin s m e).floorLog2 ≥ 12 then .fin false 1 (if s then -4096 else 4096)
    else
      let ip : Nat := if e ≥ 0 then m <<< e.toNat else m >>> (-e).toNat
      let whole := e ≥ 0 || (ip <<< (-e).toNat == m)
      if whole then .fin false 1 (if s then -(ip : Int) else ip)
      else
        let f := toFixed m e - ip * 2 ^ fp
        if s then sticky false (exp2Frac (2 ^ fp - f)) (-(ip : Int) - 1 - fp)
        else sticky false (exp2Frac f) ((ip : Int) - fp)

/-- ln(1 + 2z/(1-z)) = 2 atanh z for z in fixed point. -/
def twoAtanh (z : Nat) : Nat :=
  let z2 := z * z / 2 ^ fp
  2 * (series (fun n t => t * z2 / 2 ^ fp * (2 * n + 1) / (2 * n + 3)) 420 0 z 0)

/-- log2 v (R264 VFLOG2). [log 61 UNVERIFIED] -/
def Num.log2 : Num → Num
  | .nan => .nan
  | .inf s => if s then .nan else .inf false
  | .fin _ 0 _ => .inf true
  | .fin true _ _ => .nan
  | .fin false m e =>
    let k := Nat.log2 m
    let ex : Int := (k : Int) + e
    if m = 2 ^ k then .ofInt ex
    else
      -- m = 2^k × (1 + t), z = t / (2 + t) = (m - 2^k) / (m + 2^k)
      let z := ((m - 2 ^ k) <<< fp) / (m + 2 ^ k)
      let l := twoAtanh z * 2 ^ fp / ln2
      if ex ≥ 0 then sticky false (ex.toNat * 2 ^ fp + l) (-fp)
      else sticky true ((-ex).toNat * 2 ^ fp - l - 1) (-fp)

/-- A positive value below every threshold of every format, standing for a result too small to matter. -/
def tiny (neg : Bool) : Num := .fin neg 1 (-1000)

/-- 1/(1 + e^-v) (R264 VFSIG). [log 61 UNVERIFIED] -/
def Num.sig : Num → Num
  | .nan => .nan
  | .inf s => if s then .zero else .fin false 1 0
  | .fin _ 0 _ => .fin false 1 (-1)
  | .fin s m e =>
    if (Num.fin s m e).floorLog2 ≥ 8 then
      if s then tiny false else sticky false (2 ^ 600 - 1) (-600)
    else
      -- t = e^-|v| = g × 2^x
      let (g, x) := expNeg (toFixed m e)
      if s then
        -- t / (1 + t)
        sticky false (g * 2 ^ fp / (2 ^ fp + (g >>> (-x).toNat))) (x - fp)
      else sticky false (2 ^ (2 * fp) / (2 ^ fp + (g >>> (-x).toNat)) - 1) (-fp)

/-- √(2/π) needs π: Machin's formula in fixed point. -/
def piFixed : Nat :=
  let w := fp + 32
  let atanInv (k : Nat) : Nat :=
    let t0 := 2 ^ w / k
    let pos := series (fun n t => t * (4 * n + 1) / (k * k * k * k) / (4 * n + 5)) 400 0 t0 0
    let neg := series (fun n t => t * (4 * n + 3) / (k * k * k * k) / (4 * n + 7)) 400 0 (t0 / (k * k) / 3) 0
    pos - neg
  (4 * (4 * atanInv 5 - atanInv 239)) / 2 ^ 32

/-- Φ(v) - 1/2 for v ≥ 0 in fixed point: φ(v) × Σ v^(2n+1) / (1·3·…·(2n+1)), all terms positive. -/
def phiHalf (v : Nat) : Nat :=
  let v2 := v * v / 2 ^ fp
  let sum := series (fun n t => t * v2 / 2 ^ fp / (2 * n + 3)) 1600 0 v 0
  let (g, x) := expNeg (v2 / 2)
  let root := isqrt (2 * piFixed * 2 ^ fp) (fp + 3) 0
  ((sum * g) >>> (-x).toNat) / root

/-- v × Φ(v) (R264 VFGELU). [log 61 UNVERIFIED] -/
def Num.gelu : Num → Num
  | .nan => .nan
  | .inf s => if s then .fin true 0 0 else .inf false
  | .fin s 0 _ => .fin s 0 0
  | .fin s m e =>
    if (Num.fin s m e).floorLog2 ≥ 4 ∧ toFixed m e ≥ 20 * 2 ^ fp then
      if s then tiny true else .fin false (m * 2 ^ 400 - 1) (e - 400)
    else
      let h := phiHalf (toFixed m e)
      let p := if s then 2 ^ (fp - 1) - h else 2 ^ (fp - 1) + h
      sticky s (m * p) (e - fp)

end Sys2Proof.Machine
end

