-- ==== Sys2Proof/Machine/Formats.lean ====
section
/-! DEFINITION. Number formats and their conversions (11_formats.md): the format codes of R151, the value of a code
(R153 to R158), the one rounding (R160, R161), overflow and specials (R163), block scales (R159). -/

namespace Sys2Proof.Machine

/-- The three sorts of format of R151. -/
inductive FmtKind where
  | family | ieee | int
  deriving DecidableEq, Repr

/-- A number format: element width, precision, bias, signedness and whether it has infinities. -/
structure Fmt where
  kind : FmtKind
  width : Nat
  p : Nat
  bias : Int
  signed : Bool
  hasInf : Bool
  deriving DecidableEq, Repr

def fmtF : Fmt := ⟨.ieee, 32, 24, 127, true, true⟩
def fmtH : Fmt := ⟨.ieee, 16, 11, 15, true, true⟩
def fmtBF : Fmt := ⟨.ieee, 16, 8, 127, true, true⟩
def fmtI8 : Fmt := ⟨.int, 8, 8, 0, true, false⟩
def fmtN8 : Fmt := ⟨.int, 8, 8, 0, false, false⟩
def fmtI32 : Fmt := ⟨.int, 32, 32, 0, true, false⟩

/-- A family member of width K and precision P (R153). -/
def fmtFamily (k p : Nat) (uns fin : Bool) : Fmt :=
  ⟨.family, k, p, if uns then 2 ^ (k - p) else 2 ^ (k - p - 1), !uns, !fin⟩

/-- The format a 7-bit code names, none for a reserved code (R151). -/
def fmtOf (code : BitVec 7) : Option Fmt :=
  if code[6] then
    let k4 := code[5]
    let p := (code.extractLsb' 0 3).toNat
    if p = 0 ∨ (k4 ∧ p > 3) then none
    else some (fmtFamily (if k4 then 4 else 8) p code[4] code[3])
  else
    match code.toNat with
    | 0 => some fmtF
    | 1 => some fmtH
    | 2 => some fmtBF
    | 3 => some fmtI8
    | 4 => some fmtN8
    | 5 => some fmtI32
    | _ => none

/-- R258's F class. -/
def Fmt.isF (f : Fmt) : Bool := f.kind != .int
/-- R258's I class. -/
def Fmt.isI (f : Fmt) : Bool := f.kind == .int
/-- Formats that a block-scaled view may have (R158). -/
def Fmt.mayScale (f : Fmt) : Bool := f.kind == .family || f == fmtH || f == fmtBF

/-- Lanes of a 2048-bit view (R152, R190). -/
def Fmt.lanes (f : Fmt) : Nat := 2048 / f.width

/-- Width of the magnitude field M. -/
def Fmt.magBits (f : Fmt) : Nat := if f.signed then f.width - 1 else f.width

/-- The magnitude field of the largest finite value (R154; IEEE for the others). -/
def Fmt.maxMag (f : Fmt) : Nat :=
  match f.kind with
  | .family =>
    let top := 2 ^ f.magBits - 1
    if f.signed then (if f.hasInf then top - 1 else top) else (if f.hasInf then top - 2 else top - 1)
  | .ieee => 2 ^ f.magBits - 2 ^ (f.p - 1) - 1
  | .int => 2 ^ f.magBits - 1

/-- Exponent of the spacing among subnormals; M = n + (q - minQ) × 2^(P-1) for the magnitude n × 2^q. -/
def Fmt.minQ (f : Fmt) : Int := 2 - f.bias - f.p

/-- The NaN code (R154, R156). -/
def Fmt.nanCode (f : Fmt) : Nat :=
  match f.kind with
  | .family => if f.signed then 2 ^ (f.width - 1) else 2 ^ f.width - 1
  | .ieee => 2 ^ f.magBits - 2 ^ (f.p - 2)
  | .int => 0

/-- The code of an infinity, for a format that has it (R154). -/
def Fmt.infCode (f : Fmt) (neg : Bool) : Nat :=
  match f.kind with
  | .family =>
    if f.signed then (if neg then 2 ^ f.width - 1 else 2 ^ f.magBits - 1)
    else (if neg then f.nanCode else 2 ^ f.width - 2)
  | _ => (if neg then 2 ^ f.magBits else 0) + (2 ^ f.magBits - 2 ^ (f.p - 1))

/-- The magnitude that a field M names, as n × 2^q. -/
def Fmt.ofMag (f : Fmt) (neg : Bool) (mag : Nat) : Num :=
  let t := 2 ^ (f.p - 1)
  let ex := mag / t
  if ex = 0 then .fin neg mag f.minQ else .fin neg (mag % t + t) (f.minQ + (ex - 1 : Nat))

/-- The exact value of an element code, before any block scale (R153 to R157). -/
def Fmt.value (f : Fmt) (code : Nat) : Num :=
  let neg := f.signed && (code / 2 ^ (f.width - 1)) % 2 == 1
  let mag := code % 2 ^ f.magBits
  match f.kind with
  | .int => .ofInt (if neg then (code : Int) - 2 ^ f.width else code)
  | .ieee =>
    let t := 2 ^ (f.p - 1)
    if mag / t = 2 ^ (f.width - f.p) - 1 then (if mag % t = 0 then .inf neg else .nan)
    else f.ofMag neg mag
  | .family =>
    if code = f.nanCode then .nan
    else if f.hasInf && mag == f.maxMag + 1 then .inf neg
    else f.ofMag neg mag

/-- The value of an element under scale byte s, exactly; 0xFF makes it NaN (R158). -/
def scaled (x : Num) (s : Nat) : Num := if s = 255 then .nan else x.scale2 ((s : Int) - 127)

/-! ### Rounding -/

/-- One step of the Galois LFSR (R161). -/
def lfsrStep (l : BitVec 16) : BitVec 16 := if l[0] then (l >>> 1) ^^^ 0xB400 else l >>> 1

/-- How a rounding chooses between lo and hi: nearest even, or stochastic against L (R160, R161). -/
inductive Rnd where
  | ne
  | sr (l : BitVec 16)
  deriving DecidableEq, Repr

/-- The rounded multiple of 2^q of m × 2^e, ties to the even multiple when `even0` says lo is even. -/
def roundAt (r : Rnd) (m : Nat) (e q : Int) (even : Nat → Bool) : Nat :=
  if e ≥ q then m <<< (e - q).toNat
  else
    let sh := (q - e).toNat
    let lo := m >>> sh
    let rest := m - lo <<< sh
    match r with
    | .ne =>
      let twice := 2 * rest
      if twice > 2 ^ sh then lo + 1
      else if twice = 2 ^ sh then (if even lo then lo else lo + 1)
      else lo
    | .sr l => if (rest <<< 16) >>> sh ≥ l.toNat then lo + 1 else lo

/-- The magnitude field that m × 2^e rounds to, the exponent range unbounded above (R160). -/
def Fmt.roundMag (f : Fmt) (r : Rnd) (m : Nat) (e : Int) : Nat :=
  if m = 0 then 0
  else if f.kind = .int then roundAt r m e 0 (fun n => n % 2 = 0)
  else
    let q := max f.minQ ((Nat.log2 m : Int) + e - (f.p - 1 : Nat))
    let base := (q - f.minQ).toNat * 2 ^ (f.p - 1)
    base + roundAt r m e q (fun n => (base + n) % 2 = 0)

/-- What a conversion of one element gives: the code delivered unless the element is recorded, and whether it
overflowed under a policy that records (R163). `code` is the saturated code then. -/
structure Conv where
  code : Nat
  record : Bool
  deriving DecidableEq, Repr

/-- The code of a magnitude field with its sign; the family and the integers have no negative zero (R154). -/
def Fmt.signCode (f : Fmt) (neg : Bool) (mag : Nat) : Nat :=
  match f.kind with
  | .int => if neg then (2 ^ f.width - mag) % 2 ^ f.width else mag
  | .family => if neg && mag != 0 then 2 ^ f.magBits + mag else mag
  | .ieee => if neg then 2 ^ f.magBits + mag else mag

/-- The end of the range a saturated element takes (R163). -/
def Fmt.satCode (f : Fmt) (neg : Bool) : Nat :=
  if neg && !f.signed then 0
  else if f.kind = .int && neg then 2 ^ f.magBits
  else f.signCode neg f.maxMag

/-- The element a special value becomes (R163's second table). -/
def Fmt.special (f : Fmt) (x : Num) : Nat :=
  match x with
  | .inf neg =>
    if f.kind = .int then f.satCode neg
    else if f.hasInf then f.infCode neg else f.nanCode
  | _ => f.nanCode

/-- Whether a rounded magnitude overflows f (R163). -/
def Fmt.overflows (f : Fmt) (neg : Bool) (mag : Nat) : Bool :=
  if neg && !f.signed then mag != 0
  else if f.kind = .int && neg then mag > f.maxMag + 1
  else mag > f.maxMag

/-- `Convert` without the list: rounding, then the overflow policy ovf (R160 to R163, R260 for i32). -/
def Fmt.convert (f : Fmt) (r : Rnd) (ovf : BitVec 2) (x : Num) : Conv :=
  match x with
  | .fin neg m e =>
    let mag := f.roundMag r m e
    if f.overflows neg mag then
      if f = fmtF then ⟨f.infCode neg, false⟩
      else if f = fmtI32 then ⟨f.satCode neg, false⟩
      else if ovf = 0 then ⟨f.satCode neg, true⟩
      else if ovf = 1 || f.kind = .int then ⟨f.satCode neg, false⟩
      else if f.hasInf && (f.signed || !neg) then ⟨f.infCode neg, false⟩
      else ⟨f.nanCode, false⟩
    else ⟨f.signCode neg mag, false⟩
  | y => ⟨f.special y, false⟩

/-- RoundNE to binary32, as a code (R156, R190). -/
def toF32 (x : Num) : Nat := (fmtF.convert .ne 1 x).code

/-- RoundNE to binary32, as a value. -/
def roundF32 (x : Num) : Num := fmtF.value (toF32 x)

/-- The integer R160 rounds x to, saturated to the i32 range: an outlier record's VALUE for an integer destination. -/
def recordInt (r : Rnd) (x : Num) : Nat := (fmtI32.convert r 1 x).code

/-- The VALUE field of an outlier record (R164, R260). -/
def recordValue (f : Fmt) (r : Rnd) (x : Num) : Nat := if f.isI then recordInt r x else toF32 x

/-- Unbiased exponent of maxfin (R159). -/
def Fmt.emax (f : Fmt) : Int := (f.ofMag false f.maxMag).floorLog2

/-- The scale byte chosen for one block of source values (R159). -/
def chooseScale (f : Fmt) (xs : List Num) : Nat :=
  let fins := xs.filter (fun x => match x with | .fin _ m _ => m != 0 | _ => false)
  match fins.map Num.floorLog2 with
  | [] => 127
  | e :: es => (min 254 (max 0 (es.foldl max e - f.emax + 127))).toNat

end Sys2Proof.Machine
end

