-- ==== Sys2Proof/Syntax.lean ====
section
/-! DEFINITION. The steps of the KX4: one constructor of `Instr` for each row of the table of operations and events.
The first part are the instructions a core fetches (chapters 15, 17, 19, 21, 23, 25), the second the micro-instructions
of the near-bank units (R343), the third the events: what a unit, firmware, the loader, the host or a peer package does,
with what that party supplies as the constructor's arguments. -/

namespace Sys2Proof

/-- A firing slot of the package: tile, core (0 S-core, 1 C-core) and slot (R7, R8). -/
structure SlotId where
  tile : BitVec 10
  core : Bool
  slot : BitVec 2
  deriving DecidableEq, Repr

/-- The four localities of a title (R70 LOC). -/
inductive Loc where
  | tile | cluster | hbm | peer
  deriving DecidableEq, Repr

/-- An engine or port with a world bit of its own (R87): the pool engine of a die, the engines of a base die, the Tramontane of a
cluster, a UALink port, the host port. -/
inductive WorldUnit where
  | pool (die : BitVec 3)
  | base (stack : BitVec 4)
  | tramontane (cluster : BitVec 6)
  | port (port : BitVec 4)
  | host
  deriving DecidableEq, Repr

/-- A signed component (R36, R37): its digest, and the security version that it reports in its measurement. -/
structure Component where
  digest : BitVec 256
  version : Word
  deriving DecidableEq, Repr

/-- What boot finds and the signed firmware image holds (R24, R35, R38, R87, R359, R378). -/
structure BootImage where
  firmware : Component
  firmwareSigned : Bool
  monitor : Component
  monitorSigned : Bool
  liveMask : BitVec 16
  accelId : BitVec 10
  outOfService : List (BitVec 10)
  withdrawnLinks : List (BitVec 3 × BitVec 3)
  secureClusters : List (BitVec 6)
  secureUnits : List WorldUnit
  hostVisible : List (Nat × Nat)
  regions : List (Nat × Nat × Bool)
  shrinkTimeoutMs : BitVec 32
  errorLimit : Nat := 0
  deriving DecidableEq, Repr

/-- The two parts of a start (R35): steps 1 to 4 from the image, and step 5. -/
inductive BootPhase where
  | start (image : BootImage)
  | release
  deriving DecidableEq, Repr

/-- The request from which firmware creates a context (R44, R45, R71, R96, R162, R309). `replayOutside` names the entries of `replayLog`
whose message came from outside the context, which an entry without payload does not say itself (R146, R149). -/
structure CtxRequest where
  ctx : BitVec 8
  world : Bool
  domain : BitVec 10
  key : Byte
  func : BitVec 5
  rerun : BitVec 2
  globals : BitVec 56
  saveArea : BitVec 48
  faultArea : BitVec 48
  top : BitVec 36
  tableSize : Nat
  rseed : BitVec 16
  poolGrant : Nat
  logCapacity : Nat
  gateAdmitted : Bool
  replayLog : List (BitVec 64 × BitVec 64)
  replayOutside : List Nat := []
  deriving DecidableEq, Repr

/-- A `.handler` with its `.place` (R46, R189); `joint` names the other handler of a joint pair by its place in the list. -/
structure HandlerSpec where
  index : Option (BitVec 6)
  tiles : List (BitVec 10)
  prio : BitVec 3
  cclass : Bool
  gate : Option Byte
  sec : Option Nat
  rate : BitVec 6
  srate : BitVec 6
  prod : BitVec 6
  slab : Byte
  cap : Byte
  ring : Nat
  entry : BitVec 56
  trap : BitVec 56
  wdog : BitVec 32
  joint : Option Nat
  deriving DecidableEq, Repr

/-- A `.chan` (R189, R250). -/
structure ChanSpec where
  cap : Byte
  ring : Nat
  deriving DecidableEq, Repr

/-- A `.title` with the storage the loader chose for it (R72, R189, R335). -/
structure TitleSpec where
  loc : Loc
  base : BitVec 56
  len : Nat
  toOff : Nat
  at_ : BitVec 10
  writable : Bool
  arena : Bool
  commons : Bool
  init : List Byte
  deriving DecidableEq, Repr

/-- The landing arenas of one tile (R251): the base in tile SRAM and in the global window. -/
structure LandingSpec where
  tile : BitVec 10
  tileBase : BitVec 56
  hbmBase : BitVec 56
  deriving DecidableEq, Repr

/-- A graph as the loader places it for a context (R46, R72, R189, R209, R250, R251). -/
structure Graph where
  ctx : BitVec 8
  codeLo : BitVec 56
  codeHi : BitVec 56
  code : List (BitVec 32)
  handlers : List HandlerSpec
  chans : List ChanSpec
  titles : List TitleSpec
  landing : List LandingSpec
  spawnQueue : Nat
  deriving DecidableEq, Repr

/-- The options of a pod load (R282, R283): the accelerator ids of `pod=` in ring order, the place of the `.title` that `window=` names
among the directives, and whether the firmware of another package refuses its part. -/
structure PodLoad where
  pod : List (BitVec 10)
  window : Option Nat
  refused : Bool
  deriving DecidableEq, Repr

/-- A UALink transaction that reaches the gateway (R32, R50, R65, R78, R118, R119, R248, R374): a message; a title sent as a byte copy, with
its message (`bad`: its poisoned 64-byte units); the word that a message of the peer has been discarded after 2,000,000 cycles of
refusals; the acknowledgement of a message, a write or a byte copy of this package; its refusal for the time being, its diversion, its
arrival at a channel without owner, or the want of room for a copy; a read or write of memory here; an atomic here, and the
reply to one of ours: a value, or that its wait is parked or not parked. `flow` numbers the sending slot at its package (tile, core
and slot). -/
inductive PeerTxn where
  | message (flow : BitVec 13) (hdr : Word) (tile : BitVec 10) (payload : List Word) (world : Bool)
  | copy (flow : BitVec 13) (hdr : Word) (tile : BitVec 10) (payload : List Word) (world : Bool) (rights : BitVec 5)
      (bytes : List Byte) (bad : List Nat)
  | discarded (flow : BitVec 13) (hdr : Word) (tile : BitVec 10)
  | ack (id : Nat)
  | refused (id : Nat) (tile : BitVec 10)
  | diverted (id : Nat) (tile : BitVec 10)
  | unowned (id : Nat) (tile : BitVec 10)
  | noRoom (id : Nat)
  | read (pa : BitVec 48) (n : Nat) (domain : BitVec 10) (world : Bool)
  | write (pa : BitVec 48) (bytes : List Byte) (bad : Bool) (domain : BitVec 10) (world : Bool)
  | atomic (op : BitVec 4) (n : Bool) (pa : BitVec 48) (arg cmp : Word) (domain : BitVec 10) (world : Bool) (flow : BitVec 13)
      (seq : BitVec 20) (replay : Bool)
  | atomicReply (id : Nat) (value : Word) (poison indeterminate : Bool)
  | atomicParked (id : Nat)
  | atomicNotParked (id : Nat)
  deriving DecidableEq, Repr

/-- Where a UALink transaction arrives and what accelerator it comes from (R31, R33). -/
structure PortPeer where
  port : BitVec 4
  accel : BitVec 10
  deriving DecidableEq, Repr

/-- The registers that only store what is written (R4), each with the rules of R24, R26, R32, R45, R110, R111, R135: `bar` is a write of
BAR0 of a function at an offset, `lwkey` function 0's write in a function's configuration space, `hostMark` firmware's mark of a
range as host-visible, `ideKey` and `ualinkKey` a double word of a key set through Iluson, `termTaken` the records that the
Stolben controller has taken from the terminal ring. -/
inductive PlainReg where
  | bar (f : BitVec 5) (offset : BitVec 12)
  | hostMark (lo hi : BitVec 48)
  | ideKey (n : BitVec 2)
  | ualinkKey (port : BitVec 4) (n : BitVec 2)
  | termTaken
  | lwctlLogsize (f : BitVec 5)
  | lwbase (f : BitVec 5)
  | lwkey (f : BitVec 5)
  | frctlLogsize (f : BitVec 5)
  | frbase (f : BitVec 5)
  | frhead (f : BitVec 5)
  | budget (domain : BitVec 10)
  | gkey (tile : BitVec 10) (entry : BitVec 6)
  | wdog (tile : BitVec 10) (entry : BitVec 6)
  | rfmThreshold
  | other (name : Nat)
  deriving DecidableEq, Repr

/-- The readings a telemetry report carries (R41). -/
structure Readings where
  dieTemp : List Nat
  diePower : List Nat
  modulePower : Nat
  coolantInlet : Nat
  stackTemp : List Nat
  deriving DecidableEq, Repr

/-- A request to a base die (R106, R363, R365): the migration map of its requester is the new one; and the errors that have arisen in HBM
before it: of 64-byte units, by physical address, how many 16-bit symbols are in error now, and the opened granules in whose near-bank
state an error lies that ECC does not correct. -/
structure HbmRead where
  newMap : Bool
  decays : List (Nat × Nat) := []
  stateErrors : List Nat := []
  deriving DecidableEq, Repr

/-- What a page walk or an access is made for (R99). -/
inductive AccKind where
  | read | write | fetch
  deriving DecidableEq, Repr

inductive Instr where
  -- RV64I, M, Zicsr (R192)
  | lui (rd : XReg) (imm : BitVec 20)
  | auipc (rd : XReg) (imm : BitVec 20)
  | jal (rd : XReg) (imm : BitVec 20)
  | jalr (rd rs1 : XReg) (imm : BitVec 12)
  | beq (rs1 rs2 : XReg) (imm : BitVec 12)
  | bne (rs1 rs2 : XReg) (imm : BitVec 12)
  | blt (rs1 rs2 : XReg) (imm : BitVec 12)
  | bge (rs1 rs2 : XReg) (imm : BitVec 12)
  | bltu (rs1 rs2 : XReg) (imm : BitVec 12)
  | bgeu (rs1 rs2 : XReg) (imm : BitVec 12)
  | lb (rd rs1 : XReg) (imm : BitVec 12)
  | lh (rd rs1 : XReg) (imm : BitVec 12)
  | lw (rd rs1 : XReg) (imm : BitVec 12)
  | ld (rd rs1 : XReg) (imm : BitVec 12)
  | lbu (rd rs1 : XReg) (imm : BitVec 12)
  | lhu (rd rs1 : XReg) (imm : BitVec 12)
  | lwu (rd rs1 : XReg) (imm : BitVec 12)
  | sb (rs1 rs2 : XReg) (imm : BitVec 12)
  | sh (rs1 rs2 : XReg) (imm : BitVec 12)
  | sw (rs1 rs2 : XReg) (imm : BitVec 12)
  | sd (rs1 rs2 : XReg) (imm : BitVec 12)
  | addi (rd rs1 : XReg) (imm : BitVec 12)
  | slti (rd rs1 : XReg) (imm : BitVec 12)
  | sltiu (rd rs1 : XReg) (imm : BitVec 12)
  | xori (rd rs1 : XReg) (imm : BitVec 12)
  | ori (rd rs1 : XReg) (imm : BitVec 12)
  | andi (rd rs1 : XReg) (imm : BitVec 12)
  | slli (rd rs1 : XReg) (sh : BitVec 6)
  | srli (rd rs1 : XReg) (sh : BitVec 6)
  | srai (rd rs1 : XReg) (sh : BitVec 6)
  | add (rd rs1 rs2 : XReg)
  | sub (rd rs1 rs2 : XReg)
  | sll (rd rs1 rs2 : XReg)
  | slt (rd rs1 rs2 : XReg)
  | sltu (rd rs1 rs2 : XReg)
  | xor (rd rs1 rs2 : XReg)
  | srl (rd rs1 rs2 : XReg)
  | sra (rd rs1 rs2 : XReg)
  | or (rd rs1 rs2 : XReg)
  | and (rd rs1 rs2 : XReg)
  | addiw (rd rs1 : XReg) (imm : BitVec 12)
  | slliw (rd rs1 : XReg) (sh : BitVec 5)
  | srliw (rd rs1 : XReg) (sh : BitVec 5)
  | sraiw (rd rs1 : XReg) (sh : BitVec 5)
  | addw (rd rs1 rs2 : XReg)
  | subw (rd rs1 rs2 : XReg)
  | sllw (rd rs1 rs2 : XReg)
  | srlw (rd rs1 rs2 : XReg)
  | sraw (rd rs1 rs2 : XReg)
  | mul (rd rs1 rs2 : XReg)
  | mulh (rd rs1 rs2 : XReg)
  | mulhsu (rd rs1 rs2 : XReg)
  | mulhu (rd rs1 rs2 : XReg)
  | div (rd rs1 rs2 : XReg)
  | divu (rd rs1 rs2 : XReg)
  | rem (rd rs1 rs2 : XReg)
  | remu (rd rs1 rs2 : XReg)
  | mulw (rd rs1 rs2 : XReg)
  | divw (rd rs1 rs2 : XReg)
  | divuw (rd rs1 rs2 : XReg)
  | remw (rd rs1 rs2 : XReg)
  | remuw (rd rs1 rs2 : XReg)
  | fence (fm pred succ : BitVec 4) (rs1 rd : XReg)
  | fenceTso (rs1 rd : XReg)
  | pause
  | fenceI (imm : BitVec 12) (rs1 rd : XReg)
  | ecall
  | ebreak
  | csrrw (rd rs1 : XReg) (csr : BitVec 12)
  | csrrs (rd rs1 : XReg) (csr : BitVec 12)
  | csrrc (rd rs1 : XReg) (csr : BitVec 12)
  | csrrwi (rd : XReg) (uimm : BitVec 5) (csr : BitVec 12)
  | csrrsi (rd : XReg) (uimm : BitVec 5) (csr : BitVec 12)
  | csrrci (rd : XReg) (uimm : BitVec 5) (csr : BitVec 12)
  -- custom-0: control and messaging (R193)
  | exit
  | exitS (rs : XReg)
  | spawn (rs1 rs2 : XReg)
  | rspawn (rd rs1 rs2 : XReg)
  | send (rs1 rs2 : XReg)
  | sendShort (rs : XReg) (tile : BitVec 10) (chan : BitVec 6)
  | sendv (rs1 : XReg) (vs : VReg)
  | volley (rs1 rs2 : XReg)
  | post (rs1 rs2 : XReg)
  | recv (rd : XReg) (kd : KReg) (rs : XReg)
  | chpop (rd rs : XReg)
  | chcnt (rd rs : XReg)
  | hmask (rs : XReg)
  | hunmask (rs : XReg)
  | hprio (rs1 rs2 : XReg)
  | semV (n : SemNo)
  | semP (n : SemNo)
  | semTry (rd : XReg) (n : SemNo)
  | waitj (rd rs : XReg)
  | jstat (rd rs : XReg)
  | trap (rs : XReg)
  | kfault (rd rs : XReg)
  | ksave (rd rs1 rs2 : XReg)
  | resume
  | skipf
  | abandon
  | ctxkill (rs : XReg)
  | view (vwd : VwReg) (ks : KReg) (rs : XReg)
  | viewq (rd : XReg) (vws : VwReg) (n : BitVec 2)
  | slotid (rd : XReg)
  | tileid (rd : XReg)
  | rerunMark (rs : XReg)
  -- custom-0 group 110: the pool (R323)
  | pins (kp : KReg) (rs1 rs2 : XReg)
  | pinsK (kp : KReg) (rs : XReg) (kv : KReg)
  | ptakeNb (kd kp : KReg) (rs : XReg)
  | ptakeM (kp : KReg) (rs : XReg)
  | pcfg (kp : KReg) (rs : XReg)
  | pstat (rd : XReg) (kp : KReg) (n : BitVec 3)
  | pdrain (rd rs : XReg)
  -- custom-1: titles (R219)
  | tnew (kd ka : KReg) (rs : XReg)
  | tfree (kd ka : KReg)
  | tsplit (kd ks : KReg) (m : BitVec 5)
  | tjoin (kd ks : KReg)
  | tnarrow (kd ks : KReg) (rs : XReg)
  | tsend (ks : KReg) (rs : XReg)
  | tsendShort (ks : KReg) (tile : BitVec 10) (chan : BitVec 6)
  | tsendr (rd : XReg) (ks : KReg) (rs : XReg)
  | tinfo (rd : XReg) (ks : KReg) (n : BitVec 5)
  | tchk (rd : XReg) (ks : KReg) (rs : XReg)
  -- custom-1: title loads and stores (R229), vector memory (R231)
  | ldkB (rd : XReg) (k : KReg) (imm : BitVec 10)
  | ldkH (rd : XReg) (k : KReg) (imm : BitVec 10)
  | ldkW (rd : XReg) (k : KReg) (imm : BitVec 10)
  | ldkD (rd : XReg) (k : KReg) (imm : BitVec 10)
  | ldkBN (rd : XReg) (k : KReg) (imm : BitVec 10)
  | ldkHN (rd : XReg) (k : KReg) (imm : BitVec 10)
  | ldkWN (rd : XReg) (k : KReg) (imm : BitVec 10)
  | ldkX (rd : XReg) (k : KReg) (rs : XReg) (size : Size) (zero : Bool)
  | stkB (rs : XReg) (k : KReg) (imm : BitVec 10)
  | stkH (rs : XReg) (k : KReg) (imm : BitVec 10)
  | stkW (rs : XReg) (k : KReg) (imm : BitVec 10)
  | stkD (rs : XReg) (k : KReg) (imm : BitVec 10)
  | vldk (vd : VReg) (k : KReg) (imm : BitVec 10)
  | vstk (vs : VReg) (k : KReg) (imm : BitVec 10)
  | vgather (vd : VReg) (k : KReg) (vi : VReg)
  | vscatter (vs : VReg) (k : KReg) (vi : VReg)
  -- custom-1: Tramontane (R234)
  | mvCopy (rd rs : XReg)
  | mvGet (rd rs : XReg)
  | mvPut (rd rs : XReg)
  | mvXfer (rd rs : XReg)
  | mvFill (rd rs : XReg)
  | mv2D (rd rs : XReg)
  | mvSlab (rd rs : XReg)
  -- custom-1: commons atomics (R245); ord is .ORD, n is .N
  | amoAdd (ord : Bool) (rd : XReg) (k : KReg) (rs : XReg)
  | amoMin (ord n : Bool) (rd : XReg) (k : KReg) (rs : XReg)
  | amoMax (ord n : Bool) (rd : XReg) (k : KReg) (rs : XReg)
  | amoAnd (ord : Bool) (rd : XReg) (k : KReg) (rs : XReg)
  | amoOr (ord : Bool) (rd : XReg) (k : KReg) (rs : XReg)
  | amoXor (ord : Bool) (rd : XReg) (k : KReg) (rs : XReg)
  | amoSwap (ord : Bool) (rd : XReg) (k : KReg) (rs : XReg)
  | amoCas (ord : Bool) (rd : XReg) (k : KReg) (rs : XReg)
  | amoFadd (ord : Bool) (rd : XReg) (k : KReg) (rs : XReg)
  | amoLd (ord : Bool) (rd : XReg) (k : KReg)
  | amoSt (ord : Bool) (k : KReg) (rs : XReg)
  | amoV (ord : Bool) (k : KReg) (rs : XReg)
  | amoWaitge (ord n : Bool) (rd : XReg) (k : KReg) (rs : XReg)
  -- custom-1: near-bank and base die (R345)
  | nbOpen (k : KReg) (rs : XReg)
  | nbBcast (rd rs : XReg)
  | nbRun (rd rs : XReg)
  | nbRead (rd rs : XReg)
  | nbClose (k : KReg) (rs : XReg)
  | nbRcopy (rd rs : XReg)
  | nbZero (rd : XReg) (k : KReg) (rs : XReg)
  | nbStat (rd : XReg) (k : KReg) (rs : XReg)
  -- custom-2: vector (R253)
  | vfadd (p : VMode) (vd vs1 vs2 : VReg)
  | vfsub (p : VMode) (vd vs1 vs2 : VReg)
  | vfmul (p : VMode) (vd vs1 vs2 : VReg)
  | vfma (p : VMode) (vd vs1 vs2 : VReg)
  | vfms (p : VMode) (vd vs1 vs2 : VReg)
  | vfmax (p : VMode) (vd vs1 vs2 : VReg)
  | vfmin (p : VMode) (vd vs1 vs2 : VReg)
  | vfabs (p : VMode) (vd vs1 : VReg)
  | vfneg (p : VMode) (vd vs1 : VReg)
  | vfrcp (p : VMode) (vd vs1 : VReg)
  | vfrsq (p : VMode) (vd vs1 : VReg)
  | vfexp2 (p : VMode) (vd vs1 : VReg)
  | vflog2 (p : VMode) (vd vs1 : VReg)
  | vfsig (p : VMode) (vd vs1 : VReg)
  | vfgelu (p : VMode) (vd vs1 : VReg)
  | viadd (p : VMode) (vd vs1 vs2 : VReg)
  | visub (p : VMode) (vd vs1 vs2 : VReg)
  | vimul (p : VMode) (vd vs1 vs2 : VReg)
  | vimax (p : VMode) (vd vs1 vs2 : VReg)
  | vimin (p : VMode) (vd vs1 vs2 : VReg)
  | vand (p : VMode) (vd vs1 vs2 : VReg)
  | vor (p : VMode) (vd vs1 vs2 : VReg)
  | vxor (p : VMode) (vd vs1 vs2 : VReg)
  | vshl (p : VMode) (vd vs1 vs2 : VReg)
  | vshr (p : VMode) (vd vs1 vs2 : VReg)
  | vcmp (p : VMode) (vd vs1 vs2 : VReg)
  | vsel (vd vs1 vs2 : VReg)
  | vredf (p : VMode) (rd : XReg) (vs1 : VReg) (op : RedOp)
  | vredi (p : VMode) (rd : XReg) (vs1 : VReg) (op : RedOp)
  | vscan (p : VMode) (vd vs1 : VReg) (op : RedOp)
  | vperm (vd vs1 vs2 : VReg)
  | vbcast (vd vs1 : VReg) (rs2 : XReg)
  | vslide (vd vs1 : VReg) (rs2 : XReg)
  | vzip (vd vs1 vs2 : VReg)
  | vunz (vd vs1 vs2 : VReg)
  | vdot (p : VMode) (rd : XReg) (vs1 vs2 : VReg)
  | vmovx (rd : XReg) (vs1 : VReg) (rs2 : XReg)
  | vsetm (vd vs1 : VReg) (cond : BitVec 4)
  | vfclass (p : VMode) (vd vs1 : VReg)
  | vsplat (p : VMode) (vd : VReg) (rs1 : XReg)
  | voutl (vd : VReg) (rs1 : XReg)
  | vcvt (tag : BitVec 7) (p : VMode) (vd vs1 : VReg)
  -- custom-3: matrix (R290)
  | mma (z : Bool) (cd : CReg) (ma : MC) (mb : MReg)
  | mmaB16 (z : Bool) (cd : CReg) (ma : MC) (mb : MReg)
  | mmaO (cd : CReg) (ma : MC) (mb : MReg)
  | mmai (z : Bool) (cd : CReg) (ma mb : MReg)
  | mcvt (i t : Bool) (md : MReg) (cs : CReg)
  | mzero (cd : CReg)
  | mldc (cd : CReg) (ms : MReg)
  | mstc (md : MReg) (cs : CReg)
  | mtrn (d s : MC)
  | macca (i : Bool) (cd ca cb : CReg)
  | mstat (clr : Bool) (rd : XReg) (cs : CReg)
  -- micro-instructions of the near-bank units (R343)
  | halt
  | act
  | mac16 (a : BitVec 4) (u r : BitVec 3) (f : Bool)
  | adds (d a c : BitVec 4)
  | scale (a : BitVec 4) (e : BitVec 8)
  | nextrow
  | loop (t : BitVec 6) (n : BitVec 8)
  | putacc (a s : BitVec 4)
  -- events: fabric (R18 to R22)
  | zondaFlitReceive (src dst : BitVec 3) (group : BitVec 6) (lsn : Nat) (crcOk : Bool) (beats : List (BitVec 128))
  | laneRemoval (src dst : BitVec 3) (group : BitVec 6) (lane : BitVec 4)
  | retrainDone (src dst : BitVec 3) (group : BitVec 6)
  | linkFailure (src dst : BitVec 3) (withdrawn : Bool)
  -- events: host port (R26 to R30, R375)
  | lwctlEn (f : BitVec 5) (en : Bool)
  | lwctlClrerr (f : BitVec 5)
  | lwtail (f : BitVec 5) (tail : BitVec 32) (wrote : List (Word × List Byte))
  | descriptorConsume (f : BitVec 5) (readError : Bool)
  | launchReoffer (f : BitVec 5) (i : Nat)
  | launchDiscard (f : BitVec 5) (i : Nat)
  -- events: UALink, boot, attestation, power (R32 to R41)
  | portFailure (port : BitVec 4)
  | gatewayReceive (via : PortPeer) (t : PeerTxn)
  | powerGood (phase : BootPhase)
  | getVersion
  | getCapabilities
  | negotiateAlgorithms
  | getDigests
  | getCertificate (offset length : Nat)
  | challenge (nonce : BitVec 256)
  | getMeasurements (index : Nat)
  | accelIdOverride (id : BitVec 10)
  | clockStepDown (die : BitVec 3) (temp watts : Nat)
  | clockStepUp (die : BitVec 3) (temp : Nat)
  | thermalStop (die : BitVec 3) (temp : Nat)
  | powerLimitSet (watts : Nat)
  | telemetryReport (r : Readings)
  -- events: contexts, loading, messages, selection (chapters 03, 05, 18, 20)
  | contextCreate (r : CtxRequest)
  | contextEnd (ctx : BitVec 8)
  | graphLoad (g : Graph)
  | podLoad (g : Graph) (pod : PodLoad)
  | messageArrive (src : BitVec 10) (buf : Nat) (dst : BitVec 10)
  | messageReoffer (src : BitVec 10) (buf : Nat) (dst : BitVec 10)
  | messageDiscard (src : BitVec 10) (buf : Nat) (dst : BitVec 10)
  | outboxGrant (tile : BitVec 10)
  | postDepart (tile : BitVec 10) (buf : Nat)
  | selection (tile : BitVec 10) (core : Bool)
  | agePromotion (tile : BitVec 10) (entry : BitVec 6)
  | rspawnRequest (id : Nat)
  | rspawnReply (id : Nat)
  | watchdogExpiry (slot : SlotId)
  | watchdogSecondExpiry (slot : SlotId)
  | contextSwitch (ctx : BitVec 8)
  | contextSave (ctx : BitVec 8)
  | contextRestore (ctx : BitVec 8)
  | domainCreate (domain : BitVec 10)
  | domainDestroy (domain : BitVec 10)
  -- events: memory (chapter 07)
  | pageWalkComplete (cluster : BitVec 6) (i : Nat)
  | tlbInvalidate (ctx : BitVec 8) (lo hi : BitVec 56)
  | migrationThreshold (ctx : BitVec 8) (va : BitVec 56)
  | pageMigrate (ctx : BitVec 8) (va : BitVec 56) (ppn : BitVec 36)
  | hbmRequest (cluster : BitVec 6) (line : Nat) (phase : Byte) (how : HbmRead)
  | rfmCommand (stack : BitVec 4) (pc : BitVec 6) (bank : BitVec 4) (domain : BitVec 10)
  | tokenRefill (stack : BitVec 4) (domain : BitVec 10)
  | atomicArrive (id : Nat)
  | waitgeRetry (slot : SlotId)
  | atomicResend (id : Nat)
  | atomicReply (id : Nat)
  -- events: faults and rerun (chapter 09)
  | trapEntry (slot : SlotId)
  | hardwareError (ctx : BitVec 8) (slot : SlotId)
  | recordGrant
  | frctlEn (f : BitVec 5) (en : Bool)
  | frstatDrops (f : BitVec 5)
  | retryCompletion (slot : SlotId) (seq : BitVec 16)
  | refuseCompletion (slot : SlotId) (seq : BitVec 16)
  | scoutEnd (slot : SlotId)
  | logDrain (tile : BitVec 10)
  -- events: jobs and units (chapters 17, 19, 21)
  | jobStart (tile : BitVec 10) (num : BitVec 16)
  | jobOperandsConsumed (tile : BitVec 10) (num : BitVec 16)
  | jobDone (tile : BitVec 10) (num : BitVec 16)
  | claimGrant (tile : BitVec 10)
  | matrixStart (tile : BitVec 10)
  | vectorStart (tile : BitVec 10)
  -- events: pool (chapter 23)
  | poolTurn (pool : BitVec 6)
  | poolReady (pool : BitVec 6) (die : BitVec 3)
  | poolCut (pool : BitVec 6) (die : BitVec 3)
  | poolReport (pool : BitVec 6) (die : BitVec 3)
  | poolInsertArrive (id : Nat)
  | poolTakeArrive (id : Nat)
  | stealRequest (id : Nat) (victim : BitVec 3)
  | stealBatch (id : Nat)
  | rebalanceTransfer (pool : BitVec 6) (i : Nat)
  | refillComplete (pool : BitVec 6) (die : BitVec 3) (lost : List Nat)
  | poolInsertReoffer (id : Nat)
  | poolInsertDiscard (id : Nat)
  -- events: base die (chapter 25)
  | arbitrationWindow (tile : BitVec 10) (num : BitVec 16)
  | retireRequest (stack : BitVec 4)
  | shrinkConfirm
  | shrinkTimeout
  | livecapLower
  | foehnStep
  | retireComplete
  | registerWrite (r : PlainReg) (value : Word)
  | refreshManagementEnd (stack : BitVec 4) (pc : BitVec 6) (bank : BitVec 4)
  | matrixOperandsConsumed (tile : BitVec 10)
  | matrixComplete (tile : BitVec 10)
  | vectorComplete (tile : BitVec 10)
  | lineCachePrefetch (cluster : BitVec 6) (ctx : BitVec 8) (va : BitVec 56)
  | pageTableChange (ctx : BitVec 8) (va : BitVec 56) (level : BitVec 3) (pte : Word)
  | supervisorQueueDrain (world : Bool)
  | signedComponentLoad (component : Component) (signed : Bool)
  | cxlMemRequest (write : Bool) (pa : BitVec 48) (bytes : List Byte)
  deriving DecidableEq, Repr

end Sys2Proof
end

