-- ==== Sys2Proof/WellFormed.lean ====
section
/-! DEFINITION. Which terms of `Instr` stand for a step of the KX4: the field values that R182 and the encodings exclude,
beyond what the operand types exclude already, and the bounds on what an event's party may supply. -/

namespace Sys2Proof

/-- A host function number: PF0 or VF1 to VF16 (R25). -/
def funcOk (f : BitVec 5) : Bool := f ≤ 16

/-- Two different dies with a group number of R17. -/
def linkOk (src dst : BitVec 3) (group : BitVec 6) : Bool := src != dst && group < 52

/-- The 64 physical regions of R87: bases and limits on 4 KiB boundaries, and every physical address (48 bits) in exactly one. -/
def regionsOk (rs : List (Nat × Nat × Bool)) : Bool :=
  rs.length == 64 && rs.all (fun r => r.1 % 4096 == 0 && r.2.1 % 4096 == 0 && r.1 ≤ r.2.1 && r.2.1 ≤ 2 ^ 48) &&
  (List.range 64).all (fun n => (List.range n).all (fun m =>
    let a := rs.getD n (0, 0, false)
    let b := rs.getD m (0, 0, false)
    a.2.1 ≤ b.1 || b.2.1 ≤ a.1)) &&
  (rs.map (fun r => r.2.1 - r.1)).sum == 2 ^ 48

/-- The well-formed steps. -/
def Instr.wf : Instr → Bool
  | .fence fm pred succ rs1 rd =>
    !(fm == 8 && pred == 3 && succ == 3) && !(fm == 0 && pred == 1 && succ == 0 && rs1 == 0 && rd == 0)
  | .tnarrow _ _ rs => rs[0] == false && rs != 0
  | .tinfo _ _ n => n ≤ 10
  | .ldkX _ _ _ size zero => !(size == .d && zero)
  | .vldk vd _ _ => vd != vin
  | .vgather vd _ _ => vd != vin
  | .vfadd _ vd _ _ | .vfsub _ vd _ _ | .vfmul _ vd _ _ | .vfma _ vd _ _ | .vfms _ vd _ _
  | .vfmax _ vd _ _ | .vfmin _ vd _ _ | .viadd _ vd _ _ | .visub _ vd _ _ | .vimul _ vd _ _
  | .vimax _ vd _ _ | .vimin _ vd _ _ | .vand _ vd _ _ | .vor _ vd _ _ | .vxor _ vd _ _
  | .vshl _ vd _ _ | .vshr _ vd _ _ | .vcmp _ vd _ _ => vd != vin
  | .vfabs _ vd _ | .vfneg _ vd _ | .vfrcp _ vd _ | .vfrsq _ vd _ | .vfexp2 _ vd _
  | .vflog2 _ vd _ | .vfsig _ vd _ | .vfgelu _ vd _ | .vfclass _ vd _ => vd != vin
  | .vsel vd _ _ | .vperm vd _ _ => vd != vin
  | .vscan _ vd _ _ => vd != vin
  | .vbcast vd _ _ | .vslide vd _ _ => vd != vin
  | .vzip vd _ _ | .vunz vd _ _ => vd != vin && vd != 30
  | .vsetm vd _ cond => vd != vin && cond != 0
  | .vsplat _ vd _ => vd != vin
  | .voutl vd _ => vd != vin
  | .vcvt tag _ vd _ => vd != vin && (Machine.fmtOf tag).isSome
  | .mtrn (.m _) (.c _) | .mtrn (.c _) (.m _) => false
  | .loop _ n => n != 0
  | .zondaFlitReceive src dst group _ _ _ => linkOk src dst group
  | .laneRemoval src dst group _ | .retrainDone src dst group => linkOk src dst group
  | .linkFailure src dst _ => src != dst
  | .registerWrite (.bar f _) _ => funcOk f
  | .lwctlEn f _ | .lwctlClrerr f | .lwtail f _ _ | .descriptorConsume f _ | .launchReoffer f _
  | .launchDiscard f _ | .frctlEn f _ | .frstatDrops f => funcOk f
  | .powerGood (.start image) => regionsOk image.regions
  | .powerLimitSet watts => 1600 ≤ watts && watts ≤ 3200
  | .contextCreate r => funcOk r.func && 2 ^ 10 ≤ r.tableSize && r.tableSize ≤ 2 ^ 20
  | .graphLoad g | .podLoad g _ => g.handlers.all (fun h => h.slab ≤ 64)
  | .pageTableChange _ _ level _ => level ≤ 4
  | _ => true

end Sys2Proof
end

