-- ==== Sys2Proof/Decode.lean ====
section
/-! DEFINITION. Decoding (13_encoding.md R172 to R182, 15 R192, R193, 17 R219, R229, R231, R234, R245, 19 R253, 21 R290,
23 R323, 25 R343, R345): total on any word, none for a word that raises 0x00. Then the encoder, from the same tables. -/

namespace Sys2Proof

/-- The KR cut of a 32-bit word (R175); every other format regroups these fields. -/
structure Fields where
  f7 : BitVec 7
  b : BitVec 5
  a : BitVec 5
  f3 : BitVec 3
  d : BitVec 5
  op : BitVec 7
  deriving DecidableEq, Repr

/-- A word cut into its KR fields. -/
def Fields.cut (w : BitVec 32) : Fields :=
  ⟨w.extractLsb' 25 7, w.extractLsb' 20 5, w.extractLsb' 15 5, w.extractLsb' 12 3, w.extractLsb' 7 5, w.extractLsb' 0 7⟩

/-- The word of KR fields. -/
def Fields.word (f : Fields) : BitVec 32 := f.f7 ++ f.b ++ f.a ++ f.f3 ++ f.d ++ f.op

namespace Fields
variable (f : Fields)
/-- I immediate, and the KD upper half. -/
def immI : BitVec 12 := f.f7 ++ f.b
/-- S immediate. -/
def immS : BitVec 12 := f.f7 ++ f.d
/-- B immediate, bits 12 to 1. -/
def immB : BitVec 12 := f.f7.extractLsb' 6 1 ++ f.d.extractLsb' 0 1 ++ f.f7.extractLsb' 0 6 ++ f.d.extractLsb' 1 4
/-- U immediate, bits 31 to 12. -/
def immU : BitVec 20 := f.f7 ++ f.b ++ f.a ++ f.f3
/-- J immediate, bits 20 to 1. -/
def immJ : BitVec 20 :=
  f.f7.extractLsb' 6 1 ++ f.a ++ f.f3 ++ f.b.extractLsb' 0 1 ++ f.f7.extractLsb' 0 6 ++ f.b.extractLsb' 1 4
/-- Shift amount of six bits. -/
def sh6 : BitVec 6 := f.f7.extractLsb' 0 1 ++ f.b
/-- imm[11:6] of a shift. -/
def hi6 : BitVec 6 := f.f7.extractLsb' 1 6
/-- KD: channel [30:25]. -/
def chan : BitVec 6 := f.f7.extractLsb' 0 6
/-- KD: tile [24:15]. -/
def tile : BitVec 10 := f.b ++ f.a
/-- KL, KV: imm10 [31:22]. -/
def imm10 : BitVec 10 := f.f7 ++ f.b.extractLsb' 2 3
/-- KL, KV: w or op [21:19]. -/
def w3 : BitVec 3 := f.b.extractLsb' 0 2 ++ f.a.extractLsb' 4 1
/-- KL, KX, KV: k [18:15]. -/
def k4 : BitVec 4 := f.a.extractLsb' 0 4
end Fields

/-- A title-register or semaphore field: 16 to 31 do not decode (R176). -/
def four (x : BitVec 5) : Option (BitVec 4) := if x[4] then none else some (x.extractLsb' 0 4)
/-- A view-register field or a 2-bit immediate: 4 to 31 do not decode (R176, R193). -/
def two (x : BitVec 5) : Option (BitVec 2) := if x.extractLsb' 2 3 = 0 then some (x.extractLsb' 0 2) else none
/-- A field of kind m (R290). -/
def mReg (x : BitVec 5) : Option MReg := if x.extractLsb' 3 2 = 0 then some (x.extractLsb' 0 3) else none
/-- A field of kind c (R290). -/
def cReg (x : BitVec 5) : Option CReg := if x.extractLsb' 2 3 = 2 then some (x.extractLsb' 0 2) else none
/-- A field of kind mc (R290). -/
def mcReg (x : BitVec 5) : Option MC :=
  match mReg x with
  | some r => some (.m r)
  | none => (cReg x).map .c
/-- A field an instruction requires to be 0 (R182). -/
def zero (x : BitVec 5) : Option Unit := if x = 0 then some () else none
/-- The predicate mode (R180). -/
def vmode (x : BitVec 3) : Option VMode :=
  match x with
  | 0 => some .all | 1 => some .m1 | 2 => some .m1z | 3 => some .m0 | 4 => some .m0z | _ => none
/-- The op sub-code (R253). -/
def redOp (x : BitVec 5) : Option RedOp :=
  match x with
  | 0 => some .sum | 1 => some .max | 2 => some .min | _ => none
/-- A vector destination (R253): vin raises 0x00. -/
def vdst (x : BitVec 5) : Option VReg := if x = vin then none else some x
/-- The size field of KX. -/
def sizeOf2 (x : BitVec 2) : Size :=
  match x with
  | 0 => .b | 1 => .h | 2 => .w | _ => .d
/-- A one-bit field. -/
def bit1 (x : BitVec 1) : Bool := x == 1

/-! ### The standard part (R172, R192) -/

def decodeBranch (f : Fields) : Option Instr :=
  match f.f3 with
  | 0 => some (.beq f.a f.b f.immB)
  | 1 => some (.bne f.a f.b f.immB)
  | 4 => some (.blt f.a f.b f.immB)
  | 5 => some (.bge f.a f.b f.immB)
  | 6 => some (.bltu f.a f.b f.immB)
  | 7 => some (.bgeu f.a f.b f.immB)
  | _ => none

def decodeLoad (f : Fields) : Option Instr :=
  match f.f3 with
  | 0 => some (.lb f.d f.a f.immI)
  | 1 => some (.lh f.d f.a f.immI)
  | 2 => some (.lw f.d f.a f.immI)
  | 3 => some (.ld f.d f.a f.immI)
  | 4 => some (.lbu f.d f.a f.immI)
  | 5 => some (.lhu f.d f.a f.immI)
  | 6 => some (.lwu f.d f.a f.immI)
  | _ => none

def decodeStore (f : Fields) : Option Instr :=
  match f.f3 with
  | 0 => some (.sb f.a f.b f.immS)
  | 1 => some (.sh f.a f.b f.immS)
  | 2 => some (.sw f.a f.b f.immS)
  | 3 => some (.sd f.a f.b f.immS)
  | _ => none

def decodeOpImm (f : Fields) : Option Instr :=
  match f.f3 with
  | 0 => some (.addi f.d f.a f.immI)
  | 1 => if f.hi6 = 0 then some (.slli f.d f.a f.sh6) else none
  | 2 => some (.slti f.d f.a f.immI)
  | 3 => some (.sltiu f.d f.a f.immI)
  | 4 => some (.xori f.d f.a f.immI)
  | 5 =>
    if f.hi6 = 0 then some (.srli f.d f.a f.sh6)
    else if f.hi6 = 16 then some (.srai f.d f.a f.sh6) else none
  | 6 => some (.ori f.d f.a f.immI)
  | _ => some (.andi f.d f.a f.immI)

def decodeOp (f : Fields) : Option Instr :=
  match f.f7, f.f3 with
  | 0, 0 => some (.add f.d f.a f.b)
  | 32, 0 => some (.sub f.d f.a f.b)
  | 0, 1 => some (.sll f.d f.a f.b)
  | 0, 2 => some (.slt f.d f.a f.b)
  | 0, 3 => some (.sltu f.d f.a f.b)
  | 0, 4 => some (.xor f.d f.a f.b)
  | 0, 5 => some (.srl f.d f.a f.b)
  | 32, 5 => some (.sra f.d f.a f.b)
  | 0, 6 => some (.or f.d f.a f.b)
  | 0, 7 => some (.and f.d f.a f.b)
  | 1, 0 => some (.mul f.d f.a f.b)
  | 1, 1 => some (.mulh f.d f.a f.b)
  | 1, 2 => some (.mulhsu f.d f.a f.b)
  | 1, 3 => some (.mulhu f.d f.a f.b)
  | 1, 4 => some (.div f.d f.a f.b)
  | 1, 5 => some (.divu f.d f.a f.b)
  | 1, 6 => some (.rem f.d f.a f.b)
  | 1, 7 => some (.remu f.d f.a f.b)
  | _, _ => none

def decodeOpImm32 (f : Fields) : Option Instr :=
  match f.f3, f.f7 with
  | 0, _ => some (.addiw f.d f.a f.immI)
  | 1, 0 => some (.slliw f.d f.a f.b)
  | 5, 0 => some (.srliw f.d f.a f.b)
  | 5, 32 => some (.sraiw f.d f.a f.b)
  | _, _ => none

def decodeOp32 (f : Fields) : Option Instr :=
  match f.f7, f.f3 with
  | 0, 0 => some (.addw f.d f.a f.b)
  | 32, 0 => some (.subw f.d f.a f.b)
  | 0, 1 => some (.sllw f.d f.a f.b)
  | 0, 5 => some (.srlw f.d f.a f.b)
  | 32, 5 => some (.sraw f.d f.a f.b)
  | 1, 0 => some (.mulw f.d f.a f.b)
  | 1, 4 => some (.divw f.d f.a f.b)
  | 1, 5 => some (.divuw f.d f.a f.b)
  | 1, 6 => some (.remw f.d f.a f.b)
  | 1, 7 => some (.remuw f.d f.a f.b)
  | _, _ => none

def decodeMiscMem (f : Fields) : Option Instr :=
  match f.f3 with
  | 0 =>
    let fm := f.f7.extractLsb' 3 4
    let pred := f.f7.extractLsb' 0 3 ++ f.b.extractLsb' 4 1
    let succ := f.b.extractLsb' 0 4
    if fm = 8 ∧ pred = 3 ∧ succ = 3 then some (.fenceTso f.a f.d)
    else if fm = 0 ∧ pred = 1 ∧ succ = 0 ∧ f.a = 0 ∧ f.d = 0 then some .pause
    else some (.fence fm pred succ f.a f.d)
  | 1 => some (.fenceI f.immI f.a f.d)
  | _ => none

def decodeSystem (f : Fields) : Option Instr :=
  match f.f3 with
  | 0 =>
    if f.a = 0 ∧ f.d = 0 then
      (if f.immI = 0 then some .ecall else if f.immI = 1 then some .ebreak else none)
    else none
  | 1 => some (.csrrw f.d f.a f.immI)
  | 2 => some (.csrrs f.d f.a f.immI)
  | 3 => some (.csrrc f.d f.a f.immI)
  | 5 => some (.csrrwi f.d f.a f.immI)
  | 6 => some (.csrrsi f.d f.a f.immI)
  | 7 => some (.csrrci f.d f.a f.immI)
  | _ => none

/-! ### custom-0 (R177, R193, R323) -/

def decodeCustom0 (f : Fields) : Option Instr :=
  match f.f3 with
  | 0 =>
    match f.f7 with
    | 0 => do zero f.d; zero f.a; zero f.b; some .exit
    | 1 => do zero f.d; zero f.b; some (.exitS f.a)
    | 2 => do zero f.d; some (.spawn f.a f.b)
    | 3 => some (.rspawn f.d f.a f.b)
    | _ => none
  | 1 =>
    if f.f7[6] then some (.sendShort f.d f.tile f.chan)
    else
      match f.f7 with
      | 0 => do zero f.d; some (.send f.a f.b)
      | 1 => do zero f.d; some (.sendv f.a f.b)
      | 2 => do zero f.d; some (.volley f.a f.b)
      | 3 => do zero f.d; some (.post f.a f.b)
      | 4 => do some (.recv f.d (← four f.a) f.b)
      | _ => none
  | 2 =>
    match f.f7 with
    | 0 => do zero f.b; some (.chpop f.d f.a)
    | 1 => do zero f.b; some (.chcnt f.d f.a)
    | 2 => do zero f.d; zero f.b; some (.hmask f.a)
    | 3 => do zero f.d; zero f.b; some (.hunmask f.a)
    | 4 => do zero f.d; some (.hprio f.a f.b)
    | _ => none
  | 3 =>
    match f.f7 with
    | 0 => do zero f.d; zero f.b; some (.semV (← four f.a))
    | 1 => do zero f.d; zero f.b; some (.semP (← four f.a))
    | 2 => do zero f.b; some (.semTry f.d (← four f.a))
    | 3 => do zero f.b; some (.waitj f.d f.a)
    | 4 => do zero f.b; some (.jstat f.d f.a)
    | _ => none
  | 4 =>
    match f.f7 with
    | 0 => do zero f.d; zero f.b; some (.trap f.a)
    | 1 => do zero f.b; some (.kfault f.d f.a)
    | 2 => some (.ksave f.d f.a f.b)
    | 3 => do zero f.d; zero f.a; zero f.b; some .resume
    | 4 => do zero f.d; zero f.a; zero f.b; some .skipf
    | 5 => do zero f.d; zero f.a; zero f.b; some .abandon
    | 6 => do zero f.d; zero f.b; some (.ctxkill f.a)
    | _ => none
  | 5 =>
    match f.f7 with
    | 0 => do some (.view (← two f.d) (← four f.a) f.b)
    | 1 => do some (.viewq f.d (← two f.a) (← two f.b))
    | 2 => do zero f.a; zero f.b; some (.slotid f.d)
    | 3 => do zero f.a; zero f.b; some (.tileid f.d)
    | 4 => do zero f.d; zero f.b; some (.rerunMark f.a)
    | _ => none
  | 6 =>
    match f.f7 with
    | 0 => do some (.pins (← four f.a) f.b f.d)
    | 1 => do some (.pinsK (← four f.a) f.b (← four f.d))
    | 2 => do some (.ptakeNb (← four f.d) (← four f.a) f.b)
    | 3 => do zero f.d; some (.ptakeM (← four f.a) f.b)
    | 4 => do zero f.d; some (.pcfg (← four f.a) f.b)
    | 5 => if f.b.extractLsb' 3 2 = 0 then do some (.pstat f.d (← four f.a) (f.b.extractLsb' 0 3)) else none
    | 6 => do zero f.b; some (.pdrain f.d f.a)
    | _ => none
  | _ => none

/-! ### custom-1 (R178, R179) -/

def decodeTitle (f : Fields) : Option Instr :=
  if f.f7[6] then do some (.tsendShort (← four f.d) f.tile f.chan)
  else
    match f.f7 with
    | 0 => do some (.tnew (← four f.d) (← four f.a) f.b)
    | 1 => do zero f.b; some (.tfree (← four f.d) (← four f.a))
    | 2 => do some (.tsplit (← four f.d) (← four f.a) f.b)
    | 3 => do zero f.b; some (.tjoin (← four f.d) (← four f.a))
    | 4 => if f.b[0] = false ∧ f.b ≠ 0 then do some (.tnarrow (← four f.d) (← four f.a) f.b) else none
    | 5 => do zero f.b; some (.tsend (← four f.d) f.a)
    | 6 => do some (.tsendr f.d (← four f.a) f.b)
    | 7 => if f.b ≤ 10 then do some (.tinfo f.d (← four f.a) f.b) else none
    | 8 => do some (.tchk f.d (← four f.a) f.b)
    | _ => none

def decodeTitleLoad (f : Fields) : Option Instr :=
  match f.w3 with
  | 0 => some (.ldkB f.d f.k4 f.imm10)
  | 1 => some (.ldkH f.d f.k4 f.imm10)
  | 2 => some (.ldkW f.d f.k4 f.imm10)
  | 3 => some (.ldkD f.d f.k4 f.imm10)
  | 4 => some (.ldkBN f.d f.k4 f.imm10)
  | 5 => some (.ldkHN f.d f.k4 f.imm10)
  | 6 => some (.ldkWN f.d f.k4 f.imm10)
  | _ =>
    let size := sizeOf2 (f.f7.extractLsb' 0 2)
    let n := bit1 (f.b.extractLsb' 4 1)
    if f.b.extractLsb' 2 2 = 0 ∧ !(size == .d && n) then some (.ldkX f.d f.k4 (f.f7.extractLsb' 2 5) size n) else none

def decodeTitleStore (f : Fields) : Option Instr :=
  match f.w3 with
  | 0 => some (.stkB f.d f.k4 f.imm10)
  | 1 => some (.stkH f.d f.k4 f.imm10)
  | 2 => some (.stkW f.d f.k4 f.imm10)
  | 3 => some (.stkD f.d f.k4 f.imm10)
  | _ => none

def decodeVectorMem (f : Fields) : Option Instr :=
  match f.w3 with
  | 0 => do some (.vldk (← vdst f.d) f.k4 f.imm10)
  | 1 => some (.vstk f.d f.k4 f.imm10)
  | 2 => if f.imm10.extractLsb' 5 5 = 0 then do some (.vgather (← vdst f.d) f.k4 (f.imm10.extractLsb' 0 5)) else none
  | 3 => if f.imm10.extractLsb' 5 5 = 0 then some (.vscatter f.d f.k4 (f.imm10.extractLsb' 0 5)) else none
  | _ => none

def decodeMove (f : Fields) : Option Instr :=
  if f.b = 0 then
    match f.f7 with
    | 0 => some (.mvCopy f.d f.a)
    | 1 => some (.mvGet f.d f.a)
    | 2 => some (.mvPut f.d f.a)
    | 3 => some (.mvXfer f.d f.a)
    | 4 => some (.mvFill f.d f.a)
    | 5 => some (.mv2D f.d f.a)
    | 6 => some (.mvSlab f.d f.a)
    | _ => none
  else none

def decodeAtomic (f : Fields) : Option Instr := do
  let o := f.f7[6]
  let n := f.f7[5]
  let k ← four f.a
  if f.f7[4] then none
  else
    match f.f7.extractLsb' 0 4, n with
    | 0, false => some (.amoAdd o f.d k f.b)
    | 1, n => some (.amoMin o n f.d k f.b)
    | 2, n => some (.amoMax o n f.d k f.b)
    | 3, false => some (.amoAnd o f.d k f.b)
    | 4, false => some (.amoOr o f.d k f.b)
    | 5, false => some (.amoXor o f.d k f.b)
    | 6, false => some (.amoSwap o f.d k f.b)
    | 7, false => some (.amoCas o f.d k f.b)
    | 8, false => some (.amoFadd o f.d k f.b)
    | 9, false => do zero f.b; some (.amoLd o f.d k)
    | 10, false => do zero f.d; some (.amoSt o k f.b)
    | 11, false => do zero f.d; some (.amoV o k f.b)
    | 12, n => some (.amoWaitge o n f.d k f.b)
    | _, _ => none

def decodeNearBank (f : Fields) : Option Instr :=
  match f.f7 with
  | 0 => do zero f.d; some (.nbOpen (← four f.a) f.b)
  | 1 => do zero f.b; some (.nbBcast f.d f.a)
  | 2 => do zero f.b; some (.nbRun f.d f.a)
  | 3 => do zero f.b; some (.nbRead f.d f.a)
  | 4 => do zero f.d; some (.nbClose (← four f.a) f.b)
  | 5 => do zero f.b; some (.nbRcopy f.d f.a)
  | 6 => do some (.nbZero f.d (← four f.a) f.b)
  | 7 => do some (.nbStat f.d (← four f.a) f.b)
  | _ => none

def decodeCustom1 (f : Fields) : Option Instr :=
  match f.f3 with
  | 0 => decodeTitle f
  | 1 => decodeTitleLoad f
  | 2 => decodeTitleStore f
  | 3 => decodeVectorMem f
  | 4 => decodeMove f
  | 5 => decodeAtomic f
  | 6 => decodeNearBank f
  | _ => none

/-! ### custom-2 (R180, R253) and custom-3 (R181, R290) -/

/-- A form without predicate modes other than 000. -/
def noMode (f : Fields) : Option Unit := if f.f3 = 0 then some () else none

def decodeVector (f : Fields) : Option Instr :=
  if f.f7.extractLsb' 5 2 = 3 then
    let tag : BitVec 7 := f.f7.extractLsb' 0 5 ++ f.b.extractLsb' 0 2
    if f.b.extractLsb' 2 3 = 0 ∧ (Machine.fmtOf tag).isSome then
      do some (.vcvt tag (← vmode f.f3) (← vdst f.d) f.a)
    else none
  else
    match f.f7 with
    | 0x00 => do some (.vfadd (← vmode f.f3) (← vdst f.d) f.a f.b)
    | 0x01 => do some (.vfsub (← vmode f.f3) (← vdst f.d) f.a f.b)
    | 0x02 => do some (.vfmul (← vmode f.f3) (← vdst f.d) f.a f.b)
    | 0x03 => do some (.vfma (← vmode f.f3) (← vdst f.d) f.a f.b)
    | 0x04 => do some (.vfms (← vmode f.f3) (← vdst f.d) f.a f.b)
    | 0x05 => do some (.vfmax (← vmode f.f3) (← vdst f.d) f.a f.b)
    | 0x06 => do some (.vfmin (← vmode f.f3) (← vdst f.d) f.a f.b)
    | 0x07 => do zero f.b; some (.vfabs (← vmode f.f3) (← vdst f.d) f.a)
    | 0x08 => do zero f.b; some (.vfneg (← vmode f.f3) (← vdst f.d) f.a)
    | 0x09 => do zero f.b; some (.vfrcp (← vmode f.f3) (← vdst f.d) f.a)
    | 0x0A => do zero f.b; some (.vfrsq (← vmode f.f3) (← vdst f.d) f.a)
    | 0x0B => do zero f.b; some (.vfexp2 (← vmode f.f3) (← vdst f.d) f.a)
    | 0x0C => do zero f.b; some (.vflog2 (← vmode f.f3) (← vdst f.d) f.a)
    | 0x0D => do zero f.b; some (.vfsig (← vmode f.f3) (← vdst f.d) f.a)
    | 0x0E => do zero f.b; some (.vfgelu (← vmode f.f3) (← vdst f.d) f.a)
    | 0x0F => do some (.viadd (← vmode f.f3) (← vdst f.d) f.a f.b)
    | 0x10 => do some (.visub (← vmode f.f3) (← vdst f.d) f.a f.b)
    | 0x11 => do some (.vimul (← vmode f.f3) (← vdst f.d) f.a f.b)
    | 0x12 => do some (.vimax (← vmode f.f3) (← vdst f.d) f.a f.b)
    | 0x13 => do some (.vimin (← vmode f.f3) (← vdst f.d) f.a f.b)
    | 0x14 => do some (.vand (← vmode f.f3) (← vdst f.d) f.a f.b)
    | 0x15 => do some (.vor (← vmode f.f3) (← vdst f.d) f.a f.b)
    | 0x16 => do some (.vxor (← vmode f.f3) (← vdst f.d) f.a f.b)
    | 0x17 => do some (.vshl (← vmode f.f3) (← vdst f.d) f.a f.b)
    | 0x18 => do some (.vshr (← vmode f.f3) (← vdst f.d) f.a f.b)
    | 0x19 => do some (.vcmp (← vmode f.f3) (← vdst f.d) f.a f.b)
    | 0x1A => do noMode f; some (.vsel (← vdst f.d) f.a f.b)
    | 0x1B => do some (.vredf (← vmode f.f3) f.d f.a (← redOp f.b))
    | 0x1C => do some (.vredi (← vmode f.f3) f.d f.a (← redOp f.b))
    | 0x1D => do some (.vscan (← vmode f.f3) (← vdst f.d) f.a (← redOp f.b))
    | 0x1E => do noMode f; some (.vperm (← vdst f.d) f.a f.b)
    | 0x1F => do noMode f; some (.vbcast (← vdst f.d) f.a f.b)
    | 0x20 => do noMode f; some (.vslide (← vdst f.d) f.a f.b)
    | 0x21 => if f.d = 30 then none else do noMode f; some (.vzip (← vdst f.d) f.a f.b)
    | 0x22 => if f.d = 30 then none else do noMode f; some (.vunz (← vdst f.d) f.a f.b)
    | 0x23 => do some (.vdot (← vmode f.f3) f.d f.a f.b)
    | 0x24 => do noMode f; some (.vmovx f.d f.a f.b)
    | 0x25 =>
      if f.b[4] = false ∧ f.b ≠ 0 then do noMode f; some (.vsetm (← vdst f.d) f.a (f.b.extractLsb' 0 4)) else none
    | 0x26 => do zero f.b; some (.vfclass (← vmode f.f3) (← vdst f.d) f.a)
    | 0x27 => do zero f.b; some (.vsplat (← vmode f.f3) (← vdst f.d) f.a)
    | 0x28 => do zero f.b; noMode f; some (.voutl (← vdst f.d) f.a)
    | _ => none

/-- funct3 with only bit 0 in use. -/
def optBit0 (x : BitVec 3) : Option Bool := if x.extractLsb' 1 2 = 0 then some x[0] else none

def decodeMatrix (f : Fields) : Option Instr :=
  match f.f7 with
  | 0 => do some (.mma (← optBit0 f.f3) (← cReg f.d) (← mcReg f.a) (← mReg f.b))
  | 1 => do some (.mmaB16 (← optBit0 f.f3) (← cReg f.d) (← mcReg f.a) (← mReg f.b))
  | 2 => do noMode f; some (.mmaO (← cReg f.d) (← mcReg f.a) (← mReg f.b))
  | 3 => do some (.mmai (← optBit0 f.f3) (← cReg f.d) (← mReg f.a) (← mReg f.b))
  | 4 => if f.f3[2] then none else do zero f.b; some (.mcvt f.f3[0] f.f3[1] (← mReg f.d) (← cReg f.a))
  | 5 => do noMode f; zero f.a; zero f.b; some (.mzero (← cReg f.d))
  | 6 => do noMode f; zero f.b; some (.mldc (← cReg f.d) (← mReg f.a))
  | 7 => do noMode f; zero f.b; some (.mstc (← mReg f.d) (← cReg f.a))
  | 8 => do
    noMode f; zero f.b
    match (← mcReg f.d), (← mcReg f.a) with
    | .m d, .m s => some (.mtrn (.m d) (.m s))
    | .c d, .c s => some (.mtrn (.c d) (.c s))
    | _, _ => none
  | 9 => do some (.macca (← optBit0 f.f3) (← cReg f.d) (← cReg f.a) (← cReg f.b))
  | 10 => do zero f.b; some (.mstat (← optBit0 f.f3) f.d (← cReg f.a))
  | _ => none

/-- The instruction of a core word, none where it raises 0x00. That an S-core slot raises 0x00 for every custom-3 word
(R181) is decided where the instruction issues. -/
def decodeFields (f : Fields) : Option Instr :=
  match f.op with
  | 0x37 => some (.lui f.d f.immU)
  | 0x17 => some (.auipc f.d f.immU)
  | 0x6F => some (.jal f.d f.immJ)
  | 0x67 => if f.f3 = 0 then some (.jalr f.d f.a f.immI) else none
  | 0x63 => decodeBranch f
  | 0x03 => decodeLoad f
  | 0x23 => decodeStore f
  | 0x13 => decodeOpImm f
  | 0x33 => decodeOp f
  | 0x1B => decodeOpImm32 f
  | 0x3B => decodeOp32 f
  | 0x0F => decodeMiscMem f
  | 0x73 => decodeSystem f
  | 0x0B => decodeCustom0 f
  | 0x2B => decodeCustom1 f
  | 0x5B => decodeVector f
  | 0x7B => decodeMatrix f
  | _ => none

/-- A core word (R172 to R182). -/
def decode (w : BitVec 32) : Option Instr := decodeFields (.cut w)

/-- A micro-instruction word (R343), none for a reserved operation, a must-be-zero field or a LOOP of 0. -/
def decodeMicro (w : BitVec 32) : Option Instr :=
  let a := w.extractLsb' 23 4
  match w.extractLsb' 27 5 with
  | 0 => if w = 0 then some .halt else none
  | 1 => if w.extractLsb' 0 27 = 0 then some .act else none
  | 2 => if w.extractLsb' 0 16 = 0 then
      some (.mac16 a (w.extractLsb' 20 3) (w.extractLsb' 17 3) w[16]) else none
  | 3 => if w.extractLsb' 0 15 = 0 then some (.adds a (w.extractLsb' 19 4) (w.extractLsb' 15 4)) else none
  | 4 => if w.extractLsb' 0 15 = 0 then some (.scale a (w.extractLsb' 15 8)) else none
  | 5 => if w.extractLsb' 0 27 = 0 then some .nextrow else none
  | 6 => if w.extractLsb' 0 13 = 0 ∧ w.extractLsb' 13 8 ≠ 0 then
      some (.loop (w.extractLsb' 21 6) (w.extractLsb' 13 8)) else none
  | 7 => if w.extractLsb' 0 19 = 0 then some (.putacc a (w.extractLsb' 19 4)) else none
  | _ => none

/-- What the decoder reads from a row of the opcode table: a core word or, for the rows of R343, a micro-instruction word;
no word is both, because bits [1:0] of a core word are 0b11 and of a micro-instruction 0b00. -/
def decodeTableWord (nbits w : Nat) : Option Instr :=
  let word := BitVec.ofNat 32 (w % 2 ^ nbits)
  match decode word with
  | some i => some i
  | none => decodeMicro word

/-! ### The encoder -/

def encR (op : BitVec 7) (f3 : BitVec 3) (f7 : BitVec 7) (d a b : BitVec 5) : BitVec 32 := Fields.word ⟨f7, b, a, f3, d, op⟩

def encI (op : BitVec 7) (f3 : BitVec 3) (d a : BitVec 5) (imm : BitVec 12) : BitVec 32 :=
  Fields.word ⟨imm.extractLsb' 5 7, imm.extractLsb' 0 5, a, f3, d, op⟩

def encS (f3 : BitVec 3) (a b : BitVec 5) (imm : BitVec 12) : BitVec 32 :=
  Fields.word ⟨imm.extractLsb' 5 7, b, a, f3, imm.extractLsb' 0 5, 0x23⟩

def encB (f3 : BitVec 3) (a b : BitVec 5) (imm : BitVec 12) : BitVec 32 :=
  Fields.word ⟨imm.extractLsb' 11 1 ++ imm.extractLsb' 4 6, b, a, f3, imm.extractLsb' 0 4 ++ imm.extractLsb' 10 1, 0x63⟩

def encU (op : BitVec 7) (d : BitVec 5) (imm : BitVec 20) : BitVec 32 :=
  Fields.word ⟨imm.extractLsb' 13 7, imm.extractLsb' 8 5, imm.extractLsb' 3 5, imm.extractLsb' 0 3, d, op⟩

def encJ (d : BitVec 5) (imm : BitVec 20) : BitVec 32 :=
  Fields.word ⟨imm.extractLsb' 19 1 ++ imm.extractLsb' 4 6, imm.extractLsb' 0 4 ++ imm.extractLsb' 10 1,
    imm.extractLsb' 14 5, imm.extractLsb' 11 3, d, 0x6F⟩

def encSh (f3 : BitVec 3) (hi : BitVec 6) (d a : BitVec 5) (sh : BitVec 6) : BitVec 32 :=
  Fields.word ⟨hi ++ sh.extractLsb' 5 1, sh.extractLsb' 0 5, a, f3, d, 0x13⟩

def encKD (op : BitVec 7) (f3 : BitVec 3) (a : BitVec 5) (tile : BitVec 10) (chan : BitVec 6) : BitVec 32 :=
  Fields.word ⟨1#1 ++ chan, tile.extractLsb' 5 5, tile.extractLsb' 0 5, f3, a, op⟩

def encKL (f3 : BitVec 3) (w : BitVec 3) (d : BitVec 5) (k : BitVec 4) (imm : BitVec 10) : BitVec 32 :=
  Fields.word ⟨imm.extractLsb' 3 7, imm.extractLsb' 0 3 ++ w.extractLsb' 1 2, w.extractLsb' 0 1 ++ k, f3, d, 0x2B⟩

def encAmo (o n : Bool) (sel : BitVec 4) (d : BitVec 5) (k : BitVec 4) (b : BitVec 5) : BitVec 32 :=
  encR 0x2B 5 (BitVec.ofBool o ++ BitVec.ofBool n ++ 0#1 ++ sel) d (0#1 ++ k) b

def x4 (k : BitVec 4) : BitVec 5 := 0#1 ++ k
def x2 (v : BitVec 2) : BitVec 5 := 0#3 ++ v
def xm (m : MReg) : BitVec 5 := 0#2 ++ m
def xc (c : CReg) : BitVec 5 := 2#3 ++ c
def xmc : MC → BitVec 5
  | .m r => xm r
  | .c r => xc r
def modeBits : VMode → BitVec 3
  | .all => 0 | .m1 => 1 | .m1z => 2 | .m0 => 3 | .m0z => 4
def opBits : RedOp → BitVec 5
  | .sum => 0 | .max => 1 | .min => 2
def sizeBits : Size → BitVec 2
  | .b => 0 | .h => 1 | .w => 2 | .d => 3
def opt1 (x : Bool) : BitVec 3 := 0#2 ++ BitVec.ofBool x

/-- The word of an instruction or micro-instruction; none for an event, which no word stands for. -/
def encode : Instr → Option (BitVec 32)
  | .lui d i => some (encU 0x37 d i)
  | .auipc d i => some (encU 0x17 d i)
  | .jal d i => some (encJ d i)
  | .jalr d a i => some (encI 0x67 0 d a i)
  | .beq a b i => some (encB 0 a b i)
  | .bne a b i => some (encB 1 a b i)
  | .blt a b i => some (encB 4 a b i)
  | .bge a b i => some (encB 5 a b i)
  | .bltu a b i => some (encB 6 a b i)
  | .bgeu a b i => some (encB 7 a b i)
  | .lb d a i => some (encI 0x03 0 d a i)
  | .lh d a i => some (encI 0x03 1 d a i)
  | .lw d a i => some (encI 0x03 2 d a i)
  | .ld d a i => some (encI 0x03 3 d a i)
  | .lbu d a i => some (encI 0x03 4 d a i)
  | .lhu d a i => some (encI 0x03 5 d a i)
  | .lwu d a i => some (encI 0x03 6 d a i)
  | .sb a b i => some (encS 0 a b i)
  | .sh a b i => some (encS 1 a b i)
  | .sw a b i => some (encS 2 a b i)
  | .sd a b i => some (encS 3 a b i)
  | .addi d a i => some (encI 0x13 0 d a i)
  | .slti d a i => some (encI 0x13 2 d a i)
  | .sltiu d a i => some (encI 0x13 3 d a i)
  | .xori d a i => some (encI 0x13 4 d a i)
  | .ori d a i => some (encI 0x13 6 d a i)
  | .andi d a i => some (encI 0x13 7 d a i)
  | .slli d a sh => some (encSh 1 0 d a sh)
  | .srli d a sh => some (encSh 5 0 d a sh)
  | .srai d a sh => some (encSh 5 16 d a sh)
  | .add d a b => some (encR 0x33 0 0 d a b)
  | .sub d a b => some (encR 0x33 0 32 d a b)
  | .sll d a b => some (encR 0x33 1 0 d a b)
  | .slt d a b => some (encR 0x33 2 0 d a b)
  | .sltu d a b => some (encR 0x33 3 0 d a b)
  | .xor d a b => some (encR 0x33 4 0 d a b)
  | .srl d a b => some (encR 0x33 5 0 d a b)
  | .sra d a b => some (encR 0x33 5 32 d a b)
  | .or d a b => some (encR 0x33 6 0 d a b)
  | .and d a b => some (encR 0x33 7 0 d a b)
  | .addiw d a i => some (encI 0x1B 0 d a i)
  | .slliw d a sh => some (encR 0x1B 1 0 d a sh)
  | .srliw d a sh => some (encR 0x1B 5 0 d a sh)
  | .sraiw d a sh => some (encR 0x1B 5 32 d a sh)
  | .addw d a b => some (encR 0x3B 0 0 d a b)
  | .subw d a b => some (encR 0x3B 0 32 d a b)
  | .sllw d a b => some (encR 0x3B 1 0 d a b)
  | .srlw d a b => some (encR 0x3B 5 0 d a b)
  | .sraw d a b => some (encR 0x3B 5 32 d a b)
  | .mul d a b => some (encR 0x33 0 1 d a b)
  | .mulh d a b => some (encR 0x33 1 1 d a b)
  | .mulhsu d a b => some (encR 0x33 2 1 d a b)
  | .mulhu d a b => some (encR 0x33 3 1 d a b)
  | .div d a b => some (encR 0x33 4 1 d a b)
  | .divu d a b => some (encR 0x33 5 1 d a b)
  | .rem d a b => some (encR 0x33 6 1 d a b)
  | .remu d a b => some (encR 0x33 7 1 d a b)
  | .mulw d a b => some (encR 0x3B 0 1 d a b)
  | .divw d a b => some (encR 0x3B 4 1 d a b)
  | .divuw d a b => some (encR 0x3B 5 1 d a b)
  | .remw d a b => some (encR 0x3B 6 1 d a b)
  | .remuw d a b => some (encR 0x3B 7 1 d a b)
  | .fence fm p s a d => some (encI 0x0F 0 d a (fm ++ p ++ s))
  | .fenceTso a d => some (encI 0x0F 0 d a 0x833)
  | .pause => some (encI 0x0F 0 0 0 0x010)
  | .fenceI i a d => some (encI 0x0F 1 d a i)
  | .ecall => some (encI 0x73 0 0 0 0)
  | .ebreak => some (encI 0x73 0 0 0 1)
  | .csrrw d a c => some (encI 0x73 1 d a c)
  | .csrrs d a c => some (encI 0x73 2 d a c)
  | .csrrc d a c => some (encI 0x73 3 d a c)
  | .csrrwi d u c => some (encI 0x73 5 d u c)
  | .csrrsi d u c => some (encI 0x73 6 d u c)
  | .csrrci d u c => some (encI 0x73 7 d u c)
  | .exit => some (encR 0x0B 0 0 0 0 0)
  | .exitS a => some (encR 0x0B 0 1 0 a 0)
  | .spawn a b => some (encR 0x0B 0 2 0 a b)
  | .rspawn d a b => some (encR 0x0B 0 3 d a b)
  | .send a b => some (encR 0x0B 1 0 0 a b)
  | .sendShort a t c => some (encKD 0x0B 1 a t c)
  | .sendv a v => some (encR 0x0B 1 1 0 a v)
  | .volley a b => some (encR 0x0B 1 2 0 a b)
  | .post a b => some (encR 0x0B 1 3 0 a b)
  | .recv d k r => some (encR 0x0B 1 4 d (x4 k) r)
  | .chpop d a => some (encR 0x0B 2 0 d a 0)
  | .chcnt d a => some (encR 0x0B 2 1 d a 0)
  | .hmask a => some (encR 0x0B 2 2 0 a 0)
  | .hunmask a => some (encR 0x0B 2 3 0 a 0)
  | .hprio a b => some (encR 0x0B 2 4 0 a b)
  | .semV n => some (encR 0x0B 3 0 0 (x4 n) 0)
  | .semP n => some (encR 0x0B 3 1 0 (x4 n) 0)
  | .semTry d n => some (encR 0x0B 3 2 d (x4 n) 0)
  | .waitj d a => some (encR 0x0B 3 3 d a 0)
  | .jstat d a => some (encR 0x0B 3 4 d a 0)
  | .trap a => some (encR 0x0B 4 0 0 a 0)
  | .kfault d a => some (encR 0x0B 4 1 d a 0)
  | .ksave d a b => some (encR 0x0B 4 2 d a b)
  | .resume => some (encR 0x0B 4 3 0 0 0)
  | .skipf => some (encR 0x0B 4 4 0 0 0)
  | .abandon => some (encR 0x0B 4 5 0 0 0)
  | .ctxkill a => some (encR 0x0B 4 6 0 a 0)
  | .view w k r => some (encR 0x0B 5 0 (x2 w) (x4 k) r)
  | .viewq d w n => some (encR 0x0B 5 1 d (x2 w) (x2 n))
  | .slotid d => some (encR 0x0B 5 2 d 0 0)
  | .tileid d => some (encR 0x0B 5 3 d 0 0)
  | .rerunMark a => some (encR 0x0B 5 4 0 a 0)
  | .pins k key val => some (encR 0x0B 6 0 val (x4 k) key)
  | .pinsK k key kv => some (encR 0x0B 6 1 (x4 kv) (x4 k) key)
  | .ptakeNb kd k r => some (encR 0x0B 6 2 (x4 kd) (x4 k) r)
  | .ptakeM k r => some (encR 0x0B 6 3 0 (x4 k) r)
  | .pcfg k r => some (encR 0x0B 6 4 0 (x4 k) r)
  | .pstat d k n => some (encR 0x0B 6 5 d (x4 k) (0#2 ++ n))
  | .pdrain d r => some (encR 0x0B 6 6 d r 0)
  | .tnew kd ka r => some (encR 0x2B 0 0 (x4 kd) (x4 ka) r)
  | .tfree kd ka => some (encR 0x2B 0 1 (x4 kd) (x4 ka) 0)
  | .tsplit kd ks m => some (encR 0x2B 0 2 (x4 kd) (x4 ks) m)
  | .tjoin kd ks => some (encR 0x2B 0 3 (x4 kd) (x4 ks) 0)
  | .tnarrow kd ks r => some (encR 0x2B 0 4 (x4 kd) (x4 ks) r)
  | .tsend ks r => some (encR 0x2B 0 5 (x4 ks) r 0)
  | .tsendShort ks t c => some (encKD 0x2B 0 (x4 ks) t c)
  | .tsendr d ks r => some (encR 0x2B 0 6 d (x4 ks) r)
  | .tinfo d ks n => some (encR 0x2B 0 7 d (x4 ks) n)
  | .tchk d ks r => some (encR 0x2B 0 8 d (x4 ks) r)
  | .ldkB d k i => some (encKL 1 0 d k i)
  | .ldkH d k i => some (encKL 1 1 d k i)
  | .ldkW d k i => some (encKL 1 2 d k i)
  | .ldkD d k i => some (encKL 1 3 d k i)
  | .ldkBN d k i => some (encKL 1 4 d k i)
  | .ldkHN d k i => some (encKL 1 5 d k i)
  | .ldkWN d k i => some (encKL 1 6 d k i)
  | .ldkX d k r size n => some (encKL 1 7 d k (r ++ sizeBits size ++ BitVec.ofBool n ++ 0#2))
  | .stkB r k i => some (encKL 2 0 r k i)
  | .stkH r k i => some (encKL 2 1 r k i)
  | .stkW r k i => some (encKL 2 2 r k i)
  | .stkD r k i => some (encKL 2 3 r k i)
  | .vldk v k i => some (encKL 3 0 v k i)
  | .vstk v k i => some (encKL 3 1 v k i)
  | .vgather v k vi => some (encKL 3 2 v k (0#5 ++ vi))
  | .vscatter v k vi => some (encKL 3 3 v k (0#5 ++ vi))
  | .mvCopy d r => some (encR 0x2B 4 0 d r 0)
  | .mvGet d r => some (encR 0x2B 4 1 d r 0)
  | .mvPut d r => some (encR 0x2B 4 2 d r 0)
  | .mvXfer d r => some (encR 0x2B 4 3 d r 0)
  | .mvFill d r => some (encR 0x2B 4 4 d r 0)
  | .mv2D d r => some (encR 0x2B 4 5 d r 0)
  | .mvSlab d r => some (encR 0x2B 4 6 d r 0)
  | .amoAdd o d k r => some (encAmo o false 0 d k r)
  | .amoMin o n d k r => some (encAmo o n 1 d k r)
  | .amoMax o n d k r => some (encAmo o n 2 d k r)
  | .amoAnd o d k r => some (encAmo o false 3 d k r)
  | .amoOr o d k r => some (encAmo o false 4 d k r)
  | .amoXor o d k r => some (encAmo o false 5 d k r)
  | .amoSwap o d k r => some (encAmo o false 6 d k r)
  | .amoCas o d k r => some (encAmo o false 7 d k r)
  | .amoFadd o d k r => some (encAmo o false 8 d k r)
  | .amoLd o d k => some (encAmo o false 9 d k 0)
  | .amoSt o k r => some (encAmo o false 10 0 k r)
  | .amoV o k r => some (encAmo o false 11 0 k r)
  | .amoWaitge o n d k r => some (encAmo o n 12 d k r)
  | .nbOpen k r => some (encR 0x2B 6 0 0 (x4 k) r)
  | .nbBcast d r => some (encR 0x2B 6 1 d r 0)
  | .nbRun d r => some (encR 0x2B 6 2 d r 0)
  | .nbRead d r => some (encR 0x2B 6 3 d r 0)
  | .nbClose k r => some (encR 0x2B 6 4 0 (x4 k) r)
  | .nbRcopy d r => some (encR 0x2B 6 5 d r 0)
  | .nbZero d k r => some (encR 0x2B 6 6 d (x4 k) r)
  | .nbStat d k r => some (encR 0x2B 6 7 d (x4 k) r)
  | .vfadd p d a b => some (encR 0x5B (modeBits p) 0x00 d a b)
  | .vfsub p d a b => some (encR 0x5B (modeBits p) 0x01 d a b)
  | .vfmul p d a b => some (encR 0x5B (modeBits p) 0x02 d a b)
  | .vfma p d a b => some (encR 0x5B (modeBits p) 0x03 d a b)
  | .vfms p d a b => some (encR 0x5B (modeBits p) 0x04 d a b)
  | .vfmax p d a b => some (encR 0x5B (modeBits p) 0x05 d a b)
  | .vfmin p d a b => some (encR 0x5B (modeBits p) 0x06 d a b)
  | .vfabs p d a => some (encR 0x5B (modeBits p) 0x07 d a 0)
  | .vfneg p d a => some (encR 0x5B (modeBits p) 0x08 d a 0)
  | .vfrcp p d a => some (encR 0x5B (modeBits p) 0x09 d a 0)
  | .vfrsq p d a => some (encR 0x5B (modeBits p) 0x0A d a 0)
  | .vfexp2 p d a => some (encR 0x5B (modeBits p) 0x0B d a 0)
  | .vflog2 p d a => some (encR 0x5B (modeBits p) 0x0C d a 0)
  | .vfsig p d a => some (encR 0x5B (modeBits p) 0x0D d a 0)
  | .vfgelu p d a => some (encR 0x5B (modeBits p) 0x0E d a 0)
  | .viadd p d a b => some (encR 0x5B (modeBits p) 0x0F d a b)
  | .visub p d a b => some (encR 0x5B (modeBits p) 0x10 d a b)
  | .vimul p d a b => some (encR 0x5B (modeBits p) 0x11 d a b)
  | .vimax p d a b => some (encR 0x5B (modeBits p) 0x12 d a b)
  | .vimin p d a b => some (encR 0x5B (modeBits p) 0x13 d a b)
  | .vand p d a b => some (encR 0x5B (modeBits p) 0x14 d a b)
  | .vor p d a b => some (encR 0x5B (modeBits p) 0x15 d a b)
  | .vxor p d a b => some (encR 0x5B (modeBits p) 0x16 d a b)
  | .vshl p d a b => some (encR 0x5B (modeBits p) 0x17 d a b)
  | .vshr p d a b => some (encR 0x5B (modeBits p) 0x18 d a b)
  | .vcmp p d a b => some (encR 0x5B (modeBits p) 0x19 d a b)
  | .vsel d a b => some (encR 0x5B 0 0x1A d a b)
  | .vredf p d a o => some (encR 0x5B (modeBits p) 0x1B d a (opBits o))
  | .vredi p d a o => some (encR 0x5B (modeBits p) 0x1C d a (opBits o))
  | .vscan p d a o => some (encR 0x5B (modeBits p) 0x1D d a (opBits o))
  | .vperm d a b => some (encR 0x5B 0 0x1E d a b)
  | .vbcast d a b => some (encR 0x5B 0 0x1F d a b)
  | .vslide d a b => some (encR 0x5B 0 0x20 d a b)
  | .vzip d a b => some (encR 0x5B 0 0x21 d a b)
  | .vunz d a b => some (encR 0x5B 0 0x22 d a b)
  | .vdot p d a b => some (encR 0x5B (modeBits p) 0x23 d a b)
  | .vmovx d a b => some (encR 0x5B 0 0x24 d a b)
  | .vsetm d a c => some (encR 0x5B 0 0x25 d a (0#1 ++ c))
  | .vfclass p d a => some (encR 0x5B (modeBits p) 0x26 d a 0)
  | .vsplat p d a => some (encR 0x5B (modeBits p) 0x27 d a 0)
  | .voutl d a => some (encR 0x5B 0 0x28 d a 0)
  | .vcvt tag p d a => some (encR 0x5B (modeBits p) (3#2 ++ tag.extractLsb' 2 5) d a (0#3 ++ tag.extractLsb' 0 2))
  | .mma z d a b => some (encR 0x7B (opt1 z) 0 (xc d) (xmc a) (xm b))
  | .mmaB16 z d a b => some (encR 0x7B (opt1 z) 1 (xc d) (xmc a) (xm b))
  | .mmaO d a b => some (encR 0x7B 0 2 (xc d) (xmc a) (xm b))
  | .mmai z d a b => some (encR 0x7B (opt1 z) 3 (xc d) (xm a) (xm b))
  | .mcvt i t d a => some (encR 0x7B (0#1 ++ BitVec.ofBool t ++ BitVec.ofBool i) 4 (xm d) (xc a) 0)
  | .mzero d => some (encR 0x7B 0 5 (xc d) 0 0)
  | .mldc d a => some (encR 0x7B 0 6 (xc d) (xm a) 0)
  | .mstc d a => some (encR 0x7B 0 7 (xm d) (xc a) 0)
  | .mtrn d a => some (encR 0x7B 0 8 (xmc d) (xmc a) 0)
  | .macca i d a b => some (encR 0x7B (opt1 i) 9 (xc d) (xc a) (xc b))
  | .mstat c d a => some (encR 0x7B (opt1 c) 10 d (xc a) 0)
  | .halt => some 0
  | .act => some (1#5 ++ 0#27)
  | .mac16 a u r f => some (2#5 ++ a ++ u ++ r ++ BitVec.ofBool f ++ 0#16)
  | .adds d a c => some (3#5 ++ d ++ a ++ c ++ 0#15)
  | .scale a e => some (4#5 ++ a ++ e ++ 0#15)
  | .nextrow => some (5#5 ++ 0#27)
  | .loop t n => some (6#5 ++ t ++ n ++ 0#13)
  | .putacc a s => some (7#5 ++ a ++ s ++ 0#19)
  | _ => none

end Sys2Proof
end

