-- ==== Sys2Proof/Config.lean ====
section
/-! DEFINITION. What the manual leaves open, as constants without a body: no proof can see their values. -/

namespace Sys2Proof

/-- Core clocks that step n takes on a die at a clock in MHz (R12, R40, R43, R262, R293: typical figures only; log 4). [log 4 DESIGN CHOICE] -/
opaque Config.stepCycles : Nat → Nat → Nat → Nat
/-- Ticks of the 100 MHz reference in step n (R12; log 4). [log 4 DESIGN CHOICE] -/
opaque Config.stepTime : Nat → Nat
/-- Which of the parties that could move moves in step n (log 1). [log 1 DESIGN CHOICE] -/
opaque Config.turn : Nat → Nat
/-- Time in ns that step n takes, for the timers stated in ns, µs and ms (R119, R248, R378; log 4). [log 4 DESIGN CHOICE] -/
opaque Config.stepNs : Nat → Nat
/-- What a byte of HBM decrypts to under another key than it was written under (R85; log 5), by the step and the
location. [log 5 DESIGN CHOICE] -/
opaque Config.undecryptable : Nat → Nat → Byte
/-- Activations that a request makes at its bank (R110, R111: one or none, as rows stand open; log 4). [log 4 DESIGN CHOICE] -/
opaque Config.activations : Nat → Nat
/-- A byte of peer memory that this package has not written (R103; log 7), by its address and the step. [log 7 DESIGN CHOICE] -/
opaque Config.peerByte : Nat → Nat → Byte
/-- Whether a 64-byte unit of peer memory that this package has not written is poisoned (R108; log 7), by its address and the step. [log 7 DESIGN CHOICE] -/
opaque Config.peerPoison : Nat → Nat → Bool
/-- The ML-DSA-44 signature of a message under the device identity key of this boot (R37; log 5). [log 5 DESIGN CHOICE] -/
opaque Config.deviceSign : List Byte → List Byte
/-- The certificate chain stored in flash (R37; log 5). [log 5 DESIGN CHOICE] -/
opaque Config.certificateChain : List Byte
/-- What CAPABILITIES says of the time and the sizes of SPDM messages (R37; log 72): CTExponent, DataTransferSize, MaxSPDMmsgSize. [log 72 PRESUMED] -/
opaque Config.spdmTime : Byte
opaque Config.spdmTransfer : Nat
opaque Config.spdmSize : Nat
/-- The extended algorithm by which ALGORITHMS names ML-DSA-44 (R37; log 72). [log 72 PRESUMED] -/
opaque Config.mlDsa44 : Nat
/-- The responder's nonce, by the step (R37; log 72). [log 72 PRESUMED] -/
opaque Config.spdmNonce : Nat → BitVec 256
/-- The fixed hash that sends a flow to a port (R34; log 5): destination accelerator, source tile, channel, live ports. [log 5 DESIGN CHOICE] -/
opaque Config.portHash : BitVec 10 → BitVec 10 → BitVec 6 → List (BitVec 4) → Nat

/-- The CRC that a flit is sent with (R18; log 65). [log 65 DESIGN CHOICE] -/
opaque Config.flitCrc : List Byte → BitVec 32

end Sys2Proof
end

