-- ==== Sys2Proof/Machine/State.lean ====
section
/-! DEFINITION. The state of one KX4 package: everything the chapters name, as plain data. A table is a list of
(number, record) pairs; a number it does not list reads as the record's reset value. -/

namespace Sys2Proof.Machine

/-- A table: what it does not list has its reset value (Ops gives the accessors). -/
abbrev Map (α : Type) := List (Nat × α)

/-- A title image (R70): all zeros is the empty register. `kind` 1 WHOLE, 2 SHARE, 3 COMMONS, 4 CSHARE, 5 POOL;
`rights` bit 4 RD, 3 WR, 2 AMO, 1 SEND, 0 ARENA; `loc` 0 TILE, 1 CLUSTER, 2 HBM, 3 PEER. -/
structure Title where
  index : BitVec 20 := 0
  gen : BitVec 12 := 0
  kind : BitVec 3 := 0
  rights : BitVec 5 := 0
  world : Bool := false
  domain : BitVec 10 := 0
  loc : BitVec 2 := 0
  ctx : BitVec 8 := 0
  base : BitVec 56 := 0
  len : BitVec 41 := 0
  place : BitVec 10 := 0
  deriving DecidableEq, Repr

/-- A title register: its image, and the lock of a running `MV.XFER` (R241). -/
structure TReg where
  img : Title := {}
  locked : Bool := false
  deriving DecidableEq, Repr

/-- A title-table entry (R71): `state` 0 free, 1 held, 2 in flight, 3 unheld, 4 parked, 5 pooled. `splitAt`, the model's own, is the step
of the split at which the shares' view of the buffer stands (R115; log 7). [log 7 DESIGN CHOICE] -/
structure Tte where
  state : BitVec 3 := 0
  kind : BitVec 3 := 0
  gen : BitVec 12 := 0
  ownTile : BitVec 10 := 0
  ownCore : Bool := false
  ownSlot : BitVec 2 := 0
  parent : BitVec 20 := 0
  carved : BitVec 12 := 0
  rights : BitVec 5 := 0
  loc : BitVec 2 := 0
  base : BitVec 56 := 0
  shares : BitVec 20 := 0
  len : BitVec 41 := 0
  place : BitVec 10 := 0
  world : Bool := false
  domain : BitVec 10 := 0
  splitAt : Nat := 0
  deriving DecidableEq, Repr

/-- A view register (R213), as its four double words. -/
structure View where
  d0 : Word := 0
  d1 : Word := 0
  d2 : Word := 0
  d3 : Word := 0
  deriving DecidableEq, Repr

/-- A fault record (R132, R133): `scout` holds the page entries of the scout list, `typ` 0 precise, 2 deferred,
3 terminal copy. V is 1 in every record; SCOUTN and CONT follow from `scout`. -/
structure FaultRec where
  typ : BitVec 2 := 0
  cause : BitVec 7 := 0
  ctx : BitVec 8 := 0
  tile : BitVec 10 := 0
  core : Bool := false
  slot : BitVec 2 := 0
  entry : BitVec 6 := 0
  retry : Bool := false
  inl : Bool := false
  addrKind : BitVec 2 := 0
  seq : BitVec 16 := 0
  pc : BitVec 56 := 0
  addr : BitVec 56 := 0
  tindex : BitVec 20 := 0
  tgen : BitVec 12 := 0
  insn : BitVec 32 := 0
  time : Word := 0
  peer : BitVec 10 := 0x3FF
  info : BitVec 32 := 0
  scout : List Word := []
  deriving DecidableEq, Repr

/-- One link of the inline stack (R61): the saved ra and the number of the `RSPAWN`'s rd. -/
structure Link where
  ra : Word := 0
  rd : XReg := 0
  deriving DecidableEq, Repr

/-- The frame of a slot in the fault save area (R126). `marks` is the word at 0x1C8. -/
structure Frame where
  record : Option FaultRec := none
  x : Vector Word 32 := Vector.replicate 32 0
  pc : Word := 0
  marks : Word := 0
  links : List Link := []
  chain : BitVec 5 := 0
  vw : Vector View 4 := Vector.replicate 4 {}
  deriving DecidableEq, Repr

/-- What a slot that does not issue waits for: the reply of its request (R198, R226, R248, R326), or the completion of its
retry record (R137). -/
inductive Wait where
  | reply (id : Nat)
  | retry (seq : BitVec 16)
  deriving DecidableEq, Repr

/-- A running scout (R138 to R140): its scratch registers and PC (the slot's own stay as the checkpoint), the unknown
registers, the listed pages, the instructions scouted, the record of the fault that started it, whether it has ended, and
the addresses of the instruction it stands at whose walks have failed. -/
structure Scout where
  x : Vector Word 32
  pc : Word
  unknown : BitVec 32
  pages : List Word
  count : Nat
  fault : FaultRec
  ended : Bool := false
  failed : List Nat := []
  deriving DecidableEq, Repr

/-- How a firing is ending while it waits for started jobs (R63, R127, R128); `last` is one that kills its own context, and ends as the
last of it. -/
inductive Ending where
  | abandon
  | kill
  | last
  deriving DecidableEq, Repr

/-- A firing slot (R56 and the rules named in INVENTORY.md). -/
structure Slot where
  busy : Bool := false
  entry : BitVec 6 := 0
  ctx : BitVec 8 := 0
  x : Vector Word 32 := Vector.replicate 32 0
  marks : Word := 0
  due : Vector (Option Nat) 32 := Vector.replicate 32 none
  pc : Word := 0
  k : Vector TReg 16 := Vector.replicate 16 {}
  vw : Vector View 4 := Vector.replicate 4 {}
  lfsr : BitVec 16 := 0xACE1
  serial : BitVec 32 := 0
  chainId : BitVec 32 := 0
  instret : Word := 0
  wdog : Nat := 0
  wdogTaken : Bool := false
  wdogOver : Bool := false
  links : List Link := []
  chain : BitVec 5 := 0
  handler : Bool := false
  frame : Frame := {}
  trap : Option FaultRec := none
  wait : Option Wait := none
  scout : Option Scout := none
  ending : Option Ending := none
  slabBase : Nat := 0
  slabLen : Nat := 0
  outRes : Nat := 0
  granted : Bool := false
  aseq : BitVec 20 := 0
  mseq : Map (BitVec 20) := []
  known : List (BitVec 16) := []
  fromQueue : Bool := false
  skipCheck : Bool := false
  insn : BitVec 32 := 0
  deriving DecidableEq, Repr

/-- A handler table entry (R46). `gateOn` is GATE, `sec` the secondary channel where SECEN is 1, `partner` the joint
partner where JOINT is 1. -/
structure Entry where
  valid : Bool := false
  ctx : BitVec 8 := 0
  prio : BitVec 3 := 0
  cclass : Bool := false
  mask : Bool := true
  gateOn : Bool := false
  sec : Option (BitVec 6) := none
  rateP : BitVec 6 := 1
  rateS : BitVec 6 := 0
  prod : BitVec 6 := 0
  gkey : Byte := 0
  slab : Byte := 0
  chcap : Byte := 16
  entryPc : BitVec 56 := 0
  codeLo : BitVec 56 := 0
  codeHi : BitVec 56 := 0
  trapPc : BitVec 56 := 0
  wdog : BitVec 32 := 0
  eprio : BitVec 3 := 0
  age : BitVec 12 := 0
  partner : Option (BitVec 6) := none
  deriving DecidableEq, Repr

/-- A message with what travels beside it: the sending slot (none for a host launch, a seed or a pool answer to no slot), the
sending context, its world, whether it comes from outside the receiving context (R65, R145), and the entry whose firing sent it (R130). -/
structure Msg where
  hdr : Word := 0
  titles : List Title := []
  payload : List Word := []
  src : Option SlotId := none
  ctx : BitVec 8 := 0
  world : Bool := false
  host : Bool := false
  post : Bool := false
  entry : BitVec 6 := 0
  deriving DecidableEq, Repr

/-- A message record of a channel, with the slot (core and number) that reserved it (R48, R52). -/
structure ChRec where
  msg : Msg
  holder : Option (Bool × BitVec 2) := none
  deriving DecidableEq, Repr

/-- A channel (R48, R49): its records in order, of which the first `onChip` are on chip. -/
structure Chan where
  cap : Nat := 16
  ring : Nat := 16
  recs : List ChRec := []
  onChip : Nat := 0
  deriving DecidableEq, Repr

/-- One copy of a message in an outbox buffer: its destination tile, its own header, whether it was refused, and the cycles
since its last offer and since its first refusal (R50, R204). `packet` is the number of the packet it crosses the fabric in (R18). -/
structure Copy where
  tile : BitVec 10
  hdr : Word
  packet : Option Nat := none
  refused : Bool := false
  sinceOffer : Nat := 0
  sinceRefusal : Nat := 0
  deriving DecidableEq, Repr

/-- A pool element (R310); `place` is its record in the backing storage, where it is spilled (R322). -/
structure Elem where
  key : Word
  value : Word
  title : Option Title
  stamp : Word
  overdue : Bool := false
  place : Option Nat := none
  deriving DecidableEq, Repr

/-- An outbox buffer in use (R51): a message with its copies, or held for a job or a parked take (R236, R327). `ord` orders
the messages of one slot; `peer` is 0x3FF on this package. `waits` names the requests and remote writes that a `POST` awaits
(R117). `element` is the pool element a discarded answer returns, with its pool and that pool's `serial` (R327). `res` names the slot and firing whose reservation holds the
buffer (R51), `port` the UALink port it went through (R34). -/
structure OutBuf where
  msg : Msg := {}
  copies : List Copy := []
  peer : BitVec 10 := 0x3FF
  ord : Nat := 0
  waits : List Nat := []
  departed : Bool := true
  forJob : Bool := false
  element : Option (BitVec 6 × Nat × Elem) := none
  res : Option (Bool × BitVec 2 × BitVec 32) := none
  port : Option (BitVec 4) := none
  deriving DecidableEq, Repr

/-- A spawn record (R59); `queued` where it came through the spawn queue. -/
structure SpawnRec where
  tile : BitVec 10
  entry : BitVec 6
  pc : Word
  args : List Word
  queued : Bool := false
  deriving DecidableEq, Repr

/-- The storage a region lies in (R113). -/
inductive Space where
  | slab (tile : BitVec 10)
  | tile (tile : BitVec 10)
  | cluster (c : BitVec 6)
  | va (ctx : BitVec 8)
  | core (tile : BitVec 10) (c : Bool)
  deriving DecidableEq, Repr

/-- A declared region [lo, hi) (R113). -/
structure Region where
  space : Space
  lo : Nat
  hi : Nat
  deriving DecidableEq, Repr

/-- An entry of the tile's scoreboard (R113): one operation or job not yet performed, by its order number. `vm` marks vector
and matrix operations (R191), `titles` the (context, index) pairs whose registers it uses (R74), `lands` the storage of the landing arena
that a byte copy writes (R78). -/
structure Flight where
  ord : Nat
  core : Bool
  slot : BitVec 2
  vm : Bool
  reads : List Region
  writes : List Region
  titles : List (BitVec 8 × BitVec 20)
  consumed : Bool := false
  lands : Option Space := none
  deriving DecidableEq, Repr

/-- The operand bytes and list records a matrix instruction has read (R292). -/
structure Operands where
  a : List Byte := []
  b : List Byte := []
  sa : List Byte := []
  sb : List Byte := []
  recs : List (BitVec 32 × BitVec 32) := []
  deriving DecidableEq, Repr

/-- A TLB entry (R100, R101): the page (its base address and size in bytes) with the fields of the leaf. -/
structure TlbEntry where
  ctx : BitVec 8
  va : Nat
  size : Nat
  pa : Nat
  mode : BitVec 2
  peer : BitVec 10
  thr : BitVec 4
  rp : Bool
  wp : Bool
  xp : Bool
  leaf : Nat
  aPending : Bool := false
  deriving DecidableEq, Repr

/-- An outlier list as an instruction opened it (R164, R259, R291): its title, its byte offset, header double words 0 and 1, and the
translations of its pages, taken at issue. -/
structure OutList where
  title : Title
  off : Nat
  d0 : Word
  d1 : Word
  pages : List TlbEntry := []
  deriving DecidableEq, Repr

/-- What a vector or matrix operation captures at issue (R118, R255, R257, R259, R291): its slot and context, the instruction, the
view registers, the allotment, the scalar operand, the LFSR value its steps start from, the message bytes that vin took, the bytes of
the mask, its list with the records it reads, and the rd binding. -/
structure UnitOp where
  ord : Nat
  core : Bool
  slot : BitVec 2
  ctx : BitVec 8
  insn : Instr
  vw : Vector View 4
  slabBase : Nat
  slabLen : Nat
  sx : Word
  lfsr : BitVec 16
  vinBytes : Option (List Byte)
  mask : List Byte := []
  list : Option OutList := none
  recs : List (BitVec 32 × BitVec 32) := []
  rd : XReg
  operands : Option Operands := none
  deriving DecidableEq, Repr

/-- The vector unit (R262): the slots whose instructions the cores present, one a core, the one whose turn it is, the operation that
occupies it, and the core of the last. -/
structure Vxu where
  presented : List (Bool × BitVec 2) := []
  granted : Option (Bool × BitVec 2) := none
  running : Option UnitOp := none
  lastCore : Bool := true
  deriving DecidableEq, Repr

/-- The matrix unit (R288, R289, R292): words that `acc` does not list are 0. -/
structure Mxu where
  acc : Vector (Map (BitVec 32)) 4 := Vector.replicate 4 []
  sat : BitVec 4 := 0
  claim : Option (BitVec 2) := none
  waiters : List (BitVec 2) := []
  running : Option UnitOp := none
  queue : List UnitOp := []
  deriving DecidableEq, Repr

/-- A rerun log entry (R146); `due` names the request whose reply fills the value in (R247), and `outside` says that firmware gave it for
a message from outside the context (R149). -/
structure LogEntry where
  kind : Byte
  tile : BitVec 10
  core : Bool
  slot : BitVec 2
  serial : BitVec 32
  value : Word
  due : Option Nat := none
  outside : Bool := false
  deriving DecidableEq, Repr

/-- A tile (R9 and the rules named in INVENTORY.md); `semSame` holds the waits for semaphores that began in cycle `semLast`, `icache` holds the 64-byte lines in its instruction cache. -/
structure Tile where
  inService : Bool := false
  world : Bool := false
  entries : Map Entry := []
  chans : Map Chan := []
  outbox : Map OutBuf := []
  outWaiters : List (Bool × BitVec 2) := []
  pool : List SpawnRec := []
  lastS : BitVec 6 := 63
  lastC : BitVec 6 := 63
  issueS : BitVec 2 := 3
  issueC : BitVec 2 := 3
  sems : Map (BitVec 16) := []
  semWaiters : List (Nat × Bool × BitVec 2) := []
  semLast : Word := 0
  semSame : List (Nat × Bool × BitVec 2) := []
  semBlocks : Map (Nat × Nat) := []
  jobSerial : BitVec 16 := 0
  joint : List (BitVec 6 × BitVec 6 × Nat × Nat) := []
  slabDom : Map (BitVec 10) := []
  icache : List Nat := []
  vxu : Vxu := {}
  mxu : Mxu := {}
  flight : List Flight := []
  staging : List (BitVec 8 × LogEntry) := []
  deriving DecidableEq, Repr

/-- A line-cache line (R104): the tag, sector valid and poison bits, the write mask and the bytes. -/
structure Line where
  pa : Nat
  ctx : BitVec 8
  index : BitVec 20
  gen : BitVec 12
  valid : BitVec 4 := 0
  poison : BitVec 4 := 0
  mask : BitVec 256 := 0
  data : BitVec 2048 := 0
  deriving DecidableEq, Repr

/-- Who asked for a page walk: a slot at an instruction, a job, the line cache, a scout at an instruction. -/
inductive Walker where
  | slot (sid : SlotId) (pc : Word)
  | job (tile : BitVec 10) (num : BitVec 16)
  | prefetch
  | scout (sid : SlotId) (pc : Word)
  deriving DecidableEq, Repr

/-- A page walk in progress (R100), with the access it is made for and the title that access is made under. -/
structure Walk where
  ctx : BitVec 8
  va : Nat
  kind : AccKind
  by_ : Walker
  title : Option (BitVec 20 × BitVec 12) := none
  deriving DecidableEq, Repr

/-- A cluster (R10). -/
structure Cluster where
  world : Bool := false
  lines : List Line := []
  tlb : List TlbEntry := []
  walks : List Walk := []
  deriving DecidableEq, Repr

/-- The fields of a job card (R235, R347). -/
structure Card where
  sk : KReg := 0
  dk : KReg := 0
  notify : Bool := false
  carry : Bool := false
  toslab : Bool := false
  mode : Bool := false
  tag : BitVec 16 := 0
  srcoff : Nat := 0
  dstoff : Nat := 0
  len : Nat := 0
  count : Nat := 0
  cmpdst : Word := 0
  fill : Word := 0
  rows : Nat := 0
  sstride : Nat := 0
  dstride : Nat := 0
  deriving DecidableEq, Repr

/-- What a job does. -/
inductive JobKind where
  | copy | get | put | xfer | fill | twoD | slab
  | bcast | run | read | rcopy | zero
  deriving DecidableEq, Repr

/-- Bytes that a job read for one destination range, with the 64-byte units found bad (R108). -/
structure Chunk where
  dst : Nat
  bytes : List Byte
  bad : List Nat
  deriving DecidableEq, Repr

/-- An engine job (R234 to R241, R348): `status` is the code of R210; `paused` the fault it met in its own walk (R141);
`waits` the remote writes whose acknowledgements it awaits (R238), `row` the row an `MV.2D` has come to (R243) or the destination granule of an `NB.RCOPY`, `gran` the physical granule of a
near-bank job, `entry` the entry of the issuing firing (R130), `got` the bytes read so far of the row at hand and `gotBad` the bad ones
among them, `zeroed` the bytes of the source zeroed so far (R241); `cancelled` says that the job was cancelled and only its message is due
(R238, R239), `untold` is the record of a refusal that no firing of the chain has met (R141). Of a job that moves a title, `destCtx` is the
destination context and `far` says that a byte copy is due, as the checks at its issue found (R78, R374). `badUnits` are the 64-byte units of
its destination that have received a bad byte (R108). `reached` orders the microprograms of a pseudo-channel by their coming to the base die (R340). -/
structure Job where
  tile : BitVec 10
  num : BitVec 16
  core : Bool
  slot : BitVec 2
  chainId : BitVec 32
  ctx : BitVec 8
  kind : JobKind
  card : Card
  imgS : Title := {}
  imgD : Title := {}
  slabBase : Nat := 0
  slabLen : Nat := 0
  status : BitVec 4 := 0
  paused : Option Nat := none
  deferred : Option (BitVec 7 × Nat) := none
  poison : Bool := false
  data : List Chunk := []
  buf : Option Nat := none
  ord : Nat := 0
  prog : List (BitVec 32) := []
  owned : Bool := true
  waits : List Nat := []
  row : Nat := 0
  gran : Option Nat := none
  entry : BitVec 6 := 0
  got : List Byte := []
  gotBad : List Nat := []
  zeroed : Nat := 0
  cancelled : Bool := false
  untold : Option FaultRec := none
  destCtx : BitVec 8 := 0
  far : Bool := false
  badUnits : List Nat := []
  reached : Nat := 0
  deriving DecidableEq, Repr

/-- Where an atomic or a pool request is served (R69, R309): a cluster SRAM bank, a base die, a shard, or a peer package. -/
inductive Home where
  | bank (cluster : BitVec 6) (bank : BitVec 6)
  | stack (s : BitVec 4)
  | shard (pool : BitVec 6) (die : BitVec 3)
  | tile (t : BitVec 10)
  | peer (p : BitVec 10)
  deriving DecidableEq, Repr

/-- What a request asks. -/
inductive ReqKind where
  | amo (op : BitVec 4) (n : Bool) (key : Nat) (pa : Nat) (arg cmp : Word)
  | spawn (entry : BitVec 6) (pc : Word) (args : List Word)
  | insert (pool : BitVec 6) (key value : Word) (title : Option Title)
  | take (pool : BitVec 6) (addr : Word) (kd : KReg)
  | takeM (pool : BitVec 6) (chan : BitVec 6) (buf : Nat)
  | remoteWrite (peer : BitVec 10) (pa : Nat) (bytes : List Byte) (bad : Bool)
  | titleCopy (k : KReg) (dst : Word) (bytes : List Byte) (bad : Bool)
  deriving DecidableEq, Repr

/-- The mark that a reply carries (R109, R119). -/
inductive Mark where
  | none | poison | indet
  deriving DecidableEq, Repr

/-- Where a request stands: sent, waiting at its home, answered and on its way back, or answered and done. -/
inductive ReqState where
  | unsent
  | sent
  | parked
  | replied (v : Word) (m : Mark)
  | notParked
  | refused
  deriving DecidableEq, Repr

/-- A request in flight (R119, R247, R324): its source, sequence number and replay flag, the ns since it was sent or answered
not-parked, the resends made, the cycles since the last offer and the first refusal of a refused insert (R322), its home, and
the register its reply is due to. `record` is the answer to a take (R326), `asked` the dies a take has asked so far (R317); `port` the UALink port
it went through (R34), `entry` the entry of the firing that sent it (R130), `va` the address that an atomic or a remote write was issued
for (R102, R113). Of a `TSENDR` (R226), `buf` is the outbox buffer held for its message, `pages` the translations its reads took, and
`zeroed` the bytes of the source zeroed so far. `packet` is the number of the packet it, or its reply, crosses the fabric in (R18); `serial` names the pool that a pool request was
issued to, whose number may be configured anew (R330). -/
structure Req where
  id : Nat
  src : SlotId
  chainId : BitVec 32
  ctx : BitVec 8
  seq : BitVec 20
  replay : Bool := false
  age : Nat := 0
  resends : Nat := 0
  sinceOffer : Nat := 0
  sinceRefusal : Nat := 0
  home : Home
  kind : ReqKind
  ord : Bool := false
  rd : Option XReg := none
  tindex : BitVec 20 := 0
  state : ReqState := .sent
  record : List Word := []
  asked : List (BitVec 3) := []
  gotTitle : Option Title := none
  port : Option (BitVec 4) := none
  entry : BitVec 6 := 0
  va : Nat := 0
  zeroed : Nat := 0
  buf : Option Nat := none
  pages : List TlbEntry := []
  packet : Option Nat := none
  serial : Nat := 0
  deriving DecidableEq, Repr

/-- The replay filter of one source at a home: its last 64 results (R119), most recent first. -/
structure Filter where
  source : Nat
  results : List (BitVec 20 × Word × Mark)
  deriving DecidableEq, Repr

/-- A parked `AMO.WAITGE` (R248): its request, with the source and the sequence number that its result is kept under (R119), its key, value
and comparison. -/
structure Parked where
  id : Nat
  source : Nat
  seq : BitVec 20
  key : Nat
  n : Bool
  rs : Word
  deriving DecidableEq, Repr

/-- The state of one home: replay filters, most recently used first, and the park list. -/
structure HomeState where
  home : Home
  filters : List Filter := []
  parks : List Parked := []
  deriving DecidableEq, Repr

/-- The phase of a shard in a turn (R313). -/
inductive Phase where
  | normal | turned | ready | cut
  deriving DecidableEq, Repr

/-- An insert held at a shard with its request (R316); `afterCut` where it is performed at adoption. -/
structure Held where
  id : Nat
  key : Word
  value : Word
  title : Option Title
  afterCut : Bool
  deriving DecidableEq, Repr

/-- A shard (R313 to R322). `t` is T_n at this shard (none is +∞), `reports` the reports received in this turn; `paused` the number of the
retry record that its engine's own walk awaits (R134, R141). -/
structure Shard where
  elems : List Elem := []
  held : List Held := []
  parked : List Nat := []
  queue : List Nat := []
  round : Nat := 0
  t : Option (Word × Word) := none
  blind : Nat := 0
  inserts : Nat := 0
  sinceCut : Bool := false
  phase : Phase := .normal
  reports : List (BitVec 3 × Nat × List (Word × Word)) := []
  early : Bool := false
  counts : List Nat := []
  paused : Option (BitVec 16) := none
  deriving DecidableEq, Repr

/-- A batch of elements moving between shards (R317, R318). -/
structure Transfer where
  src : BitVec 3
  dst : BitVec 3
  elems : List Elem
  for_ : Option Nat
  deriving DecidableEq, Repr

/-- A pool (R309, R312): `next` is the configuration word that applies from the next cut, `sinceCut` the cycles since the last
cut (512 before the first: log 12), `quota` the on-chip records of each shard (R322), `serial` the model's own name of this pool among those
that have had its number. -/
structure Pool where
  configured : Bool := false
  serial : Nat := 0
  ctx : BitVec 8 := 0
  title : Title := {}
  word : Word := 0
  next : Word := 0
  turning : Bool := false
  sinceCut : Nat := 512
  quota : Nat := 131072
  lastTotal : Nat := 0
  shards : Map Shard := []
  moving : List Transfer := []
  deriving DecidableEq, Repr

/-- A context parked by a switch: a successor that `EXIT.S` handed over (R58), with the slot it left, and the accumulators with their
SAT bits where it holds the claim (R289). -/
structure ParkedFiring where
  sid : SlotId
  slot : Slot
  matrix : Option (Vector (Map (BitVec 32)) 4 × BitVec 4) := none
  deriving DecidableEq, Repr

/-- What a context switch saved (R64): bytes by their key, joint regions and arenas among them, and channel records. -/
structure Saved where
  cells : List Host.Cell := []
  chans : List (BitVec 10 × BitVec 6 × Chan) := []
  sems : List (BitVec 10 × Nat × BitVec 16) := []
  deriving DecidableEq, Repr

/-- A landing arena (R251): the arena title's index in the context's table for each locality. -/
structure Landing where
  tile : BitVec 10
  tileArena : BitVec 20
  hbmArena : BitVec 20
  deriving DecidableEq, Repr

/-- A context (R45, R71, R96, R145 and others): `state` 0 free, 1 running, 2 stopping, 3 saved. -/
structure Ctx where
  state : BitVec 2 := 0
  world : Bool := false
  domain : BitVec 10 := 0
  key : Byte := 0
  func : BitVec 5 := 0
  rerun : BitVec 2 := 0
  globals : BitVec 56 := 0
  saveArea : BitVec 48 := 0
  faultArea : BitVec 48 := 0
  top : BitVec 36 := 0
  en : Bool := false
  table : Map Tte := []
  tableSize : Nat := 0
  arenas : Map (List (Nat × Nat)) := []
  landing : List Landing := []
  rseed : BitVec 16 := 0
  poolGrant : Nat := 4
  gateAdmitted : Bool := false
  tfCount : Nat := 0
  scoutCount : Nat := 0
  log : List LogEntry := []
  logCap : Nat := 0
  logStopped : Bool := false
  replay : List LogEntry := []
  injected : List (Word × List Word) := []
  spawnQ : List SpawnRec := []
  spawnCap : Nat := 64
  placed : List (BitVec 10) := []
  killed : Bool := false
  parked : List ParkedFiring := []
  saved : Saved := {}
  deriving DecidableEq, Repr

/-- ECC metadata of a 64-byte unit of HBM, by location: poison, and how many 16-bit symbols of what is stored are in error (R106); whether
it was ever written, and the key its bytes were last encrypted under: domain number and how often that domain had been destroyed (R85).
[log 37 DESIGN CHOICE] [log 37 DESIGN CHOICE] -/
structure Unit64 where
  poison : Bool := false
  symbols : Nat := 0
  written : Bool := false
  domain : BitVec 10 := 0
  epoch : Nat := 0
  deriving DecidableEq, Repr

/-- The near-bank state of an opened granule (R340), at location (stack, offset). Registers that the tables do not list are 0.
`bregs` is keyed by 8 × bank + register, `acc` and `slots` by 16 × bank + number. `ran` says that the microprogram has come to a row boundary since
it last resumed, `suspended` that an arbitration window is open at it, which has served `served` ordinary requests (R341); `stateBad` that an
error which ECC does not correct lies in this state (R365). -/
structure Gran where
  stack : BitVec 4
  off : Nat
  g : Nat
  bregs : Map (BitVec 256) := []
  acc : Map (BitVec 32) := []
  slots : Map (BitVec 32) := []
  upc : BitVec 6 := 0
  lc : Byte := 0
  rowOpen : Bool := false
  execs : Nat := 0
  macs : Nat := 0
  ran : Bool := true
  opener : SlotId
  chainId : BitVec 32
  ctx : BitVec 8
  index : BitVec 20
  domain : BitVec 10
  byOpen : Bool := true
  closing : Bool := false
  suspended : Bool := false
  served : Nat := 0
  stateBad : Bool := false
  deriving DecidableEq, Repr

/-- A domain (R85, R111). -/
structure Domain where
  live : Bool := false
  epoch : Nat := 0
  actRate : BitVec 16 := 0
  actBurst : BitVec 16 := 4096
  rfmCost : Byte := 64
  deriving DecidableEq, Repr

/-- The migration registers and the controllers (R110, R111, R339, R359): `rfmBy` names the domain whose activation brought a bank to the
threshold, `sinceRefill` the ns since the last refill of a bucket, `corrected` and `uncorrected` count the errors of each stack (R41, R359),
`errorLimit` is the limit of the firmware image, `reported` what function 0 has been told of a retirement: C', and `leaving` the ranges that its invalidation awaits (R359). `waiting` holds the ordinary
requests queued at pseudo-channels whose microprogram runs, in arrival order: pseudo-channel, die of the requester, physical address;
`granted` those that an arbitration window has served and whose requester has not gone on (R341). -/
structure Hbm where
  liveMask : BitVec 16 := 0
  liveCap : BitVec 40 := 0
  mphase : Byte := 0
  target : BitVec 4 := 0
  state : BitVec 2 := 0
  wmark : BitVec 36 := 0
  requests : List (BitVec 4) := []
  confirmed : Bool := false
  shrinkTimeoutMs : BitVec 32 := 0
  sinceRequest : Nat := 0
  timedOut : Bool := false
  actCounts : Map Nat := []
  rfmThreshold : Nat := 0
  rfmBy : Map (BitVec 10) := []
  rfm : List (BitVec 4 × BitVec 6 × BitVec 4) := []
  tokens : Map Nat := []
  sinceRefill : Map Nat := []
  corrected : Map Nat := []
  uncorrected : Map Nat := []
  errorLimit : Nat := 0
  reported : Option Nat := none
  leaving : List (BitVec 8 × Nat × Nat) := []
  waiting : List (Nat × BitVec 3 × Nat) := []
  granted : List (BitVec 3 × Nat) := []
  deriving DecidableEq, Repr

/-- A launch stored at the port (R375). -/
structure Stored where
  tile : BitVec 10
  msg : Msg
  refused : Bool := false
  sinceOffer : Nat := 0
  sinceRefusal : Nat := 0
  deriving DecidableEq, Repr

/-- A host function: its launch window (R26), launch store (R375) and fault ring (R135). -/
structure Func where
  lwEn : Bool := false
  lwLog : BitVec 5 := 4
  lwBase : Word := 0
  lwHead : BitVec 32 := 0
  lwTail : BitVec 32 := 0
  rejects : BitVec 32 := 0
  lastErr : Byte := 0
  lwKey : Byte := 0
  seqs : Map (BitVec 20) := []
  store : List Stored := []
  frEn : Bool := false
  frLog : BitVec 5 := 8
  frBase : Word := 0
  frHead : BitVec 32 := 0
  frTail : BitVec 32 := 0
  drops : BitVec 32 := 0
  frSeq : BitVec 16 := 0
  queue : List FaultRec := []
  deriving DecidableEq, Repr

/-- The reporting port (R134, R136): the queues of the retry and terminal rings, what the rings hold, and the place in the
round of 8 grants. [log 37 DESIGN CHOICE] -/
structure Rings where
  retryQ : List FaultRec := []
  termQ : List FaultRec := []
  retry : List FaultRec := []
  term : List FaultRec := []
  termDrops : Nat := 0
  grant : BitVec 3 := 0
  lastFunc : Nat := 0
  retrySeq : BitVec 16 := 0
  termSeq : BitVec 16 := 0
  deriving DecidableEq, Repr

/-- What crosses the fabric for one message or request (R18, R22): the die it is for, the flow with the header sequence number
where it is a message's, its class (R120: 0 request, 1 reply, 2 forward), and its bytes; `num` is the model's own number of a packet that
somebody awaits, else 0. -/
structure Packet where
  dst : BitVec 3
  num : Nat := 0
  flow : Option (Nat × BitVec 20) := none
  cls : BitVec 2 := 0
  bytes : List Byte := []
  deriving DecidableEq, Repr

/-- A flit in the replay buffer of its sender (R18): its link sequence number, class and group tag, its payload, the packet that ends
in it, and whether it is on its way. -/
structure Flit where
  lsn : Nat
  cls : BitVec 2
  group : BitVec 6
  payload : List Byte
  ends : Option Packet := none
  flying : Bool := true
  deriving DecidableEq, Repr

/-- A lane group of a Zonda link (R20, R21, ZGS); `next` is the lane mask that a running retraining will adopt, `fails` the ns since
each CRC failure within the last 1 ms. -/
structure Group where
  retrains : Byte := 0
  lanes : BitVec 5 := 16
  mask : BitVec 16 := 0xFFFF
  next : BitVec 16 := 0xFFFF
  training : Bool := false
  fails : List Nat := []
  deriving DecidableEq, Repr

/-- One direction of a Zonda link (R18, R21, R22), keyed by 8 × source die + destination die: at the sender the next link sequence
number, the replay buffer and the group that sent last; at the receiver the number expected, the flits held out of order, the
payloads delivered and the numbers asked for again. -/
structure Link28 where
  state : BitVec 2 := 0
  groups : Map Group := []
  next : Nat := 0
  replay : List Flit := []
  last : BitVec 6 := 51
  expected : Nat := 0
  held : List (Nat × List Byte) := []
  delivered : List (List Byte) := []
  resend : List Nat := []
  deriving DecidableEq, Repr

/-- A message that came out of its order and waits in the gateway (R32, R118), with the accelerator it came from. -/
structure EarlyTxn where
  accel : BitVec 10
  txn : PeerTxn
  deriving DecidableEq, Repr

/-- What this package answers a request of a peer with (R32, R106, R109, R118, R248): bytes with a poison indication, a write performed, an
atomic's result with its mark, a wait parked or not parked, or none of its effect because the address is withdrawn. -/
inductive PeerAnswer where
  | data (bytes : List Byte) (bad : Bool)
  | written
  | result (w : Word) (m : Mark)
  | parked
  | notParked
  | withdrawn
  deriving DecidableEq, Repr

/-- The gateway (R31 to R34, R118): of the instance of each die the two ports that are live, for each flow from a peer the sequence
number expected next, the messages that wait for earlier ones, and the answers given to peers, the last one first: for whom (an atomic's
source with its sequence number) and what. -/
structure Gateway where
  ports : Vector (BitVec 2) 8 := Vector.replicate 8 3
  expected : Map Nat := []
  early : List EarlyTxn := []
  answers : List (Nat × BitVec 20 × PeerAnswer) := []
  deriving DecidableEq, Repr

/-- A page that firmware is migrating (R103): step 1 is done, and its leaf with its address waits for steps 2 and 3. -/
structure Migrating where
  ctx : BitVec 8
  va : BitVec 56
  leaf : Word
  pa : Nat
  deriving DecidableEq, Repr

/-- Boot, attestation, power and telemetry (R33, R35 to R41). `image` is the image of a boot that has not come to step 5, `failed` the
step that function 0 reports as failed, `sinceClock` and `sinceReport` the ns since each die's clock last stepped and since the last
report (1 ms at the start: log 66), `hostVisible` the ranges that firmware marks, `hostLines` the lines of host memory that engines
hold in shared state (R24), `hostData` the answer to the last CXL.mem read and `hostBad` its poison indication, `arrived` the header sequence
number expected next of each flow over the fabric (R22), `home` the awaited packets that have come to their die (R18), `invalidating` the invalidations that have not been reported done (R102). -/
structure Board where
  step : Nat := 0
  ready : Bool := false
  halted : Bool := false
  image : Option BootImage := none
  failed : Option Nat := none
  accelId : BitVec 10 := 0
  accelOver : Option (BitVec 10) := none
  measures : Vector (BitVec 256) 8 := Vector.replicate 8 0
  versions : Vector Word 8 := Vector.replicate 8 0
  nextMeasure : Nat := 2
  spdm : Nat := 0
  nonce : BitVec 256 := 0
  response : List Byte := []
  clocks : Vector Nat 8 := Vector.replicate 8 2000
  sinceClock : Vector Nat 8 := Vector.replicate 8 1000000
  sinceReport : Nat := 1000000
  powerLimit : Nat := 3200
  overPower : Bool := false
  stopped : Bool := false
  regions : List (Nat × Nat × Bool) := []
  unitsSecure : List WorldUnit := []
  hostVisible : List (Nat × Nat) := []
  hostLines : List Nat := []
  hostData : List Byte := []
  hostBad : Bool := false
  ideKey : Vector Word 4 := Vector.replicate 4 0
  ualinkKeys : Map (Vector Word 4) := []
  arrived : Map (BitVec 20) := []
  home : List Nat := []
  report : List Nat := []
  superQ : Map (List Msg) := []
  migrations : List (BitVec 8 × BitVec 56) := []
  migCounts : Map Nat := []
  migrating : List Migrating := []
  invalidating : List (BitVec 8 × BitVec 56 × BitVec 56) := []
  regs : Map Word := []
  deriving DecidableEq, Repr

/-- Which agent moves next: a slot issues, a unit or outside party makes an event, or a near-bank job runs its next
micro-instruction. The model's own (log 1). [log 1 DESIGN CHOICE] -/
inductive Turn where
  | issue (sid : SlotId)
  | unit (i : Instr)
  | micro (tile : BitVec 10) (num : BitVec 16)
  deriving DecidableEq, Repr

/-- The package. `late` holds the titles of ended firings that wait, on their tile, for accesses and jobs under them (R57,
R239). `remote` holds what this package has last written to peer memory. The fields from `agenda` on are the model's own (log 1, log 4). -/
structure State where
  slots : Map Slot
  tiles : Map Tile
  clusters : Map Cluster
  ctxs : Map Ctx
  mem : List Host.Cell
  remote : Map Byte
  units : Map Unit64
  jobs : List Job
  reqs : List Req
  homes : List HomeState
  pools : Map Pool
  grans : List Gran
  late : List (BitVec 10 × Title)
  domains : Map Domain
  hbm : Hbm
  funcs : Map Func
  rings : Rings
  links : Map Link28
  board : Board
  gateway : Gateway
  cycles : Vector Word 8
  time : Word
  agenda : List Turn
  cur : SlotId
  curJob : Option (BitVec 10 × BitVec 16)
  ticks : Nat
  nextId : Nat
  deriving DecidableEq, Repr

/-- Why a step stops. -/
inductive Fault where
  /-- Raised by the step once the package has been stopped at 110 °C (R40): the host sees surprise removal and no unit moves
  any more. Safe. -/
  | packageStopped
  /-- Raised by the step when the ROM has halted after a failed signature check (R35). Safe. -/
  | bootHalted
  deriving DecidableEq, Repr

/-- Why an instruction has no meaning here. -/
inductive Refusal where
  /-- Raised by `exec` for an instruction that this model does not give a meaning yet. Safe. -/
  | notModelled (mnemonic : String)
  deriving DecidableEq, Repr

/-- The package at power-good, before boot has run (R35): every register map at its reset column, and the values of logs 2 and 3
where the manual gives none. [log 2 DESIGN CHOICE] -/
def State.reset : State :=
  { slots := [], tiles := [], clusters := [], ctxs := [], mem := [], remote := [], units := [], jobs := [], reqs := [], homes := [],
    pools := [], grans := [], late := [], domains := [], hbm := {}, funcs := [], rings := {}, links := [], board := {},
    gateway := {}, cycles := Vector.replicate 8 0, time := 0, agenda := [], cur := ⟨0, false, 0⟩, curJob := none, ticks := 0,
    nextId := 0 }

end Sys2Proof.Machine
end

