-- ==== Sys2Proof/Machine/Access.lean ====
section
/-! DEFINITION. Tables, bytes and words, and the accessors of every table of the state: what a table does not list reads
as its reset value. -/

namespace Sys2Proof.Machine

/-- What table `m` holds at `k`, or `d`. -/
def find {α : Type} (d : α) : Map α → Nat → α
  | [], _ => d
  | (j, v) :: m, k => if j = k then v else find d m k

/-- Table `m` with `v` at `k`. -/
def put {α : Type} : Map α → Nat → α → Map α
  | [], k, v => [(k, v)]
  | (j, w) :: m, k, v => if j = k then (k, v) :: m else (j, w) :: put m k v

/-- Table `m` without `k`. -/
def drop {α : Type} (m : Map α) (k : Nat) : Map α := m.filter (fun e => e.1 != k)

/-- The first element of a list with property `p` is replaced by `f` of it. -/
def updateFirst {α : Type} (p : α → Bool) (f : α → α) : List α → List α
  | [] => []
  | a :: l => if p a then f a :: l else a :: updateFirst p f l

/-- The list without the first element that has property `p`. -/
def removeFirst {α : Type} (p : α → Bool) : List α → List α
  | [] => []
  | a :: l => if p a then l else a :: removeFirst p l

/-- Little-endian value of bytes (R172, R190). -/
def leNat : List Byte → Nat
  | [] => 0
  | b :: bs => b.toNat + 256 * leNat bs

/-- The n little-endian bytes of a number (R172, R190). -/
def leBytes : Nat → Nat → List Byte
  | 0, _ => []
  | n + 1, v => BitVec.ofNat 8 v :: leBytes n (v / 256)

def leWord (bs : List Byte) : Word := BitVec.ofNat 64 (leNat bs)

/-- The double words of a byte string. -/
def dwords : Nat → List Byte → List Word
  | 0, _ => []
  | n + 1, bs => leWord (bs.take 8) :: dwords n (bs.drop 8)

/-- The bytes of double words. -/
def wordsBytes (ws : List Word) : List Byte := ws.flatMap (fun w => leBytes 8 w.toNat)

/-- Bits [hi:lo] of a double word as a number. -/
def bits (w : Word) (hi lo : Nat) : Nat := w.toNat / 2 ^ lo % 2 ^ (hi - lo + 1)

def b2n (b : Bool) : Nat := if b then 1 else 0

/-- A slot's number in the package (R7, R8): (tile × 2 + core) × 4 + slot. -/
def SlotId_num (i : SlotId) : Nat := (i.tile.toNat * 2 + b2n i.core) * 4 + i.slot.toNat

def State.slot (s : State) (i : SlotId) : Slot := find {} s.slots (SlotId_num i)
def State.setSlot (s : State) (i : SlotId) (v : Slot) : State := { s with slots := put s.slots (SlotId_num i) v }
def State.modSlot (s : State) (i : SlotId) (f : Slot → Slot) : State := s.setSlot i (f (s.slot i))

def State.tile (s : State) (t : BitVec 10) : Tile := find {} s.tiles t.toNat
def State.setTile (s : State) (t : BitVec 10) (v : Tile) : State := { s with tiles := put s.tiles t.toNat v }
def State.modTile (s : State) (t : BitVec 10) (f : Tile → Tile) : State := s.setTile t (f (s.tile t))

/-- The cluster of a tile (R8). -/
def clusterOf (t : BitVec 10) : BitVec 6 := t.extractLsb' 4 6
/-- The die of a tile (R8). -/
def dieOf (t : BitVec 10) : BitVec 3 := t.extractLsb' 7 3
/-- The die of a cluster. -/
def dieOfCluster (c : BitVec 6) : BitVec 3 := c.extractLsb' 3 3

def State.cluster (s : State) (c : BitVec 6) : Cluster := find {} s.clusters c.toNat
def State.setCluster (s : State) (c : BitVec 6) (v : Cluster) : State := { s with clusters := put s.clusters c.toNat v }
def State.modCluster (s : State) (c : BitVec 6) (f : Cluster → Cluster) : State := s.setCluster c (f (s.cluster c))

def State.ctx (s : State) (c : BitVec 8) : Ctx := find {} s.ctxs c.toNat
def State.setCtx (s : State) (c : BitVec 8) (v : Ctx) : State := { s with ctxs := put s.ctxs c.toNat v }
def State.modCtx (s : State) (c : BitVec 8) (f : Ctx → Ctx) : State := s.setCtx c (f (s.ctx c))

def State.func (s : State) (f : BitVec 5) : Func := find {} s.funcs f.toNat
def State.setFunc (s : State) (f : BitVec 5) (v : Func) : State := { s with funcs := put s.funcs f.toNat v }
def State.modFunc (s : State) (f : BitVec 5) (g : Func → Func) : State := s.setFunc f (g (s.func f))

def State.domain (s : State) (d : BitVec 10) : Domain := find {} s.domains d.toNat
def State.modDomain (s : State) (d : BitVec 10) (g : Domain → Domain) : State :=
  { s with domains := put s.domains d.toNat (g (s.domain d)) }

def State.pool (s : State) (p : BitVec 6) : Pool := find {} s.pools p.toNat
def State.modPool (s : State) (p : BitVec 6) (g : Pool → Pool) : State := { s with pools := put s.pools p.toNat (g (s.pool p)) }

def Pool.shard (p : Pool) (d : BitVec 3) : Shard := find {} p.shards d.toNat
def State.shard (s : State) (p : BitVec 6) (d : BitVec 3) : Shard := (s.pool p).shard d
def State.modShard (s : State) (p : BitVec 6) (d : BitVec 3) (g : Shard → Shard) : State :=
  s.modPool p (fun q => { q with shards := put q.shards d.toNat (g (q.shard d)) })

def State.link (s : State) (a b : BitVec 3) : Link28 := find {} s.links (8 * a.toNat + b.toNat)
def State.modLink (s : State) (a b : BitVec 3) (g : Link28 → Link28) : State :=
  { s with links := put s.links (8 * a.toNat + b.toNat) (g (s.link a b)) }

def Tile.entry (t : Tile) (e : BitVec 6) : Entry := find {} t.entries e.toNat
def State.entry (s : State) (t : BitVec 10) (e : BitVec 6) : Entry := (s.tile t).entry e
def State.modEntry (s : State) (t : BitVec 10) (e : BitVec 6) (g : Entry → Entry) : State :=
  s.modTile t (fun v => { v with entries := put v.entries e.toNat (g (v.entry e)) })

def Tile.chan (t : Tile) (c : BitVec 6) : Chan := find {} t.chans c.toNat
def State.chan (s : State) (t : BitVec 10) (c : BitVec 6) : Chan := (s.tile t).chan c
def State.modChan (s : State) (t : BitVec 10) (c : BitVec 6) (g : Chan → Chan) : State :=
  s.modTile t (fun v => { v with chans := put v.chans c.toNat (g (v.chan c)) })

def State.job? (s : State) (t : BitVec 10) (n : BitVec 16) : Option Job := s.jobs.find? (fun j => j.tile == t && j.num == n)
def State.modJob (s : State) (t : BitVec 10) (n : BitVec 16) (f : Job → Job) : State :=
  { s with jobs := updateFirst (fun j => j.tile == t && j.num == n) f s.jobs }

def State.req? (s : State) (id : Nat) : Option Req := s.reqs.find? (fun r => r.id == id)
def State.modReq (s : State) (id : Nat) (f : Req → Req) : State :=
  { s with reqs := updateFirst (fun r => r.id == id) f s.reqs }
def State.dropReq (s : State) (id : Nat) : State := { s with reqs := s.reqs.filter (fun r => r.id != id) }

def State.home (s : State) (h : Home) : HomeState := (s.homes.find? (fun x => x.home == h)).getD { home := h }
def State.setHome (s : State) (v : HomeState) : State :=
  { s with homes := v :: s.homes.filter (fun x => x.home != v.home) }

/-- A fresh number for requests, order of issue and the like (the model's own, log 1). [log 1 DESIGN CHOICE] -/
def State.fresh (s : State) : State := { s with nextId := s.nextId + 1 }

/-- Register xr of a slot; x0 reads 0 (R56, R172). -/
def Slot.xr (v : Slot) (r : XReg) : Word := if r = 0 then 0 else v.x[r.toNat]

/-- A marked bit of register r: bit r of [31:0] is the poison mark, of [63:32] the indeterminate mark (R126). -/
def Slot.poisonMark (v : Slot) (r : XReg) : Bool := v.marks.getLsbD r.toNat
def Slot.indetMark (v : Slot) (r : XReg) : Bool := v.marks.getLsbD (32 + r.toNat)

/-- The mark word with both marks of r cleared, and mark m set. -/
def withMark (marks : Word) (r : XReg) (m : Mark) : Word :=
  let clear := marks &&& ~~~((1#64 <<< r.toNat) ||| (1#64 <<< (32 + r.toNat)))
  match m with
  | .none => clear
  | .poison => clear ||| (1#64 <<< r.toNat)
  | .indet => clear ||| (1#64 <<< (32 + r.toNat))

/-- Writing register r: x0 discards; the marks are cleared (R109) and a reply still due to r no longer reaches it. -/
def Slot.setX (v : Slot) (r : XReg) (w : Word) : Slot :=
  if r = 0 then v
  else { v with x := v.x.set r.toNat w, marks := withMark v.marks r .none, due := v.due.set r.toNat none }

/-- Register r awaits the reply numbered id (R247, R261). -/
def Slot.bindX (v : Slot) (r : XReg) (id : Nat) : Slot :=
  if r = 0 then v
  else { v with due := v.due.set r.toNat (some id), marks := withMark v.marks r .none }

/-- A reply arrives for register r: written only where it is still due (R109, R247). -/
def Slot.replyX (v : Slot) (r : XReg) (id : Nat) (w : Word) (m : Mark) : Slot :=
  if r ≠ 0 ∧ v.due[r.toNat] = some id then
    { v with x := v.x.set r.toNat w, marks := withMark v.marks r m, due := v.due.set r.toNat none }
  else v

def Slot.dueOf (v : Slot) (r : XReg) : Bool := r != 0 && (v.due[r.toNat]).isSome
/-- Some register still awaits a reply (R377). -/
def Slot.anyDue (v : Slot) : Bool := v.due.toList.any Option.isSome

def Slot.kr (v : Slot) (k : KReg) : TReg := v.k[k.toNat]
def Slot.setK (v : Slot) (k : KReg) (t : TReg) : Slot := { v with k := v.k.set k.toNat t }
def Slot.vwr (v : Slot) (r : VwReg) : View := v.vw[r.toNat]

def State.tte (s : State) (t : Title) : Tte := find {} (s.ctx t.ctx).table t.index.toNat
def State.modTte (s : State) (c : BitVec 8) (i : BitVec 20) (f : Tte → Tte) : State :=
  s.modCtx c (fun v => { v with table := put v.table i.toNat (f (find {} v.table i.toNat)) })

/-- The running slot (the one whose instruction `exec` carries out). -/
def State.me (s : State) : Slot := s.slot s.cur
def State.setMe (s : State) (v : Slot) : State := s.setSlot s.cur v

/-- The entry whose firing occupies a slot, and the context of the firing. -/
def State.entryOf (s : State) (i : SlotId) : Entry := s.entry i.tile (s.slot i).entry
def State.ctxOf (s : State) (i : SlotId) : Ctx := s.ctx (s.slot i).ctx

end Sys2Proof.Machine
end

