-- ==== Sys2Proof/Machine/Links.lean ====
section
/-! DEFINITION. The Zonda links (R17 to R22): striping a flit over the lanes of a group, sending and receiving flits, retraining, and the
way of packets over a link or its detour. -/

namespace Sys2Proof.Machine

/-! ### Lanes, beats and flits -/

def popcount16 (m : BitVec 16) : Nat := ((List.range 16).filter m.getLsbD).length

/-- The working lanes l(0) < l(1) < … of a lane mask (R19). -/
def lanesOf (m : BitVec 16) : List Nat := (List.range 16).filter m.getLsbD

/-- The beats that a flit occupies on L lanes: ceil(256 / L) (R19). -/
def flitBeats (l : Nat) : Nat := (255 + l) / l

/-- The place of byte i of a flit on the lanes of a mask: lane l(i mod L), beat i div L (R19). -/
def flitPlace (m : BitVec 16) (i : Nat) : Nat × Nat :=
  let ls := lanesOf m
  (ls.getD (i % ls.length) 0, i / ls.length)

/-- What a beat carries: byte n of it is the byte on physical lane n. -/
abbrev Beat := BitVec 128

def Beat.lane (b : Beat) (n : Nat) : Byte := b.extractLsb' (8 * n) 8
def Beat.onLane (n : Nat) (x : Byte) : Beat := x.setWidth 128 <<< (8 * n)

/-- A beat of a flit on the lanes of a mask; a lane for which the flit has no byte left carries 0x00 (R19). -/
def flitBeat (m : BitVec 16) (flit : List Byte) (b : Nat) : Beat :=
  let ls := lanesOf m
  (List.range ls.length).foldl (fun w j => w ||| Beat.onLane (ls.getD j 0) (flit.getD (b * ls.length + j) 0)) 0

/-- The flit as a group sends it (R19). -/
def stripe (m : BitVec 16) (flit : List Byte) : List Beat := (List.range (flitBeats (lanesOf m).length)).map (flitBeat m flit)

/-- The 256 bytes of a flit out of the beats that arrived (R19). -/
def destripe (m : BitVec 16) (beats : List Beat) : List Byte :=
  (List.range 256).map (fun i => (beats.getD (flitPlace m i).2 0).lane (flitPlace m i).1)

/-- The six header bytes of a flit: link sequence number, class, group tag (R18). [log 65 DESIGN CHOICE] -/
def Flit.header (f : Flit) : List Byte := leBytes 4 f.lsn ++ [f.cls.setWidth 8, f.group.setWidth 8]

/-- The 256 bytes of a flit: header, payload, CRC (R18). [log 65 DESIGN CHOICE] -/
def Flit.bytes (f : Flit) : List Byte :=
  let body := f.header ++ f.payload
  body ++ leBytes 4 (Config.flitCrc body).toNat

/-- The payload of a flit: its bytes 6 to 251 (R18). -/
def flitPayload (bs : List Byte) : List Byte := (bs.drop 6).take 246

/-! ### Groups and links -/

def Link28.group (l : Link28) (g : BitVec 6) : Group := find {} l.groups g.toNat
def Link28.setGroup (l : Link28) (g : BitVec 6) (v : Group) : Link28 := { l with groups := put l.groups g.toNat v }
/-- GROUPS: the live groups of 52 (R21). -/
def Link28.live (l : Link28) : Nat := 52 - (l.groups.filter (fun e => e.2.lanes == 0)).length

/-- The status registers as they read (R21). -/
def Group.zgs (g : Group) : Word := (g.retrains.setWidth 64 <<< 24) ||| (g.lanes.setWidth 64 <<< 16) ||| g.mask.setWidth 64
def Link28.zlink (l : Link28) (peer : BitVec 3) : Word :=
  (peer.setWidth 64 <<< 8) ||| BitVec.ofNat 64 (4 * l.live) ||| l.state.setWidth 64

/-- A group that carries traffic (R20). -/
def Group.carries (g : Group) : Bool := g.lanes != 0 && !g.training

/-- The working group that the next flit goes to: the groups take turns (R18). [log 65 DESIGN CHOICE] -/
def Link28.nextGroup (l : Link28) : Option (BitVec 6) :=
  ((List.range 52).map (fun n => BitVec.ofNat 6 ((l.last.toNat + 1 + n) % 52))).find? (fun g => (l.group g).carries)

/-- One more flit is sent: it takes the next link sequence number and the next group, and stays in the replay buffer (R18). Without a
working group it waits there. -/
def Link28.sendFlit (l : Link28) (cls : BitVec 2) (payload : List Byte) (ends : Option Packet) : Link28 :=
  let g := l.nextGroup.getD l.last
  { l with next := l.next + 1, last := g, replay := l.replay ++ [{ lsn := l.next, cls := cls, group := g, payload := payload, ends := ends }] }

/-- The 246-byte payloads of a packet, the last one filled up with zeros (R18). [log 65 DESIGN CHOICE] -/
def flitCut : Nat → List Byte → List (List Byte)
  | 0, _ => []
  | n + 1, bs => if bs.length ≤ 246 then [bs ++ List.replicate (246 - bs.length) 0] else bs.take 246 :: flitCut n (bs.drop 246)

/-- A packet is sent as flits; it ends in the last of them. -/
def Link28.sendPacket (l : Link28) (p : Packet) : Link28 :=
  let cuts := flitCut (p.bytes.length / 246 + 1) p.bytes
  (List.range cuts.length).foldl (fun l n =>
    l.sendFlit p.cls (cuts.getD n []) (if n + 1 = cuts.length then some p else none)) l

/-- The oldest flit on its way on a group. -/
def Link28.onWire (l : Link28) (g : BitVec 6) : Option Flit := l.replay.find? (fun f => f.group == g && f.flying)

def Link28.modFlit (l : Link28) (n : Nat) (f : Flit → Flit) : Link28 :=
  { l with replay := l.replay.map (fun x => if x.lsn == n then f x else x) }

/-- A flit of the replay buffer is sent again, on the next working group; without one it waits for a group (R18, R20). -/
def Link28.again (l : Link28) (n : Nat) : Link28 :=
  match l.nextGroup with
  | some g => { l.modFlit n (fun f => { f with group := g, flying := true }) with last := g }
  | none => l.modFlit n (fun f => { f with flying := true })

/-- The flits assigned to groups that carry no traffic are sent again on the working groups (R20). -/
def Link28.reassign (l : Link28) : Link28 :=
  ((l.replay.filter (fun f => !(l.group f.group).carries)).map Flit.lsn).foldl Link28.again l

/-- Flits that stand next in link-sequence order are delivered (R18). [log 55 DEDUCED] -/
def Link28.drain : Nat → Link28 → Link28
  | 0, l => l
  | n + 1, l => match l.held.find? (fun h => h.1 == l.expected) with
    | some h => Link28.drain n { l with held := l.held.filter (fun x => x.1 != l.expected), delivered := l.delivered ++ [h.2]
                                        expected := l.expected + 1 }
    | none => l

/-- A flit at the receiver (R18): one that fails its CRC is asked for again, a duplicate is discarded. [log 55 DEDUCED] -/
def Link28.receive (l : Link28) (lsn : Nat) (crcOk : Bool) (payload : List Byte) : Link28 :=
  if lsn < l.expected ∨ l.held.any (fun h => h.1 == lsn) then l
  else if !crcOk then { l with resend := if l.resend.contains lsn then l.resend else l.resend ++ [lsn] }
  else Link28.drain (l.held.length + 1) { l with held := (lsn, payload) :: l.held, resend := l.resend.filter (fun n => n != lsn) }

/-- The flits delivered in order are acknowledged and leave the replay buffer (R18). [log 55 DEDUCED] -/
def Link28.acked (l : Link28) : Link28 := { l with replay := l.replay.filter (fun f => l.expected ≤ f.lsn) }

/-- A CRC failure on a group: it counts for R20, and the flit is sent again (R18). -/
def Link28.failed (l : Link28) (g : BitVec 6) (n : Nat) : Link28 :=
  let x := l.group g
  ((l.setGroup g { x with fails := x.fails ++ [0] }).receive n false []).again n

/-- More than 64 CRC failures within the last 1 ms (R20). -/
def Group.faulty (g : Group) : Bool := (g.fails.filter (· ≤ 1000000)).length > 64

/-- Time passes for the CRC failures of a group (R20). -/
def Group.tick (ns : Nat) (g : Group) : Group := { g with fails := (g.fails.map (· + ns)).filter (· ≤ 1000000) }
def Link28.tick (ns : Nat) (l : Link28) : Link28 := { l with groups := l.groups.map (fun e => (e.1, e.2.tick ns)) }

/-- The packets whose last flit has not been acknowledged, in the order sent (R22). -/
def Link28.unacked (l : Link28) : List Packet := l.replay.filterMap Flit.ends

/-! ### The way of a packet -/

/-- A Zonda link that carries traffic: not failed and not withdrawn (R21, R22). -/
def State.linkUp (s : State) (a b : BitVec 3) : Bool := a == b || (s.link a b).state.toNat < 2
/-- The third die of a detour: the lowest-numbered die whose links to both are up (R22). -/
def State.detour (s : State) (a b : BitVec 3) : Option (BitVec 3) :=
  ((List.range 8).map (BitVec.ofNat 3)).find? (fun c => c != a && c != b && s.linkUp a c && s.linkUp c b)
/-- Two dies reach each other directly or by a detour (R22). -/
def State.reach (s : State) (a b : BitVec 3) : Bool := s.linkUp a b || (s.detour a b).isSome

/-- A packet at die a goes over the link to its die, or over the detour; with neither it is not sent (R22). [log 43 DEDUCED] -/
def State.sendPacket (s : State) (a : BitVec 3) (p : Packet) : State :=
  if a = p.dst then s
  else if s.linkUp a p.dst then s.modLink a p.dst (fun l => l.sendPacket p)
  else match s.detour a p.dst with
    | some c => s.modLink a c (fun l => l.sendPacket { p with cls := 2 })
    | none => s

/-- A packet has come to its die: one whose sequence number its flow has passed is a duplicate (R22). -/
def State.packetHome (s : State) (p : Packet) : State :=
  let b := s.board
  let home := if p.num = 0 then b.home else p.num :: b.home
  match p.flow with
  | none => { s with board := { b with home := home } }
  | some (k, q) =>
    let n := find 0 b.arrived k
    if (q - n).toNat < 2 ^ 19 then { s with board := { b with arrived := put b.arrived k (q + 1), home := home } } else s

/-- A packet delivered at die b: it is home there, or goes on to its die. -/
def State.packetAt (s : State) (b : BitVec 3) (p : Packet) : State := if p.dst = b then s.packetHome p else s.sendPacket b p

/-- A packet that somebody awaits is sent from die a: its number, none where it has no way to go. [log 43 DEDUCED, 55 DEDUCED] -/
def State.departs (s : State) (a : BitVec 3) (p : Packet) : Option Nat × State :=
  if a = p.dst then (none, s)
  else (some (s.nextId + 1), { s with nextId := s.nextId + 1 }.sendPacket a { p with num := s.nextId + 1 })

/-- Where an awaited packet is: at its die, on its way, or lost with a link that failed and left it no detour (R22). -/
inductive Leg where
  | home | away | lost
  deriving DecidableEq, Repr

/-- The leg that a packet number stands for. [log 55 DEDUCED] -/
def State.legOf (s : State) : Option Nat → Leg
  | none => .home
  | some n =>
    if s.board.home.contains n then .home
    else if s.links.any (fun e => e.2.replay.any (fun f => f.ends.any (fun p => p.num == n))) then .away
    else .lost

/-- An awaited packet that is home is taken. -/
def State.takePacket (s : State) (o : Option Nat) : State :=
  match o with
  | none => s
  | some n => { s with board := { s.board with home := s.board.home.filter (fun m => m != n) } }

/-- The home of a request, as a die of this package (R8, R11). -/
def Home.die : Home → Option (BitVec 3)
  | .bank c _ => some (dieOfCluster c)
  | .stack x => some (BitVec.ofNat 3 (x.toNat / 2))
  | .shard _ d => some d
  | .tile t => some (dieOf t)
  | .peer _ => none

/-! ### UALink ports (R31, R33, R34) -/

/-- The die whose gateway instance serves a port: die Dn has ports 2n and 2n + 1 (R31). -/
def dieOfPort (p : BitVec 4) : BitVec 3 := p.extractLsb' 1 3

def State.portLive (s : State) (p : BitVec 4) : Bool := (s.gateway.ports[(dieOfPort p).toNat]).getLsbD (p.toNat % 2)

/-- The live ports in increasing order. -/
def State.livePorts (s : State) : List (BitVec 4) := ((List.range 16).map (BitVec.ofNat 4)).filter s.portLive

/-- A package's number for accelerator `accel`, its own id being `own`, and the accelerator that a peer number names (R33). -/
def peerNumber (own accel : BitVec 10) : BitVec 10 := if own = 0x3FF ∨ accel.toNat < own.toNat then accel else accel - 1
def accelOf (own peer : BitVec 10) : BitVec 10 := if own = 0x3FF ∨ peer.toNat < own.toNat then peer else peer + 1

/-- The live port that a flow takes (R34); none without a live port. [log 5 DESIGN CHOICE] -/
def State.portOf (s : State) (peer tile : BitVec 10) (chan : BitVec 6) : Option (BitVec 4) :=
  let ps := s.livePorts
  ps[(Config.portHash (accelOf s.board.accelId peer) tile chan ps) % ps.length]?

end Sys2Proof.Machine
end

