-- ==== Sys2Proof/Machine/Mem.lean ====
section
/-! DEFINITION. Memory as one list of (key, byte) cells in canonical form: keys strictly rising, no byte 0 listed; a key that is
not listed reads 0 (log 3). The keys of the package's storages lie apart from one another (R9, R10, R93, R337). -/

namespace Sys2Proof.Machine

/-- The byte at a key. [log 3 DESIGN CHOICE] -/
def Memory_get : List Host.Cell → Nat → Byte
  | [], _ => 0
  | (k, b) :: m, a => if k = a then b else Memory_get m a

/-- Memory with byte b at key a, in canonical form again. [log 3 DESIGN CHOICE] -/
def Memory_put : List Host.Cell → Nat → Byte → List Host.Cell
  | [], a, b => if b = 0 then [] else [(a, b)]
  | (k, c) :: m, a, b =>
    if a < k then (if b = 0 then (k, c) :: m else (a, b) :: (k, c) :: m)
    else if a = k then (if b = 0 then m else (a, b) :: m)
    else (k, c) :: Memory_put m a b

/-- The canonical form (log 3). [log 3 DESIGN CHOICE] -/
def Memory_wf : List Host.Cell → Bool
  | [] => true
  | [(_, b)] => b != 0
  | (k, b) :: (j, c) :: m => b != 0 && k < j && Memory_wf ((j, c) :: m)

/-- Bytes written from a key on. -/
def Memory_putAll (m : List Host.Cell) (a : Nat) : List Byte → List Host.Cell
  | [] => m
  | b :: bs => Memory_putAll (Memory_put m a b) (a + 1) bs

/-- n bytes from a key on. -/
def Memory_bytes (m : List Host.Cell) (a : Nat) : Nat → List Byte
  | 0 => []
  | n + 1 => Memory_get m a :: Memory_bytes m (a + 1) n

def State.byte (s : State) (a : Nat) : Byte := Memory_get s.mem a
def State.bytes (s : State) (a n : Nat) : List Byte := Memory_bytes s.mem a n
def State.store (s : State) (a : Nat) (bs : List Byte) : State := { s with mem := Memory_putAll s.mem a bs }

/-- Bytes written under a mask: position i of `bs` is written where `on i`. -/
def State.storeMasked (s : State) (a : Nat) (bs : List Byte) (on : Nat → Bool) : State :=
  let f := fun (m : List Host.Cell) (i : Nat) => if on i then Memory_put m (a + i) (bs.getD i 0) else m
  { s with mem := (List.range bs.length).foldl f s.mem }

/-- Keys of HBM by location: stack, granule within the stack, byte of the granule (R337). [log 3 DESIGN CHOICE] -/
def hbmKey (stack : BitVec 4) (off byte : Nat) : Nat := stack.toNat * 2 ^ 36 + off * 4096 + byte
/-- Keys of physical addresses outside HBM (host-visible memory, R337). [log 3 DESIGN CHOICE] -/
def paKey (pa : Nat) : Nat := 2 ^ 50 + pa
/-- Units of peer memory that a job of this package has poisoned (R108). [log 7 DESIGN CHOICE] -/
def peerKey (p : BitVec 10) (pa : Nat) : Nat := 2 ^ 75 + p.toNat * 2 ^ 48 + pa
/-- Keys of tile SRAM, cluster SRAM, slabs, core-local stores and the host's memory. [log 3 DESIGN CHOICE] -/
def tileKey (t : BitVec 10) (o : Nat) : Nat := 2 ^ 52 + t.toNat * 2 ^ 20 + o
def clusterKey (c : BitVec 6) (o : Nat) : Nat := 2 ^ 53 + c.toNat * 2 ^ 23 + o
def slabKey (t : BitVec 10) (o : Nat) : Nat := 2 ^ 54 + t.toNat * 2 ^ 18 + o
def coreKey (t : BitVec 10) (c : Bool) (o : Nat) : Nat := 2 ^ 55 + (t.toNat * 2 + b2n c) * 2 ^ 16 + o
def hostKey (a : Nat) : Nat := 2 ^ 70 + a

/-- The end of the HBM range of physical addresses (R337). -/
def hbmEnd : Nat := 0xC000000000

/-- The live stacks in increasing order: live[i] (R337). -/
def liveOf (mask : BitVec 16) : List (BitVec 4) :=
  ((List.range 16).filter (fun i => mask.getLsbD i)).map (BitVec.ofNat 4)

/-- The place of granule g under a live list (R337). -/
def placeOf (live : List (BitVec 4)) (g : Nat) : Option (BitVec 4 × Nat) :=
  if live.length = 0 then none else some (live.getD (g % live.length) 0, g / live.length)

/-- The old map, and the new map that omits TARGET (R360). -/
def Hbm.oldPlace (h : Hbm) (g : Nat) : Option (BitVec 4 × Nat) := placeOf (liveOf h.liveMask) g
def Hbm.newPlace (h : Hbm) (g : Nat) : Option (BitVec 4 × Nat) :=
  placeOf ((liveOf h.liveMask).filter (fun x => x != h.target)) g

/-- How a requester maps granule g (R360). -/
inductive Mapped where
  | at_ (stack : BitVec 4) (off : Nat)
  | hold
  | withdrawn
  deriving DecidableEq, Repr

def Hbm.inWindow (h : Hbm) (g : Nat) : Bool :=
  h.state == 2 && h.wmark.toNat > 0 && g < h.wmark.toNat && h.wmark.toNat ≤ g + 512

/-- R360, for a physical address below the end of HBM. -/
def Hbm.map (h : Hbm) (pa : Nat) : Mapped :=
  let g := pa / 4096
  let place (p : Option (BitVec 4 × Nat)) : Mapped := match p with
    | some (x, o) => .at_ x o
    | none => .hold
  if pa ≥ h.liveCap.toNat then .withdrawn
  else if h.state = 2 then
    (if g ≥ h.wmark.toNat then place (h.newPlace g) else if h.inWindow g then .hold else place (h.oldPlace g))
  else place (h.oldPlace g)

/-- Where granule g lies now: its old place until it has been moved (R356, R361). -/
def Hbm.nowPlace (h : Hbm) (g : Nat) : Option (BitVec 4 × Nat) :=
  if h.state = 2 ∧ g ≥ h.wmark.toNat then h.newPlace g else h.oldPlace g

/-- The pseudo-channel of a granule offset (R338). -/
def pcOf (off : Nat) : BitVec 6 := BitVec.ofNat 6 (off % 64)
/-- The bank that holds byte b of a granule (R338). -/
def bankOf (b : Nat) : BitVec 4 := BitVec.ofNat 4 (b / 256)

def State.unit (s : State) (key : Nat) : Unit64 := find {} s.units (key / 64)
def State.modUnit (s : State) (key : Nat) (f : Unit64 → Unit64) : State :=
  { s with units := put s.units (key / 64) (f (s.unit key)) }

/-- HBM bytes as the base die returns them to a request of domain d: decrypted under its key, so bytes written under another
key read as free values (R85, log 5), and a unit never written reads as log 3 says. Poison is told apart by the caller. [log 3 DESIGN CHOICE, 5 DESIGN CHOICE] -/
def State.hbmRead (s : State) (d : BitVec 10) (key n : Nat) : List Byte :=
  (List.range n).map (fun i =>
    let u := s.unit (key + i)
    if !u.written || (u.domain == d && u.epoch == (s.domain d).epoch) then s.byte (key + i)
    else Config.undecryptable s.ticks (key + i))

/-- A unit whose read gives the poison indication: it is poisoned, or errors lie in more than one of its symbols, which ECC does not correct
(R106). [log 71 DEDUCED] -/
def Unit64.bad (u : Unit64) : Bool := u.poison || u.symbols ≥ 2

/-- The units of [key, key + n). -/
def State.unitsIn (s : State) (key n : Nat) : List Unit64 :=
  (List.range ((key + n + 63) / 64 - key / 64)).map (fun i => s.unit (key / 64 * 64 + 64 * i))

/-- Whether a read of [key, key + n) meets a unit that is poisoned or uncorrectable (R106). -/
def State.hbmPoison (s : State) (key n : Nat) : Bool := (s.unitsIn key n).any Unit64.bad

/-- C' = C − 48 GiB, in bytes (R359). -/
def Hbm.lowered (h : Hbm) : Nat := h.liveCap.toNat - 48 * 2 ^ 30

/-- Stack x can be retired: it is live, and another is (R359). -/
def Hbm.canRetire (h : Hbm) (x : BitVec 4) : Bool := h.liveMask.getLsbD x.toNat && (liveOf h.liveMask).length ≥ 2

/-- Step 1 of a retirement, with the report of C' to function 0; refused where no live stack would remain (R359). [log 53 DEDUCED] -/
def Hbm.startRetire (h : Hbm) (x : BitVec 4) : Hbm :=
  if h.canRetire x then
    { h with state := 1, target := x, confirmed := false, timedOut := false, sinceRequest := 0, reported := some h.lowered }
  else h

/-- A retirement is asked for: one runs at a time, and a later one waits for its end (R359). -/
def Hbm.retire (h : Hbm) (x : BitVec 4) : Hbm :=
  if h.state = 0 then h.startRetire x else { h with requests := h.requests ++ [x] }

/-- A read at stack x meets `one` units with an error in one symbol and `two` with more (R41, R106); firmware retires the stack as its
uncorrectable-error count passes the limit (R359). [log 53 DEDUCED] -/
def Hbm.countErrors (h : Hbm) (x : BitVec 4) (one two : Nat) : Hbm :=
  let n := find 0 h.uncorrected x.toNat
  let h' := { h with
    corrected := if one = 0 then h.corrected else put h.corrected x.toNat (find 0 h.corrected x.toNat + one)
    uncorrected := if two = 0 then h.uncorrected else put h.uncorrected x.toNat (n + two) }
  if n ≤ h.errorLimit ∧ h.errorLimit < n + two then h'.retire x else h'

/-- The base die reads the units of [key, key + n): it counts their errors (R106). -/
def State.eccCount (s : State) (key n : Nat) : State :=
  let us := (s.unitsIn key n).filter (fun u => !u.poison)
  let one := (us.filter (fun u => u.symbols == 1)).length
  let two := (us.filter (fun u => u.symbols ≥ 2)).length
  if one = 0 ∧ two = 0 then s else { s with hbm := s.hbm.countErrors (BitVec.ofNat 4 (key / 2 ^ 36)) one two }

/-- Bytes of HBM read for domain d through ECC (R85, R106): the bytes, whether one of their units is poisoned or uncorrectable, and the errors
counted. -/
def State.hbmLoad (s : State) (d : BitVec 10) (key n : Nat) : List Byte × Bool × State :=
  (s.hbmRead d key n, s.hbmPoison key n, s.eccCount key n)

/-- A full 64-byte unit is written: new data, no poison (R106). -/
def State.hbmWriteUnit (s : State) (key : Nat) (d : BitVec 10) (bs : List Byte) : State :=
  (s.store key bs).modUnit key (fun _ => { poison := false, written := true, domain := d, epoch := (s.domain d).epoch })

/-- A unit is poisoned: its poison check pattern is written (R106). -/
def State.hbmPoisonUnit (s : State) (key : Nat) : State := s.modUnit key (fun u => { u with poison := true, symbols := 0 })

/-- Engines read memory outside HBM through CXL.cache, which keeps its lines in shared state only; a write there lets no line stay
(R24). -/
def State.dropHostLines (s : State) (pa n : Nat) : State :=
  { s with board := { s.board with hostLines := s.board.hostLines.filter (fun l => 64 * l + 64 ≤ pa || pa + n ≤ 64 * l) } }
def State.takeHostLine (s : State) (pa : Nat) : State :=
  if s.board.hostLines.contains (pa / 64) then s
  else { s with board := { s.board with hostLines := pa / 64 :: s.board.hostLines } }

/-- Memory of this package outside HBM (host-visible, R337): a unit carries the CXL poison indication until it is written in
full (R108). [log 40 DEDUCED] -/
def State.paLoad (s : State) (pa n : Nat) : List Byte × Bool := (s.bytes (paKey pa) n, s.hbmPoison (paKey pa) n)
/-- A write there. [log 40 DEDUCED] -/
def State.paStore (s0 : State) (pa : Nat) (bs : List Byte) : State :=
  let s := (s0.store (paKey pa) bs).dropHostLines pa bs.length
  if bs.length = 64 ∧ pa % 64 = 0 ∧ (s.unit (paKey pa)).poison then s.modUnit (paKey pa) (fun _ => {}) else s

/-- A masked write of one unit (R107): a read-modify-write; where the read finds poison or is uncorrectable, the write is discarded and the
unit poisoned. True where it was performed. -/
def State.hbmMasked (s0 : State) (key : Nat) (d : BitVec 10) (bs : List Byte) (on : Nat → Bool) : State × Bool :=
  let (old, bad, s) := s0.hbmLoad d key 64
  if bad then (s.hbmPoisonUnit key, false)
  else
    (s.hbmWriteUnit key d ((List.range 64).map (fun i => if on i then bs.getD i 0 else old.getD i 0)), true)

end Sys2Proof.Machine
end

