-- ==== Sys2Proof/Machine/Ops.lean ====
section
/-! DEFINITION. Fault records and their queues (R130 to R134), taking a trap and returning from one (R125 to R129, R377), the
rerun log (R145 to R148), and what every instruction shares: waiting for replies, marks, scouting, retiring. -/

namespace Sys2Proof.Machine

/-- What `exec` answers. [log 60 DESIGN CHOICE] -/
abbrev Out := Host.Outcome State Fault Refusal

/-- What a precise fault says beside the state of its slot (R132); `hbm` holds the base dies as a read that ECC did not correct has left them: it
counts, though its instruction has no effect (R110, R359). -/
structure TrapInfo where
  cause : BitVec 7
  addrKind : BitVec 2 := 0
  addr : BitVec 56 := 0
  tindex : BitVec 20 := 0
  tgen : BitVec 12 := 0
  info : BitVec 32 := 0
  peer : BitVec 10 := 0x3FF
  hbm : Option Hbm := none
  deriving DecidableEq, Repr

/-- Why the body of an instruction does not finish: it raises a cause, or its slot waits (with what the wait has set going). -/
inductive Stop where
  | trap (t : TrapInfo)
  | wait (s : State)

abbrev Res (α : Type) := Except Stop α

def raise {α : Type} (c : BitVec 7) : Res α := .error (.trap { cause := c })
/-- A cause with a virtual address (ADDRKIND 0b01). [log 24 DEDUCED] -/
def raiseVa {α : Type} (c : BitVec 7) (a : Nat) : Res α :=
  .error (.trap { cause := c, addrKind := 1, addr := BitVec.ofNat 56 a })
/-- A read at virtual address va that ended in state s met a unit that is poisoned or uncorrectable (R108). [log 24 DEDUCED] -/
def raiseRead {α : Type} (s : State) (va : Nat) : Res α :=
  .error (.trap { cause := 0x33, addrKind := 1, addr := BitVec.ofNat 56 va, hbm := some s.hbm })
/-- A cause about title t. [log 24 DEDUCED] -/
def raiseT {α : Type} (c : BitVec 7) (t : Title) : Res α := .error (.trap { cause := c, tindex := t.index, tgen := t.gen })
/-- A cause with its INFO (R132). [log 24 DEDUCED] -/
def raiseInfo {α : Type} (c : BitVec 7) (i : BitVec 32) : Res α := .error (.trap { cause := c, info := i })
/-- A fault met under title t names it (R132); an address in tile or cluster SRAM is an offset. [log 24 DEDUCED] -/
def Res.under {α : Type} (t : Title) : Res α → Res α
  | .error (.trap x) => .error (.trap { x with
      tindex := t.index, tgen := t.gen,
      addrKind := if x.addrKind = 1 ∧ t.loc.toNat < 2 then 3 else x.addrKind })
  | r => r
/-- Detail of a fault about a channel (R132): the channel in [5:0], the other tile in [15:6]. [log 24 DEDUCED] -/
def chanInfo (c : BitVec 6) (t : BitVec 10) : BitVec 32 := (t ++ c).setWidth 32
def waitIn {α : Type} (s : State) : Res α := .error (.wait s)
/-- A check: the cause is raised unless the condition holds. -/
def need (b : Bool) (c : BitVec 7) : Res Unit := if b then .ok () else raise c
def needInfo (b : Bool) (c : BitVec 7) (i : BitVec 32) : Res Unit := if b then .ok () else raiseInfo c i
def needT (b : Bool) (c : BitVec 7) (t : Title) : Res Unit := if b then .ok () else raiseT c t
def waitUnless (b : Bool) (s : State) : Res Unit := if b then .ok () else waitIn s

/-- The terminal causes of R134. -/
def terminalCause (c : BitVec 7) : Bool := c == 0x57 || c == 0x72 || c == 0x73 || c == 0x74 || c == 0x75

def State.pushFunc (s : State) (r : FaultRec) : State :=
  s.modFunc (s.ctx r.ctx).func (fun f => { f with queue := f.queue ++ [r] })

/-- A record goes to its rings (R134). [log 25 DEDUCED] -/
def State.deliver (s : State) (r : FaultRec) : State :=
  if r.retry then { s with rings := { s.rings with
    retryQ := s.rings.retryQ ++ [{ r with seq := s.rings.retrySeq }], retrySeq := s.rings.retrySeq + 1 } }
  else if terminalCause r.cause then
    ({ s with rings := { s.rings with termQ := s.rings.termQ ++ [r] } }).pushFunc { r with typ := 3 }
  else s.pushFunc r

/-- A deferred fault of context c (R130), with what is known of its source. [log 24 DEDUCED] -/
def State.deferred (s : State) (c : BitVec 8) (cause : BitVec 7) (r : FaultRec := {}) : State :=
  s.deliver { r with typ := 2, cause := cause, ctx := c, time := s.time, retry := false }

/-- The record of a precise fault of slot i (R132). [log 24 DEDUCED] -/
def State.recordOf (s : State) (i : SlotId) (t : TrapInfo) : FaultRec :=
  let v := s.slot i
  { typ := 0, cause := t.cause, ctx := v.ctx, tile := i.tile, core := i.core, slot := i.slot, entry := v.entry,
    inl := v.links.length > 0, addrKind := t.addrKind, pc := v.pc.setWidth 56, addr := t.addr, tindex := t.tindex,
    tgen := t.tgen, insn := v.insn, time := s.time, peer := t.peer, info := t.info }

/-- The frame's place in the fault save area of its context (R125). -/
def State.frameAddr (s : State) (i : SlotId) : Nat := (s.ctxOf i).faultArea.toNat + SlotId_num i * 1024

/-- Whether the frame's units are poisoned or uncorrectable (R143, cause 0x73). [log 37 DESIGN CHOICE] -/
def State.frameBad (s : State) (i : SlotId) : Bool :=
  (List.range 16).any (fun n =>
    let pa := s.frameAddr i + 64 * n
    match s.hbm.nowPlace (pa / 4096) with
    | some (x, o) => (s.unit (hbmKey x o (pa % 4096))).bad
    | none => false)

/-- The firing begins to end as by `ABANDON` (R127); the slot's next turn finishes it when its started jobs allow. -/
def Slot.startEnding (v : Slot) (e : Ending) : Slot :=
  { v with ending := some e, wait := none, scout := none, trap := none }

/-- Words kept beside the frame: the address passed in a2 is 0 when the record has none (R125). -/
def FaultRec.a2 (r : FaultRec) : Word := if r.addrKind = 0 then 0 else r.addr.setWidth 64

/-- Taking the trap of record r in slot i (R125, R126): the frame is written, the handler starts. -/
def State.enterTrap (s : State) (i : SlotId) (r : FaultRec) : State :=
  let v := s.slot i
  let e := s.entryOf i
  let frame : Frame := { record := some r, x := v.x, pc := v.pc, marks := v.marks, links := v.links, chain := v.chain, vw := v.vw }
  let zero : Vector Word 32 := Vector.replicate 32 0
  let x := ((((zero.set 2 (BitVec.ofNat 64 (i.slot.toNat * 0x2000 + 0x400))).set 3
      ((s.ctxOf i).globals.setWidth 64)).set 10 (r.cause.setWidth 64)).set 11 v.pc).set 12 r.a2
  let x := x.set 13 (r.info.setWidth 64)
  (s.setSlot i { v with
    x := x, marks := 0, pc := e.trapPc.setWidth 64, handler := true, frame := frame, trap := none, wait := none,
    scout := none, granted := false, due := Vector.replicate 32 none,
    wdog := if r.cause = 0x56 then 0 else v.wdog, wdogTaken := v.wdogTaken || r.cause == 0x56,
    skipCheck := v.skipCheck || r.cause == 0x70 }).deliver r

/-- The request whose reply is due to register r of slot i has been given up (R119). -/
def State.lostDue (s : State) (i : SlotId) (r : XReg) : Bool :=
  let v := s.slot i
  v.dueOf r && s.reqs.any (fun q => v.due[r.toNat] == some q.id && q.state == .refused)

/-- A register whose request has been given up awaits nothing when a fault is taken: it is indeterminate, and raises no 0x59 any more (R377). [log 49 DEDUCED] -/
def State.dropLost (s : State) (i : SlotId) : State :=
  let lost := ((List.range 32).map (BitVec.ofNat 5)).filter (s.lostDue i)
  s.modSlot i (fun v => lost.foldl (fun (v : Slot) r => { v with due := v.due.set r.toNat none, marks := withMark v.marks r .indet }) v)

/-- A precise fault with record r is taken by slot i, at once or after the replies due to its registers (R123, R128, R377). [log 30 DEDUCED] -/
def State.takeFault (s0 : State) (i : SlotId) (r : FaultRec) : State :=
  let s := s0.dropLost i
  let v := s.slot i
  if v.handler then
    (s.setSlot i (v.startEnding .abandon)).deliver { r with cause := 0x74, typ := 0, retry := false }
  else if v.anyDue then s.setSlot i { v with trap := some r, wait := none, scout := none, granted := false }
  else if s.frameBad i then
    (s.setSlot i (v.startEnding .abandon)).deliver { r with cause := 0x73, typ := 0, retry := false }
  else s.enterTrap i r

def Req.isCopy (r : Req) : Bool := match r.kind with
  | .titleCopy .. => true
  | _ => false
/-- The jobs of Tramontane; the others are a base die's. -/
def Job.isMove (j : Job) : Bool :=
  match j.kind with
  | .copy | .get | .put | .xfer | .fill | .twoD | .slab => true
  | _ => false

/-- The addresses [lo, hi) that a request under way was translated for when it was issued (R102, R113). -/
def Req.vaRange (r : Req) : Option (Nat × Nat) := match r.kind, r.home with
  | .amo .., .stack _ | .amo .., .peer _ => some (r.va, r.va + 8)
  | .remoteWrite _ _ bs _, _ => some (r.va, r.va + bs.length)
  | .titleCopy _ _ bs _, _ => some (r.va, r.va + bs.length)
  | _, _ => none

def Req.isSpawn (r : Req) : Bool := match r.kind with
  | .spawn .. => true
  | _ => false

/-- Whether a byte copy to a peer is that of a running `MV.XFER` (R241), not of a `TSENDR`. -/
def State.ofJob (s : State) (r : Req) : Bool := s.jobs.any (fun j => j.tile == r.src.tile && j.waits.contains r.id)

/-- A vector instruction that has not begun is no longer presented (R252, R262). -/
def Vxu.leave (u : Vxu) (who : Bool × BitVec 2) : Vxu :=
  { u with presented := u.presented.filter (fun p => p != who), granted := if u.granted = some who then none else u.granted }

def Req.isAmo (r : Req) : Bool := match r.kind with
  | .amo .. => true
  | _ => false

/-- Stores to a peer's memory, which the peer acknowledges (R117). -/
def Req.isRemote (r : Req) : Bool := match r.kind with
  | .remoteWrite .. => true
  | _ => false

def Req.isInsert (r : Req) : Bool := match r.kind with
  | .insert .. => true
  | _ => false

/-- A byte copy whose message its peer has placed: the peer has answered 0x3 or 0x5 (R226). -/
def Req.placed (r : Req) : Bool := r.isCopy && (match r.state with
  | .replied v _ => v != 4
  | _ => false)

/-- An `AMO.WAITGE`. -/
def Req.isWait (r : Req) : Bool := match r.kind with
  | .amo op .. => op == 0xC
  | _ => false

/-- The byte copy that a `TSENDR` of slot i has under way to a peer. -/
def State.copyOf (s : State) (i : SlotId) : Option Req := s.reqs.find? (fun r => r.src == i && r.isCopy && !s.ofJob r)
/-- That copy, once its peer has placed it. -/
def State.placedOf (s : State) (i : SlotId) : Option Req := (s.copyOf i).filter Req.placed

/-- A request that slot i gives up with the instruction it stands at: a `TSENDR` that is not placed, an `RSPAWN`, and an `AMO.WAITGE` that
its home has not parked and that would be sent again (R194, R218, R248, R249). [log 62 DEDUCED] -/
def State.givesUp (s : State) (i : SlotId) (r : Req) : Bool :=
  r.src == i && (r.isSpawn || (r.isCopy && !r.placed && !s.ofJob r) || (r.isWait && r.state == .notParked))

/-- Slot i leaves every line it waits in: a semaphore, an outbox buffer, the claim, the vector unit (R209, R252, R289); what it has
under way at its instruction is given up, with the outbox buffer held for it. [log 62 DEDUCED] -/
def State.leaveQueues (s : State) (i : SlotId) : State :=
  let gone := s.reqs.filter (s.givesUp i)
  { s with reqs := s.reqs.filter (fun r => !s.givesUp i r) }.modTile i.tile (fun t => { t with
    outbox := t.outbox.filter (fun b => !gone.any (fun r => r.buf == some b.1))
    semWaiters := t.semWaiters.filter (fun w => !(w.2.1 == i.core && w.2.2 == i.slot))
    outWaiters := t.outWaiters.filter (fun w => !(w.1 == i.core && w.2 == i.slot))
    vxu := t.vxu.leave (i.core, i.slot)
    mxu := if i.core then { t.mxu with waiters := t.mxu.waiters.filter (fun w => w != i.slot) } else t.mxu })

/-- A 0x30 without an address is the status of a refused job, which its firing has met now (R141, R210). -/
def State.jobTold (s : State) (i : SlotId) (t : TrapInfo) : State :=
  if t.cause = 0x30 ∧ t.addrKind = 0 then s.modJob i.tile (t.info.setWidth 16) (fun j => { j with untold := none }) else s

/-- The base dies after what a fault read. -/
def State.readDone (s : State) (t : TrapInfo) : State := { s with hbm := t.hbm.getD s.hbm }

/-- A precise fault of slot i (R123): it leaves the lines it waited in, and the fault is taken. -/
def State.fault (s : State) (i : SlotId) (t : TrapInfo) : State :=
  (((s.readDone t).leaveQueues i).jobTold i t).takeFault i (s.recordOf i t)

/-- Handler mode ends by `RESUME` or `SKIPF` (R127): the frame's registers, marks, links, chain and PC return. The instruction
itself retires (R173). -/
def Slot.fromFrame (v : Slot) (pc : Word) : Slot :=
  { v with x := v.frame.x, marks := v.frame.marks, links := v.frame.links, chain := v.frame.chain, pc := pc,
           instret := v.instret + 1, handler := false, due := Vector.replicate 32 none }

/-- The instruction retires and the next one follows (R173). -/
def Slot.retire (v : Slot) : Slot := { v with pc := v.pc + 4, instret := v.instret + 1, granted := false }
def Slot.retireTo (v : Slot) (pc : Word) : Slot := { v with pc := pc, instret := v.instret + 1, granted := false }
def State.retire (s : State) : State := s.setMe s.me.retire
/-- The instruction retires with result w in rd. -/
def State.retireX (s : State) (rd : XReg) (w : Word) : State := s.setMe (s.me.setX rd w).retire

/-- The cause of the first marked register among those an instruction reads (R109). -/
def Slot.markCause (v : Slot) : List XReg → Option (BitVec 7)
  | [] => none
  | r :: rs => if r ≠ 0 ∧ v.poisonMark r then some 0x33 else if r ≠ 0 ∧ v.indetMark r then some 0x36 else v.markCause rs

/-- Where the body of an instruction leads: its new state, a wait, or a fault (R123, R124). [log 60 DESIGN CHOICE] -/
def State.settle (s : State) (reads : List XReg) (r : Res State) : State :=
  match r with
  | .error (.trap t) => s.fault s.cur t
  | .error (.wait s') => s'
  | .ok s' => match s.me.markCause reads with
    | some c => s.fault s.cur { cause := c }
    | none => s'

/-- The slot whose registers a scouted instruction sees: the scratch registers and PC. -/
def Slot.scoutView (v : Slot) (sc : Scout) : Slot := { v with x := sc.x, pc := sc.pc }

/-- A scouted instruction is past (R140): the count rises, and at 256 instructions or 16 pages the scout is over. -/
def Scout.next (sc : Scout) (pc : Word) : Scout :=
  { sc with pc := pc, count := sc.count + 1, failed := [],
            ended := sc.ended || sc.count + 1 ≥ 256 || sc.pages.length ≥ 16 }

def Scout.setX (sc : Scout) (r : XReg) (w : Word) : Scout :=
  if r = 0 then sc
  else { sc with x := sc.x.set r.toNat w, unknown := sc.unknown &&& ~~~(1#32 <<< r.toNat) }
def Scout.forget (sc : Scout) (r : XReg) : Scout :=
  if r = 0 then sc else { sc with unknown := sc.unknown ||| (1#32 <<< r.toNat) }
def Scout.knows (sc : Scout) (rs : List XReg) : Bool := rs.all (fun r => r == 0 || !sc.unknown.getLsbD r.toNat)
def State.setScout (s : State) (v : Slot) (sc : Scout) : State := s.setMe { v with scout := some sc }

/-- The slot waits for a reply due to a register that its instruction reads (R247). Where the request has been given up, the wait
ends in 0x59 and the register is indeterminate (R119, R109). [log 49 DEDUCED] -/
def State.awaitDue (s : State) (reads : List XReg) : State :=
  let v := s.me
  match reads.find? (s.lostDue s.cur) with
  | some r =>
    (s.setMe { v with due := v.due.set r.toNat none, marks := withMark v.marks r .indet }).fault s.cur { cause := 0x59 }
  | none => s

/-- An RV64IM integer instruction: rd ← f of the slot's registers and PC (R139, R192). -/
def intInsn (reads : List XReg) (rd : XReg) (f : Slot → Word) (s : State) : State :=
  let v := s.me
  match v.scout with
  | some sc =>
    s.setScout v ((if sc.knows reads then sc.setX rd (f (v.scoutView sc)) else sc.forget rd).next (sc.pc + 4))
  | none =>
    if reads.any v.dueOf then s.awaitDue reads
    else s.settle reads (.ok (s.retireX rd (f v)))

/-- A jump or branch: rd ← the address after it, and control goes to the target where there is one (R174). -/
def jumpInsn (reads : List XReg) (rd : XReg) (f : Slot → Option Word) (s : State) : State :=
  let v := s.me
  match v.scout with
  | some sc =>
    if sc.knows reads then
      match f (v.scoutView sc) with
      | some t => if t.getLsbD 1 then s.setScout v (sc.next (sc.pc + 4))
        else s.setScout v ((sc.setX rd (sc.pc + 4)).next t)
      | none => s.setScout v (sc.next (sc.pc + 4))
    else s.setScout v { sc with ended := true }
  | none =>
    if reads.any v.dueOf then s.awaitDue reads
    else s.settle reads (match f v with
      | some t => if t.getLsbD 1 then raise 0x00 else .ok (s.setMe ((v.setX rd (v.pc + 4)).retireTo t))
      | none => .ok (s.setMe v.retire))

/-- What a scout does with an instruction of a class (R139, R140). -/
inductive ScoutClass where
  | none
  | ends
  deriving DecidableEq, Repr

/-- Any other instruction: it waits for the replies its registers are due, then acts (R139, R247). [log 18 DEDUCED] -/
def insn (c : ScoutClass) (reads : List XReg) (body : State → Res State) (s : State) : State :=
  let v := s.me
  match v.scout with
  | some sc => match c with
    | .none => s.setScout v (sc.next (sc.pc + 4))
    | .ends => s.setScout v { sc with ended := true }
  | none =>
    if reads.any v.dueOf then s.awaitDue reads else s.settle reads (body s)

/-- An instruction that is a waiting one only while it waits (R194, R218): it ends a scout where it would wait (R140). -/
def waitingInsn (reads : List XReg) (body : State → Res State) (s : State) : State :=
  let c : ScoutClass := match s.me.scout with
    | some sc => if !sc.knows reads then .none else match body (s.setMe (s.me.scoutView sc)) with
        | .error (.wait _) => .ends
        | _ => .none
    | none => .none
  insn c reads body s

/-- A load (R139): `get` gives the value from the registers the slot sees; a scout goes on with rd unknown where it fails. [log 18 DEDUCED] -/
def loadInsn (reads : List XReg) (rd : XReg) (get : Slot → State → Res (Word × State)) (s : State) : State :=
  let v := s.me
  match v.scout with
  | some sc =>
    if !sc.failed.isEmpty || !sc.knows reads then s.setScout v ((sc.forget rd).next (sc.pc + 4))
    else match get (v.scoutView sc) s with
      | .ok (w, _) => s.setScout v ((sc.setX rd w).next (sc.pc + 4))
      | .error (.wait s') => s'
      | .error (.trap _) => s.setScout v ((sc.forget rd).next (sc.pc + 4))
  | none =>
    if reads.any v.dueOf then s.awaitDue reads
    else s.settle reads (match get v s with
      | .ok (w, s') => .ok (s'.retireX rd w)
      | .error e => .error e)

/-- A store or a vector access (R139): a scout only translates its addresses, with `probe`, where it knows the registers `addr` that they
are formed from. [log 18 DEDUCED] -/
def storeInsn (reads addr : List XReg) (probe : Slot → State → Res Unit) (body : State → Res State) (s : State) : State :=
  let v := s.me
  match v.scout with
  | some sc =>
    if !sc.knows addr then s.setScout v (sc.next (sc.pc + 4))
    else match probe (v.scoutView sc) s with
      | .error (.wait s') => s'
      | _ => s.setScout v (sc.next (sc.pc + 4))
  | none =>
    if reads.any v.dueOf then s.awaitDue reads else s.settle reads (body s)

/-- The scout of slot i ends (R140): the slot sits at the faulting instruction, and its record enters the retry ring. -/
def State.endScout (s : State) (i : SlotId) : State :=
  let v := s.slot i
  match v.scout with
  | some sc =>
    (s.setSlot i { v with scout := none, wait := some (.retry s.rings.retrySeq) }).deliver
      { sc.fault with retry := true, scout := sc.pages }
  | none => s

/-- A demand access of slot i whose walk ended in 0x30 starts a scout (R138): the destination is unknown, and so is every
register that still awaits a reply. In handler mode it is the fault of R128. [log 18 DEDUCED, 30 DEDUCED] -/
def State.startScout (s : State) (i : SlotId) (t : TrapInfo) (rd : Option XReg) : State :=
  let v := s.slot i
  let s := s.modCtx v.ctx (fun c => { c with tfCount := c.tfCount + 1 })
  if v.handler then s.fault i t
  else
    let u0 : BitVec 32 := match rd with
      | some r => if r = 0 then 0 else 1#32 <<< r.toNat
      | none => 0
    let u := (List.range 32).foldl (fun m n => if (v.due[n]?).join.isSome then m ||| (1#32 <<< n) else m) u0
    s.setSlot i { v with scout := some { x := v.x, pc := v.pc + 4, unknown := u, pages := [], count := 0,
                                         fault := s.recordOf i t } }

/-- The staging area of a tile is full: 16 KiB of 16-byte entries (R147). -/
def Tile.stagingFull (t : Tile) : Bool := t.staging.length ≥ 1024

def State.isRecording (s : State) (c : BitVec 8) : Bool := (s.ctx c).rerun == 1 && !(s.ctx c).logStopped
def State.isReplaying (s : State) (c : BitVec 8) : Bool := (s.ctx c).rerun == 2 && !(s.ctx c).logStopped

/-- A slot needs an entry past the end of the log: 0x71, and the context continues unforced (R148). [log 20 DEDUCED] -/
def State.logEnd (s : State) (c : BitVec 8) (r : FaultRec) : State :=
  (s.modCtx c (fun v => { v with logStopped := true })).deferred c 0x71 r

/-- An operation of slot i that logs finds room in the staging area, where its context records (R147). -/
def State.stagingRoom (s : State) (i : SlotId) : Bool := !s.isRecording (s.slot i).ctx || !(s.tile i.tile).stagingFull

/-- One entry is appended to the log of a recording context (R145, R146). -/
def State.log (s : State) (i : SlotId) (kind : Byte) (value : Word) (due : Option Nat := none) : State :=
  let v := s.slot i
  if s.isRecording v.ctx then
    s.modTile i.tile (fun t => { t with staging := t.staging ++ [(v.ctx,
      { kind := kind, tile := i.tile, core := i.core, slot := i.slot, serial := v.serial, value := value, due := due })] })
  else s

/-- The next entry that slot i replays (R146: the entries of one slot stand in its program order). -/
def State.replayNext (s : State) (i : SlotId) : Option LogEntry :=
  (s.ctxOf i).replay.find? (fun e => e.tile == i.tile && e.core == i.core && e.slot == i.slot)
def State.replayPop (s : State) (i : SlotId) : State :=
  s.modCtx (s.slot i).ctx (fun c => { c with
    replay := removeFirst (fun e => e.tile == i.tile && e.core == i.core && e.slot == i.slot) c.replay })

/-- A result under rerun (R145, R148): recorded, or forced from the log and, where `checked`, compared with it. A mismatch
raises 0x70; the instruction that `RESUME` repeats takes the logged value (log 20). Where the next entry is of another KIND the rule
names nothing: that is a mismatch too, at a forced value as at a checked one. [log 20 DEDUCED, 70 DESIGN CHOICE] -/
def State.rerun (s : State) (i : SlotId) (kind : Byte) (checked : Bool) (w : Word) : Res (Word × State) :=
  let v := s.slot i
  if s.isRecording v.ctx then
    if (s.tile i.tile).stagingFull then waitIn s else .ok (w, s.log i kind w)
  else if s.isReplaying v.ctx then
    match s.replayNext i with
    | none => .ok (w, s.logEnd v.ctx { tile := i.tile, core := i.core, slot := i.slot, entry := v.entry })
    | some e =>
      if !v.skipCheck && (e.kind != kind || (checked && e.value != w)) then
        raiseInfo 0x70 (if e.value.toNat < 2 ^ 32 then e.value.setWidth 32 else 0)
      else .ok (e.value, (s.modSlot i (fun u => { u with skipCheck := false })).replayPop i)
  else .ok (w, s)

end Sys2Proof.Machine
end

