-- ==== Sys2Proof/Machine/Cache.lean ====
section
/-! DEFINITION. Translation (R95 to R101), the world check (R87, R88), requests to the base dies (R110, R111, R360), and the
cluster line cache (R104, R105, R107). -/

namespace Sys2Proof.Machine

def TlbEntry.hit (e : TlbEntry) (c : BitVec 8) (va : Nat) : Bool := e.ctx == c && e.va ≤ va && va < e.va + e.size
def Cluster.tlbFind (cl : Cluster) (c : BitVec 8) (va : Nat) : Option TlbEntry := cl.tlb.find? (fun e => e.hit c va)

/-- The world of the physical region an address lies in (R87). -/
def State.regionWorld (s : State) (pa : Nat) : Bool :=
  match s.board.regions.find? (fun r => r.1 ≤ pa && pa < r.2.1) with
  | some r => r.2.2
  | none => false

/-- Whether an engine or port admits a request of this world (R87). [log 33 DEDUCED] -/
def State.unitAdmits (s : State) (u : WorldUnit) (world : Bool) : Bool := !world || s.board.unitsSecure.contains u

/-- The tile at which a walk's access was issued. -/
def Walker.tile? : Walker → Option (BitVec 10)
  | .slot i _ => some i.tile
  | .job t _ => some t
  | .scout i _ => some i.tile
  | .prefetch => none

/-- Whether the port that an access to peer p goes through admits its world (R34, R87). -/
def State.portAdmits (s : State) (w : Walker) (p : BitVec 10) (world : Bool) : Bool :=
  match s.portOf p (w.tile?.getD 0) 0 with
  | some q => s.unitAdmits (.port q) world
  | none => true

/-- The die of the stack that holds a physical address now, where it lies in HBM (R11, R337). -/
def State.dieOfPa (s : State) (pa : Nat) : Option (BitVec 3) :=
  if pa < hbmEnd then (s.hbm.nowPlace (pa / 4096)).map (fun p => BitVec.ofNat 3 (p.1.toNat / 2)) else some 0

/-- The first entry of the aligned run over which a leaf of so many bytes is replicated at its level (R97). -/
def firstReplica (bytes pa : Nat) : Nat :=
  let n := if bytes ≤ 2 ^ 19 then bytes / 2 ^ 12 else if bytes ≤ 2 ^ 29 then bytes / 2 ^ 21 else bytes / 2 ^ 30
  pa / (8 * n) * (8 * n)

/-- A page walk is asked for (R100): at most 32 run at once, and a walk already running for the same asker is not repeated. [log 38 DEDUCED] -/
def State.askWalk (s : State) (cl : BitVec 6) (w : Walk) : State :=
  let c := s.cluster cl
  if c.walks.contains w || c.walks.length ≥ 32 then s else s.setCluster cl { c with walks := c.walks ++ [w] }

/-- What an access is made for: the context, the world and domain of its title (or context), the title's LOC and PLACE where
it is made under one, and its tag in the line cache; `granule` for a granule operand (R346). -/
structure Purpose where
  ctx : BitVec 8
  world : Bool
  domain : BitVec 10
  title : Option Title
  by_ : Walker
  granule : Bool := false
  deriving DecidableEq, Repr

/-- A translated address: HBM or other memory of this package, or a peer's. -/
inductive Phys where
  | here (pa : Nat) (e : TlbEntry)
  | peer (p : BitVec 10) (pa : Nat) (e : TlbEntry)

/-- An address through an entry of the TLB. -/
def TlbEntry.phys (e : TlbEntry) (va : Nat) : Phys :=
  let pa := e.pa + (va - e.va)
  if e.peer = 0x3FF then .here pa e else .peer e.peer pa e

/-- The checks on a leaf (R99, R366, R88), in the order of R124: permission, capacity, world. A granule operand must lie below LIVECAP, an
access of another kind may lie outside HBM (R337, R346). -/
def State.checkLeaf (s : State) (p : Purpose) (va : Nat) (kind : AccKind) (e : TlbEntry) : Res Phys := do
  let pa := e.pa + (va - e.va)
  let perm := match kind with
    | .read => e.rp
    | .write => e.wp
    | .fetch => e.xp
  if !perm then raiseVa 0x31 va
  match p.title with
  | some t =>
    if t.loc = 2 ∧ e.peer ≠ 0x3FF then raiseVa 0x31 va
    if t.loc = 3 ∧ e.peer ≠ t.place ∧ e.peer ≠ 0x3FF then raiseVa 0x31 va
  | none => pure ()
  if e.peer = 0x3FF then
    if pa ≥ s.hbm.liveCap.toNat ∧ (pa < hbmEnd ∨ p.granule) then raiseVa 0x3B va
    if s.regionWorld pa != p.world || (pa ≥ hbmEnd && !s.unitAdmits .host p.world) then raiseVa 0x1A va
    .ok (.here pa e)
  else
    if !s.portAdmits p.by_ e.peer p.world then raiseVa 0x1A va
    .ok (.peer e.peer pa e)

/-- An access through an entry of the TLB: its checks, and a way to the die of its stack (R22). -/
def State.throughLeaf (s : State) (cl : BitVec 6) (p : Purpose) (va : Nat) (kind : AccKind) (e : TlbEntry) : Res Phys := do
  let ph ← s.checkLeaf p va kind e
  match ph with
  | .here pa _ => match s.dieOfPa pa with
    | some d => if s.reach (dieOfCluster cl) d then .ok ph else raiseVa 0x59 va
    | none => .ok ph
  | .peer .. => .ok ph

/-- Translation of one address in cluster cl (R95 to R101). A miss asks for a walk and waits; while the root is disabled every
access ends in 0x30 (R96), which the walk finds as well. -/
def State.translate (s : State) (cl : BitVec 6) (p : Purpose) (va : Nat) (kind : AccKind) : Res Phys :=
  match (s.cluster cl).tlbFind p.ctx va with
  | some e => s.throughLeaf cl p va kind e
  | none => waitIn (s.askWalk cl { ctx := p.ctx, va := va, kind := kind, by_ := p.by_, title := p.title.map (fun x => (x.index, x.gen)) })

/-- The number of the bank a byte of a granule lies in, in the package (R338). -/
def bankNo (stack : BitVec 4) (off b : Nat) : Nat := stack.toNat * 1024 + off % 64 * 16 + b % 4096 / 256

def tokenKey (stack : BitVec 4) (d : BitVec 10) : Nat := stack.toNat * 1024 + d.toNat
def State.tokensOf (s : State) (stack : BitVec 4) (d : BitVec 10) : Nat :=
  find (s.domain d).actBurst.toNat s.hbm.tokens (tokenKey stack d)

/-- A bank is activated n times for domain d (R110); a domain that brings it to the threshold is the one charged. [log 54 DEDUCED] -/
def Hbm.activate (h : Hbm) (b : Nat) (d : BitVec 10) (n : Nat) : Hbm :=
  let c := find 0 h.actCounts b + n
  let reached := h.rfmThreshold ≠ 0 ∧ c ≥ h.rfmThreshold ∧ n ≠ 0 ∧ !h.rfmBy.any (fun e => e.1 == b)
  { h with actCounts := put h.actCounts b c, rfmBy := if reached then put h.rfmBy b d else h.rfmBy }

/-- The opened granule with physical granule number g (an address keeps its granule through a migration). -/
def State.granOf (s : State) (g : Nat) : Option Gran := s.grans.find? (fun x => x.g == g)

/-- The number of a pseudo-channel in the package. -/
def pcNo (stack : BitVec 4) (pc : BitVec 6) : Nat := stack.toNat * 64 + pc.toNat

/-- The pseudo-channel an opened granule lies in now. -/
def Gran.pc (g : Gran) : Nat := pcNo g.stack (pcOf g.off)

/-- A pseudo-channel in all-bank mode: an opened granule lies in it (R340, R350, R371). -/
def State.allBank (s : State) (pc : Nat) : Bool := s.grans.any (fun g => g.pc == pc)

/-- A microprogram runs in a pseudo-channel (R341). -/
def State.microOn (s : State) (pc : Nat) : Bool :=
  s.allBank pc && s.jobs.any (fun j => j.kind == .run && j.status == 1 && (j.gran.bind s.granOf).any (fun g => g.pc == pc))

/-- Who sends a request to a base die: the die it is on, and whether the request is part of a near-bank job (R341). -/
structure Asker where
  die : BitVec 3
  near : Bool := false

/-- An ordinary request of a die for an address comes to a pseudo-channel (R341): while a microprogram runs there it is queued, and passes
once an arbitration window has served it; in ordinary mode, and with no job running, it is served at once. -/
def State.ordinary (s : State) (pc : Nat) (a : Asker) (pa : Nat) : Res State :=
  let h := s.hbm
  if a.near ∨ (!s.microOn pc ∧ h.waiting.isEmpty ∧ h.granted.isEmpty) then .ok s
  else if s.microOn pc && !h.granted.contains (a.die, pa) then
    waitIn (if h.waiting.contains (pc, a.die, pa) then s else { s with hbm := { h with waiting := h.waiting ++ [(pc, a.die, pa)] } })
  else .ok { s with hbm := { h with waiting := h.waiting.filter (fun w => w != (pc, a.die, pa)), granted := h.granted.erase (a.die, pa) } }

/-- A request crosses the fabric from die a to die b and its reply comes back, in their classes (R18, R120). They act at once: the flits
follow. [log 55 DEDUCED] -/
def State.exchange (s : State) (a b : BitVec 3) (pa : Nat) : State :=
  if a = b then s else (s.sendPacket a { dst := b, bytes := leBytes 8 pa }).sendPacket b { dst := a, cls := 1 }

/-- A request of domain d for physical address pa of HBM reaches its stack (R22, R110, R111, R341, R360): from a die that does not reach
the stack's it raises 0x59; it waits while the address is in the migration window, while its bank is refreshed, while the domain's
bucket on the stack is empty, and while a microprogram keeps it. The result is the key of the location, with the request's activations
counted. [log 4 DESIGN CHOICE] -/
def State.request (s : State) (a : Asker) (d : BitVec 10) (pa : Nat) : Res (Nat × State) :=
  match s.hbm.map pa with
  | .at_ x o =>
    let b := bankNo x o (pa % 4096)
    let home : BitVec 3 := BitVec.ofNat 3 (x.toNat / 2)
    if !s.reach a.die home then raise 0x59
    else if s.hbm.rfm.contains (x, pcOf o, bankOf (pa % 4096)) then waitIn s
    else if (s.domain d).actRate ≠ 0 ∧ s.tokensOf x d = 0 then waitIn s
    else do
      let s ← s.ordinary (pcNo x (pcOf o)) a pa
      let n := Config.activations s.ticks
      let h := s.hbm.activate b d n
      let h := if (s.domain d).actRate = 0 then h
        else { h with tokens := put h.tokens (tokenKey x d) (s.tokensOf x d - n) }
      .ok (hbmKey x o (pa % 4096), ({ s with hbm := h }).exchange a.die home pa)
  | .hold => waitIn s
  | .withdrawn => raise 0x3B

/-- The first demand access that hits an A-pending entry sets A in its leaf (R101), by a request of the cluster's walker (R360). -/
def State.setAccessed (s : State) (cl : BitVec 6) (e : TlbEntry) (demand : Bool) : Res State :=
  if e.aPending && demand then do
    let (k, s) ← s.request { die := dieOfCluster cl } (s.ctx e.ctx).domain e.leaf
    let s := s.store k [s.byte k ||| 0x40]
    .ok (s.modCluster cl (fun c => { c with tlb := updateFirst (fun f => f == e) (fun f => { f with aPending := false }) c.tlb }))
  else .ok s

def Line.isFor (l : Line) (pa : Nat) (t : Title) : Bool :=
  l.pa == pa / 256 && l.ctx == t.ctx && l.index == t.index && l.gen == t.gen
def Line.sectorMask (l : Line) (j : Nat) : BitVec 64 := l.mask.extractLsb' (64 * j) 64
def Line.byteAt (l : Line) (i : Nat) : Byte := l.data.extractLsb' (8 * i) 8
def Line.setByte (l : Line) (i : Nat) (b : Byte) : Line :=
  { l with data := (l.data &&& ~~~(0xFF#2048 <<< (8 * i))) ||| (b.setWidth 2048 <<< (8 * i)) }
def Line.setBytes (l : Line) (o : Nat) : List Byte → Line
  | [] => l
  | b :: bs => (l.setByte o b).setBytes (o + 1) bs
def Line.setValid (l : Line) (j : Nat) (v p : Bool) : Line :=
  { l with valid := if v then l.valid ||| (1#4 <<< j) else l.valid &&& ~~~(1#4 <<< j)
           poison := if p then l.poison ||| (1#4 <<< j) else l.poison &&& ~~~(1#4 <<< j) }
def Line.clearMask (l : Line) (j : Nat) : Line := { l with mask := l.mask &&& ~~~(0xFFFFFFFFFFFFFFFF#256 <<< (64 * j)) }
def Line.dirty (l : Line) : Bool := l.mask != 0

/-- Sectors of a line that bytes [o, o + n) touch. -/
def sectorsOf (o n : Nat) : List Nat := (List.range 4).filter (fun j => 64 * j < o + n && o < 64 * j + 64)

/-- Lines with the same tag. -/
def Line.sameTag (l m : Line) : Bool := l.pa == m.pa && l.ctx == m.ctx && l.index == m.index && l.gen == m.gen
/-- Memory outside HBM, which no base die serves (R337), and peer memory (R103). -/
def Line.outside (l : Line) : Bool := l.pa * 256 ≥ hbmEnd

/-- The cached line with the tag of l becomes l, or leaves. -/
def State.setLine (s : State) (cl : BitVec 6) (l : Line) : State :=
  s.modCluster cl (fun v => { v with lines := v.lines.map (fun x => if x.sameTag l then l else x) })
def State.dropLine (s : State) (cl : BitVec 6) (l : Line) : State :=
  s.modCluster cl (fun v => { v with lines := v.lines.filter (fun x => !x.sameTag l) })

/-- A record about bytes of a line that are lost on their way to memory: of the context of its tag, with the physical address (R107). -/
def State.lineLost (s : State) (l : Line) (pa : Nat) (cause : BitVec 7) : State :=
  s.deferred l.ctx cause { addrKind := 2, addr := BitVec.ofNat 56 pa, tindex := l.index, tgen := l.gen }

/-- Write-back of sector j of a line (R105, R107): a full write where all its bytes are masked, else a masked write, which the
base die discards over poison; then the sector is invalid and 0x34 is recorded. One whose stack is not reached, or whose address is
withdrawn, is lost in the same way under its own cause (R22, R366). The cached line follows at once, so that a sector is done
once where a later one must wait. [log 71 DEDUCED] -/
def State.writeSector (s : State) (cl : BitVec 6) (l : Line) (j : Nat) : Res (Line × State) :=
  let m := l.sectorMask j
  if m = 0 then .ok (l, s)
  else do
    let pa := l.pa * 256 + 64 * j
    let d := (s.ctx l.ctx).domain
    let bs := (List.range 64).map (fun i => l.byteAt (64 * j + i))
    let here := fun (l : Line) (s : State) => (l, s.setLine cl l)
    if l.outside then
      let whole : Bool := m == ~~~0#64
      let s := if whole then s.paStore pa bs else (s.storeMasked (paKey pa) bs (fun i => m.getLsbD i)).dropHostLines pa 64
      .ok (here ((l.clearMask j).setValid j (l.valid.getLsbD j || whole) (s.unit (paKey pa)).poison) s)
    else match s.request { die := dieOfCluster cl } d pa with
      | .error (.wait s') => waitIn s'
      | .error (.trap x) => .ok (here ((l.clearMask j).setValid j false false) (s.lineLost l pa x.cause))
      | .ok (k, s) =>
        if m = ~~~0#64 then
          .ok (here ((l.clearMask j).setValid j true false) (s.hbmWriteUnit k d bs))
        else
          let (s, done) := s.hbmMasked k d bs (fun i => m.getLsbD i)
          if done then .ok (here ((l.clearMask j).setValid j (l.valid.getLsbD j) false) s)
          else .ok (here ((l.clearMask j).setValid j false false) (s.lineLost l pa 0x34))

/-- Write-back of a whole line (R105). -/
def State.writeLine (s : State) (cl : BitVec 6) (l : Line) : Res (Line × State) := do
  let (l, s) ← s.writeSector cl l 0
  let (l, s) ← s.writeSector cl l 1
  let (l, s) ← s.writeSector cl l 2
  s.writeSector cl l 3

/-- Lines are written back, one after another; `keep` says whether they stay cached. -/
def State.writeLines (s : State) (cl : BitVec 6) (keep : Bool) : List Line → Res State
  | [] => .ok s
  | l :: ls => do
    let (l, s) ← s.writeLine cl l
    State.writeLines (if keep then s else s.dropLine cl l) cl keep ls

/-- ScanWB (R74, R190): every dirty line tagged (context, index) in a cluster is written back. -/
def State.scanWB (s : State) (cl : BitVec 6) (c : BitVec 8) (i : BitVec 20) : Res State :=
  s.writeLines cl true ((s.cluster cl).lines.filter (fun l => l.ctx == c && l.index == i && l.dirty))

/-- The lines of a physical granule are written back and dropped (R349, R354). -/
def State.flushGranule (s : State) (cl : BitVec 6) (g : Nat) : Res State :=
  s.writeLines cl false ((s.cluster cl).lines.filter (fun l => l.pa / 16 == g))

/-- The lines of a physical granule are dropped without write-back (R354, R355). -/
def State.dropGranule (s : State) (cl : BitVec 6) (g : Nat) : State :=
  s.modCluster cl (fun v => { v with lines := v.lines.filter (fun l => l.pa / 16 != g) })

/-- The set of a line (R104). [log 6 DEDUCED] -/
def setOf (line : Nat) : Nat := line % 1024

/-- Line l becomes the most recently used one; where its set holds 16 others, the last of them is written back and leaves
(R105; log 6). [log 6 DEDUCED] -/
def State.cacheLine (s : State) (cl : BitVec 6) (l : Line) : Res State := do
  let put := fun (s : State) => s.modCluster cl (fun v => { v with lines := l :: v.lines.filter (fun x => !x.sameTag l) })
  let same := (s.cluster cl).lines.filter (fun x => !x.sameTag l && setOf x.pa == setOf l.pa)
  if same.length < 16 then .ok (put s)
  else
    match same.getLast? with
    | some old =>
      let (old, s) ← s.writeLine cl old
      .ok (put (s.dropLine cl old))
    | none => .ok (put s)

/-- The line a title's access at pa uses, or a fresh one. -/
def State.lineFor (s : State) (cl : BitVec 6) (pa : Nat) (t : Title) : Line :=
  ((s.cluster cl).lines.find? (fun l => l.isFor pa t)).getD { pa := pa / 256, ctx := t.ctx, index := t.index, gen := t.gen }

/-- Sector j is filled from memory (`get`: its 64 bytes and its poison), and masked bytes keep the cache's values (R105). -/
def Line.fill (l : Line) (j : Nat) (bs : List Byte) (poison : Bool) : Line :=
  let m := l.sectorMask j
  ((List.range 64).foldl (fun l i => if m.getLsbD i then l else l.setByte (64 * j + i) (bs.getD i 0)) l).setValid j true poison

/-- Bytes of peer memory as they stand at step `now`: what this package last wrote there, else free (R103; log 7). [log 7 DESIGN CHOICE] -/
def State.peerBytes (s : State) (now : Nat) (p : BitVec 10) (pa n : Nat) : List Byte :=
  (List.range n).map (fun i =>
    let a := p.toNat * 2 ^ 48 + pa + i
    find (Config.peerByte a now) s.remote a)

/-- Whether a unit of peer memory is poisoned: by a job of this package (R108); where this package has not written all of it, that is
free (log 7). [log 7 DESIGN CHOICE] -/
def State.peerUnitBad (s : State) (now : Nat) (p : BitVec 10) (pa : Nat) : Bool :=
  (s.unit (peerKey p pa)).poison ||
    (!(List.range 64).all (fun i => s.remote.any (fun e => e.1 == p.toNat * 2 ^ 48 + pa + i)) && Config.peerPoison (p.toNat * 2 ^ 48 + pa) now)
def State.peerBad (s : State) (now : Nat) (p : BitVec 10) (pa n : Nat) : Bool :=
  (List.range ((pa + n + 63) / 64 - pa / 64)).any (fun i => s.peerUnitBad now p (pa / 64 * 64 + 64 * i))

/-- The step at which peer memory is seen under a title: under a share that of its split, for the buffer stands as it did then (R115). [log 7 DESIGN CHOICE] -/
def State.seenAt (s : State) (t : Title) : Nat := if t.kind = 2 then (find {} (s.ctx t.ctx).table t.index.toNat).splitAt else s.ticks

/-- The sectors a load needs are filled (R105); a line of peer number p holds 2^40 × (p + 1) above its address (R103). [log 41 DEDUCED] -/
def State.fillSectors (s : State) (cl : BitVec 6) (t : Title) (o n : Nat) (l : Line) : List Nat → Res (Line × State)
  | [] => .ok (l, s)
  | j :: js => do
    let masked := (List.range n).all (fun i => !(64 * j ≤ o + i && o + i < 64 * j + 64) || l.mask.getLsbD (o + i))
    if l.valid.getLsbD j || masked then State.fillSectors s cl t o n l js
    else if l.pa ≥ 2 ^ 40 then
      let p := BitVec.ofNat 10 (l.pa / 2 ^ 40 - 1)
      let pa := l.pa % 2 ^ 40 * 256 + 64 * j
      State.fillSectors s cl t o n (l.fill j (s.peerBytes (s.seenAt t) p pa 64) (s.peerUnitBad (s.seenAt t) p pa)) js
    else if l.outside then
      let pa := l.pa * 256 + 64 * j
      State.fillSectors s cl t o n (l.fill j (s.paLoad pa 64).1 (s.paLoad pa 64).2) js
    else
      let (k, s) ← s.request { die := dieOfCluster cl } t.domain (l.pa * 256 + 64 * j)
      let (bs, bad, s) := s.hbmLoad t.domain k 64
      State.fillSectors s cl t o n (l.fill j bs bad) js

/-- Whether a line's bytes [o, o + n) touch a poisoned sector (R108). -/
def Line.bad (l : Line) (o n : Nat) : Bool := (sectorsOf o n).any (fun j => l.valid.getLsbD j && l.poison.getLsbD j)

/-- Bytes [pa, pa + n) under title t through the line cache (R105): the line, filled where it must be, is in its cache. [log 19 DEDUCED] -/
def State.cachedRead (s : State) (cl : BitVec 6) (pa n : Nat) (t : Title) : Res (List Byte × Bool × State) := do
  let o := pa % 256
  let (l, s) ← s.fillSectors cl t o n (s.lineFor cl pa t) (sectorsOf o n)
  let s ← s.cacheLine cl l
  .ok ((List.range n).map (fun i => l.byteAt (o + i)), l.bad o n, s)

/-- A cached load of [pa, pa + n) under title t (R105, R108), within one line; a poisoned sector that it fills stays filled when 0x33 is
raised at it. [log 19 DEDUCED] -/
def State.cachedLoad (s : State) (cl : BitVec 6) (pa n : Nat) (t : Title) (va : Nat) : Res (List Byte × State) := do
  let known := (s.lineFor cl pa t).bad (pa % 256) n
  let (bs, bad, s) ← s.cachedRead cl pa n t
  if bad then
    if known then raiseVa 0x33 va else waitIn s
  .ok (bs, s)

/-- A cached store (R105): the line is allocated without a fill, the bytes written, their mask bits set. -/
def State.cachedStore (s : State) (cl : BitVec 6) (pa : Nat) (bs : List Byte) (t : Title) : Res State :=
  let o := pa % 256
  let l := (s.lineFor cl pa t).setBytes o bs
  s.cacheLine cl { l with mask := l.mask ||| (BitVec.ofNat 256 (2 ^ bs.length - 1) <<< o) }

/-- The 64-byte pieces of [pa, pa + n): address and length. -/
def pieces : Nat → Nat → Nat → List (Nat × Nat)
  | 0, _, _ => []
  | f + 1, pa, n =>
    if n = 0 then []
    else
      let k := Nat.min n (64 - pa % 64)
      (pa, k) :: pieces f (pa + k) (n - k)

/-- An uncached load from HBM: bytes, and whether one of their units is poisoned. -/
def State.directLoad (s : State) (a : Asker) (d : BitVec 10) : List (Nat × Nat) → Res (List Byte × Bool × State)
  | [] => .ok ([], false, s)
  | (pa, n) :: ps => do
    let (k, s) ← s.request a d pa
    let (bs, bad, s) := s.hbmLoad d k n
    let (rest, bads, s) ← State.directLoad s a d ps
    .ok (bs ++ rest, bad || bads, s)

/-- The places of pieces of HBM, all of them requested before the first is written (R123). -/
def State.requests (s : State) (a : Asker) (d : BitVec 10) : List Nat → Res (List Nat × State)
  | [] => .ok ([], s)
  | pa :: ps => do
    let (k, s) ← s.request a d pa
    let (ks, s) ← State.requests s a d ps
    .ok (k :: ks, s)

/-- A piece of a unit is written at its place (R106, R107): a whole unit in full, part of one by a masked write; one that the base die
discards records 0x34 against context c. -/
def State.putPiece (s : State) (c : BitVec 8) (t : Title) (k pa : Nat) (bs : List Byte) : State :=
  if bs.length = 64 then s.hbmWriteUnit k t.domain bs
  else
    let o := pa % 64
    let (s, done) := s.hbmMasked (k - o) t.domain (List.replicate o 0 ++ bs) (fun i => o ≤ i && i < o + bs.length)
    if done then s
    else s.deferred c 0x34 { addrKind := 2, addr := BitVec.ofNat 56 pa, tindex := t.index, tgen := t.gen }

/-- Uncached writes to HBM (R106, R107). -/
def State.directStore (s : State) (a : Asker) (c : BitVec 8) (t : Title) (ps : List (Nat × List Byte)) : Res State := do
  let (ks, s) ← s.requests a t.domain (ps.map Prod.fst)
  .ok ((ks.zip ps).foldl (fun s x => s.putPiece c t x.1 x.2.1 x.2.2) s)

/-- Bytes cut along the pieces of their address. -/
def cutBytes : List (Nat × Nat) → List Byte → List (Nat × List Byte)
  | [], _ => []
  | (a, n) :: ps, bs => (a, bs.take n) :: cutBytes ps (bs.drop n)

/-- A piece of a unit as peer memory has it after a write of this package (R107, R108): a full unit clears its poison, part of a poisoned
one is discarded, a bad one is poisoned. [log 7 DESIGN CHOICE] -/
def State.peerPut (s : State) (p : BitVec 10) (pa : Nat) (bs : List Byte) (bad : Bool) : State :=
  let k := peerKey p pa
  let write := fun (s : State) => { s with remote := (List.range bs.length).foldl (fun m j => put m (p.toNat * 2 ^ 48 + pa + j) (bs.getD j 0)) s.remote }
  if bad then s.hbmPoisonUnit k
  else if !(s.unit k).poison then write s
  else if bs.length = 64 then (write s).modUnit k (fun _ => {})
  else s

/-- A remote write of slot i under title t, at address va, is sent (R118): it is performed when the peer acknowledges it, and reads of this
package that follow it under the title see it (R112). [log 7 DESIGN CHOICE, 41 DEDUCED] -/
def State.peerWrite (s : State) (i : SlotId) (c : BitVec 8) (t : Title) (p : BitVec 10) (pa va : Nat) (bs : List Byte) (bad : Bool := false) :
    State :=
  let s := (cutBytes (pieces (bs.length / 64 + 2) pa bs.length) bs).foldl (fun s x => s.peerPut p x.1 x.2 bad) s
  let r : Req := { id := s.nextId, src := i, chainId := (s.slot i).chainId, ctx := c, seq := 0, home := .peer p,
                   kind := .remoteWrite p pa bs bad, tindex := t.index, port := s.portOf p i.tile 0, entry := (s.slot i).entry, va := va }
  { s with reqs := s.reqs ++ [r], nextId := s.nextId + 1 }

end Sys2Proof.Machine
end

