-- ==== Sys2Proof/Machine/Titles.lean ====
section
/-! DEFINITION. Titles: the checks of R73, the accesses made under a title (R95, R103), the edges of R113, TitleOut (R74, R91,
R358), acquisition (R75), joining and freeing (R80, R82), release at the end of a firing (R83). -/

namespace Sys2Proof.Machine

def Title.has (t : Title) (bit : Nat) : Bool := t.rights.getLsbD bit
def rRD : Nat := 4
def rWR : Nat := 3
def rAMO : Nat := 2
def rSEND : Nat := 1
def rARENA : Nat := 0

def Title.isArena (t : Title) : Bool := t.kind == 1 && t.has rARENA
/-- The kinds that serve loads, stores, vector memory and engine jobs (R73). -/
def Title.isData (t : Title) : Bool := (t.kind == 1 && !t.has rARENA) || t.kind == 2
def Title.isShare (t : Title) : Bool := t.kind == 2 || t.kind == 4
def Title.bytes (t : Title) : Nat := 256 * t.len.toNat

/-- The title in a register named as a source (R70, R241). -/
def Slot.title (v : Slot) (k : KReg) : Res Title :=
  let r := v.kr k
  if r.img.kind = 0 ∨ r.locked then raise 0x10 else .ok r.img
/-- A register named as a destination must be empty (R79, R241). -/
def Slot.needFree (v : Slot) (k : KReg) : Res Unit :=
  let r := v.kr k
  need (r.img.kind == 0 && !r.locked) 0x1F

/-- The checks of R73 from the right on: over [lo, lo + n), `oob` the cause of a range outside the title. -/
def State.checkRange (s : State) (t : Title) (right : Nat) (lo : Int) (n : Nat) (oob : BitVec 7) : Res Unit := do
  needT (t.has right) 0x12 t
  needT (0 ≤ lo && lo + n ≤ t.bytes) oob t
  needT (right != rWR || (s.tte t).shares == 0) 0x14 t
  needT (t.kind != 1 || (s.tte t).carved == 0) 0x15 t

/-- R73 for a load, a store, a vector access: the title of k serves data, and the range is admitted. -/
def State.allow (s : State) (v : Slot) (k : KReg) (right : Nat) (lo : Int) (n : Nat) : Res Title := do
  let t ← v.title k
  needT t.isData 0x11 t
  s.checkRange t right lo n 0x13
  .ok t

/-- The region of [o, o + n) under a title (R93, R113). -/
def Title.region (t : Title) (o n : Nat) : Region :=
  let b := t.base.toNat + o
  let sp : Space := if t.loc = 0 then .tile t.place else if t.loc = 1 then .cluster (t.place.extractLsb' 4 6) else .va t.ctx
  { space := sp, lo := b, hi := b + n }

/-- Overlap at 256-byte granularity (R113). -/
def Region.meets (a b : Region) : Bool :=
  a.space == b.space && a.lo < a.hi && b.lo < b.hi && a.lo / 256 ≤ (b.hi - 1) / 256 && b.lo / 256 ≤ (a.hi - 1) / 256

def meetsAny (as bs : List Region) : Bool := as.any (fun a => bs.any (fun b => a.meets b))

/-- An earlier operation of the same core that holds back an access of these regions (R113). -/
def Flight.blocks (f : Flight) (core : Bool) (reads writes : List Region) : Bool :=
  f.core == core && (meetsAny f.writes reads || meetsAny f.writes writes || (!f.consumed && meetsAny f.reads writes))

/-- No edge of R113 holds back an access of core c of a tile; `before` limits the test to earlier operations. -/
def Tile.edgeFree (t : Tile) (core : Bool) (reads writes : List Region) (before : Nat) : Bool :=
  t.flight.all (fun f => before ≤ f.ord || !f.blocks core reads writes)

def State.edges (s : State) (i : SlotId) (reads writes : List Region) : Res Unit :=
  waitUnless ((s.tile i.tile).edgeFree i.core reads writes s.nextId) s

/-- The purpose of an access of slot i under title t. -/
def State.purpose (s : State) (i : SlotId) (t : Title) (w : Walker) : Purpose :=
  { ctx := (s.slot i).ctx, world := t.world, domain := t.domain, title := some t, by_ := w }

/-- Who walks for slot i: its scout while it scouts (R138). -/
def State.walkerOf (s : State) (i : SlotId) : Walker := match (s.slot i).scout with
  | some sc => .scout i sc.pc
  | none => .slot i (s.slot i).pc

/-- A direct access to a page with migration at threshold is counted at its leaf (R103), whichever replica of it was walked. [log 63 DEDUCED] -/
def State.countAccess (s : State) (e : TlbEntry) : State :=
  let k := firstReplica e.size e.leaf
  let m := put s.board.migCounts k (find 0 s.board.migCounts k + 1)
  if e.mode = 2 then { s with board := { s.board with migCounts := m } } else s

/-- A load of [o, o + n), within one line, under title t by slot i (R95, R103, R105, R108, R349). [log 41 DEDUCED] -/
def State.titleLoad (s : State) (i : SlotId) (t : Title) (o n : Nat) : Res (List Byte × State) := do
  let a := t.base.toNat + o
  if t.loc = 0 then
    needT ((s.tile t.place).world == t.world) 0x1A t
    .ok (s.bytes (tileKey t.place a) n, s)
  else if t.loc = 1 then
    let c := t.place.extractLsb' 4 6
    needT ((s.cluster c).world == t.world) 0x1A t
    .ok (s.bytes (clusterKey c a) n, s)
  else
    let cl := clusterOf i.tile
    match ← s.translate cl (s.purpose i t (s.walkerOf i)) a .read with
    | .here pa e =>
      let s ← s.setAccessed cl e (s.slot i).scout.isNone
      if (s.granOf (pa / 4096)).isSome then
        let (bs, bad, s) ← s.directLoad { die := dieOf i.tile } t.domain (pieces n pa n)
        if bad then raiseRead s a
        .ok (bs, s)
      else s.cachedLoad cl pa n t a
    | .peer p pa e =>
      if s.livePorts = [] then .error (.trap { cause := 0x59, peer := p })
      let s ← s.setAccessed cl e (s.slot i).scout.isNone
      if e.mode = 1 ∧ t.kind = 2 then s.cachedLoad cl ((p.toNat + 1) * 2 ^ 48 + pa) n t a
      else
        if s.peerBad (s.seenAt t) p pa n then raiseVa 0x33 a
        .ok (s.peerBytes (s.seenAt t) p pa n, s.countAccess e)

/-- Bytes are written, by context c and slot i under title t, where its address a has been translated to. -/
def State.titlePut (s : State) (i : SlotId) (c : BitVec 8) (t : Title) (a : Nat) (bs : List Byte) : Phys → Res State
  | .here pa e => do
    let cl := clusterOf i.tile
    let s ← s.setAccessed cl e (s.slot i).scout.isNone
    if (s.granOf (pa / 4096)).isSome then s.directStore { die := dieOf i.tile } c t (cutBytes (pieces bs.length pa bs.length) bs)
    else s.cachedStore cl pa bs t
  | .peer p pa e => do
    let s ← s.setAccessed (clusterOf i.tile) e (s.slot i).scout.isNone
    .ok ((s.peerWrite i c t p pa a bs).countAccess e)

/-- A store of bytes at o, within one line, under title t by slot i. -/
def State.titleStore (s : State) (i : SlotId) (t : Title) (o : Nat) (bs : List Byte) : Res State := do
  let a := t.base.toNat + o
  if t.loc = 0 then
    needT ((s.tile t.place).world == t.world) 0x1A t
    .ok (s.store (tileKey t.place a) bs)
  else if t.loc = 1 then
    let c := t.place.extractLsb' 4 6
    needT ((s.cluster c).world == t.world) 0x1A t
    .ok (s.store (clusterKey c a) bs)
  else
    let cl := clusterOf i.tile
    match ← s.translate cl (s.purpose i t (s.walkerOf i)) a .write with
    | .here pa e => s.titlePut i (s.slot i).ctx t a bs (.here pa e)
    | .peer p pa e =>
      if s.livePorts = [] then .error (.trap { cause := 0x59, peer := p })
      s.titlePut i (s.slot i).ctx t a bs (.peer p pa e)

/-- The walk of a scout's access to an address has failed at the instruction it stands at: the access is past (R139). -/
def State.scoutedPast (s : State) (i : SlotId) (va : Nat) : Bool := match (s.slot i).scout with
  | some sc => sc.failed.contains va
  | none => false

/-- The translation and world checks of an access without the access (R139, R232, R233). -/
def State.titleProbe (s : State) (i : SlotId) (t : Title) (o : Nat) (kind : AccKind) : Res Unit := do
  if s.scoutedPast i (t.base.toNat + o) then .ok ()
  else if t.loc = 0 then needT ((s.tile t.place).world == t.world) 0x1A t
  else if t.loc = 1 then needT ((s.cluster (t.place.extractLsb' 4 6)).world == t.world) 0x1A t
  else
    match ← s.translate (clusterOf i.tile) (s.purpose i t (s.walkerOf i)) (t.base.toNat + o) kind with
    | .here _ _ => .ok ()
    | .peer p _ _ => if s.livePorts = [] then .error (.trap { cause := 0x59, peer := p }) else .ok ()

/-- Where a title or a message goes: peer, tile, and the context that owns the channel there (R199, R374). -/
structure Dest where
  peer : BitVec 10
  tile : BitVec 10
  chan : BitVec 6
  ctx : BitVec 8
  deriving DecidableEq, Repr

/-- The entry that owns a channel on a tile: its primary owner, or an entry that has it as secondary channel (R374). -/
def Tile.owner (t : Tile) (c : BitVec 6) : Option Entry :=
  if (t.entry c).valid then some (t.entry c)
  else ((t.entries.map Prod.snd).find? (fun e => e.valid && e.sec == some c))

/-- RightsOnly (R78, R190). -/
def State.rightsOnly (s : State) (t : Title) (d : Dest) : Bool :=
  d.peer == 0x3FF && (s.ctx d.ctx).domain == t.domain &&
    (if t.loc.toNat < 2 then clusterOf d.tile == t.place.extractLsb' 4 6 else true)

/-- The opened granules of a chain under a title (R358). [log 13 DEDUCED] -/
def State.openUnder (s : State) (i : SlotId) (t : Title) : Bool :=
  let v := s.slot i
  s.grans.any (fun g => g.opener == i && g.chainId == v.chainId && g.ctx == t.ctx && g.index == t.index)

/-- The checks of TitleOut towards a destination (R74, R76, R91, R358); `copies` says that a byte copy would do where rights
alone do not go (`MV.XFER`, `TSENDR`), which of a share there is none. [log 13 DEDUCED] -/
def State.outChecks (s : State) (i : SlotId) (t : Title) (d : Dest) (copies : Bool) : Res Unit := do
  needT (t.has rSEND) 0x1D t
  needT (t.kind != 1 || (s.tte t).carved == 0) 0x15 t
  needT (!t.isShare || (d.peer == 0x3FF && d.ctx == t.ctx)) 0x1E t
  needT (s.rightsOnly t d || (copies && t.kind != 3 && t.kind != 5 && !t.isShare)) 0x1E t
  needT (t.kind != 1 || (s.tte t).shares == 0 || (d.peer == 0x3FF && d.ctx == t.ctx)) 0x17 t
  needT (!s.openUnder i t) 0x3D t

/-- Accesses and jobs issued by slot i under a title that have not completed (R74): operations and jobs on the scoreboard,
remote writes and atomics without their reply. -/
def State.busyUnder (s : State) (i : SlotId) (t : Title) : Bool :=
  (s.tile i.tile).flight.any (fun f => f.core == i.core && f.slot == i.slot && f.titles.contains (t.ctx, t.index)) ||
  s.reqs.any (fun r => r.src == i && r.ctx == t.ctx && r.tindex == t.index && t.index != 0 && r.state != .refused)

/-- Every line tagged with a title is dropped, in every cluster of the package (R77). -/
def State.dropTagged (s : State) (c : BitVec 8) (i : BitVec 20) : State :=
  { s with clusters := s.clusters.map (fun e =>
      (e.1, { e.2 with lines := e.2.lines.filter (fun l => !(l.ctx == c && l.index == i)) })) }

/-- The generation of an entry increments; a wrap first invalidates the title's lines everywhere (R77). -/
def State.bumpGen (s : State) (c : BitVec 8) (i : BitVec 20) : State :=
  let e := find {} (s.ctx c).table i.toNat
  let s := if e.gen = 4095 then s.dropTagged c i else s
  s.modTte c i (fun e => { e with gen := e.gen + 1 })

/-- Whether a move to d needs the scan of R74; `far` says that it does whatever the destination (R325). -/
def needsScan (i : SlotId) (t : Title) (d : Dest) (far : Bool) : Bool :=
  t.loc.toNat ≥ 2 && (far || d.peer != 0x3FF || clusterOf d.tile != clusterOf i.tile || d.ctx != t.ctx)

/-- The wait of TitleOut with its write-backs, which change no title: an instruction that moves several titles lets all of them
wait before it moves the first (R201). -/
def State.outWait (s : State) (i : SlotId) (t : Title) (d : Dest) (far : Bool) : Res State := do
  waitUnless (!s.busyUnder i t) s
  if needsScan i t d far then s.scanWB (clusterOf i.tile) t.ctx t.index else .ok s

/-- The wait and the scan of TitleOut (R74); `far` says that the scan is due whatever the destination (R325). The image
with its generation afterwards. -/
def State.outScan (s : State) (i : SlotId) (t : Title) (d : Dest) (far : Bool) : Res (Title × State) := do
  let s ← s.outWait i t d far
  if needsScan i t d far then
    if t.isShare then .ok (t, s)
    else
      let s := s.bumpGen t.ctx t.index
      .ok ({ t with gen := (s.tte t).gen }, s)
  else .ok (t, s)

def State.setTteState (s : State) (t : Title) (st : BitVec 3) : State :=
  s.modTte t.ctx t.index (fun e => { e with state := st, ownTile := 0, ownCore := false, ownSlot := 0 })

/-- TitleOut's last step: a root is in flight, without an owner (R71, R74). The entry of a share is its root's and stays. [log 14 DEDUCED] -/
def State.inFlight (s : State) (t : Title) : State := if t.isShare then s else s.setTteState t 2

/-- TitleOut (R74) of register k of slot i, after its checks. -/
def State.titleOut (s : State) (i : SlotId) (k : KReg) (d : Dest) (far : Bool := false) : Res (Title × State) := do
  let t ← (s.slot i).title k
  let (t, s) ← s.outScan i t d far
  .ok (t, (s.inFlight t).modSlot i (fun v => v.setK k {}))

/-- The lowest free entry index of a table, from 1 on (R71). -/
def freeIndexFrom (tab : Map Tte) : Nat → Nat → Option Nat
  | 0, _ => none
  | f + 1, n => if (find {} tab n).state = 0 then some n else freeIndexFrom tab f (n + 1)
def Ctx.freeIndex (c : Ctx) : Option Nat := freeIndexFrom c.table (c.tableSize - 1) 1

def hasRoom (tab : Map Tte) (size : Nat) : Nat → Nat → Bool
  | 0, _ => true
  | n + 1, from_ => match freeIndexFrom tab (size - from_) from_ with
    | some k => hasRoom tab size n (k + 1)
    | none => false

/-- The entry that a new title takes: the generation that the entry stands at stays (R71, R82). -/
def State.newEntry (s : State) (c : BitVec 8) (idx : BitVec 20) (t : Title) (parent : BitVec 20) (i : SlotId) : Title × State :=
  let e := find {} (s.ctx c).table idx.toNat
  let t := { t with ctx := c, index := idx, gen := e.gen }
  (t, s.modTte c idx (fun _ => {
    state := 1, kind := t.kind, gen := e.gen, ownTile := i.tile, ownCore := i.core, ownSlot := i.slot, parent := parent, rights := t.rights, loc := t.loc, base := t.base, len := t.len, place := t.place,
    world := t.world, domain := t.domain }))

def State.arenaMap (s : State) (c : BitVec 8) (a : BitVec 20) : List (Nat × Nat) := find [] (s.ctx c).arenas a.toNat
def State.setArenaMap (s : State) (c : BitVec 8) (a : BitVec 20) (m : List (Nat × Nat)) : State :=
  s.modCtx c (fun v => { v with arenas := put v.arenas a.toNat m })

/-- The allocation map goes with an arena that enters another context's table (R75, R82); what was allotted before no longer names it as
its parent. [log 45 DEDUCED] -/
def State.moveArena (s : State) (t t' : Title) : State :=
  let m := s.arenaMap t.ctx t.index
  (s.modCtx t.ctx (fun v => { v with
    arenas := drop v.arenas t.index.toNat
    table := v.table.map (fun e => (e.1, if e.2.parent = t.index then { e.2 with parent := 0 } else e.2)) })).setArenaMap t'.ctx t'.index m

/-- A pool follows its root title into another context's table (R75, R309). -/
def State.movePool (s : State) (t t' : Title) : State :=
  { s with pools := s.pools.map (fun e => (e.1,
      if e.2.ctx = t.ctx ∧ e.2.title.index = t.index then { e.2 with ctx := t'.ctx, title := t' } else e.2)) }

/-- Acquisition of title t by slot i of context c (R75): a root of another context gets a fresh entry; a root of the context is
held again, with the generation of its entry (R80). [log 45 DEDUCED] -/
def State.acquire (s : State) (i : SlotId) (t : Title) : Option (Title × State) :=
  let c := (s.slot i).ctx
  if t.kind = 0 then some (t, s)
  else if t.isShare then some (t, s)
  else if t.ctx = c then
    let e := s.tte t
    some ({ t with gen := e.gen }, s.modTte c t.index (fun e => { e with state := 1, ownTile := i.tile, ownCore := i.core, ownSlot := i.slot }))
  else
    match (s.ctx c).freeIndex with
    | none => none
    | some n =>
      let s1 := s.modTte t.ctx t.index (fun e => { e with state := 0, parent := 0, shares := 0, carved := 0 })
      let t' := { t with ctx := c, index := BitVec.ofNat 20 n }
      let s1 := if t.isArena then s1.moveArena t t' else if t.kind = 5 then s1.movePool t t' else s1
      some (t', s1.modTte c (BitVec.ofNat 20 n) (fun _ => {
        state := 1, kind := t.kind, gen := t.gen, ownTile := i.tile, ownCore := i.core, ownSlot := i.slot, rights := t.rights, loc := t.loc, base := t.base, len := t.len,
        place := t.place, world := t.world, domain := t.domain }))

/-- The titles of a message acquired into k, k + 1, … (R56, R205). -/
def State.acquireAll (s : State) (i : SlotId) : Nat → List Title → Option State
  | _, [] => some s
  | k, t :: ts => match s.acquire i t with
    | none => none
    | some (t', s') => State.acquireAll (s'.modSlot i (fun v => v.setK (BitVec.ofNat 4 k) { img := t' })) i (k + 1) ts

/-- A root image held in a register takes a generation (R80). -/
def Slot.regen (v : Slot) (c : BitVec 8) (idx : BitVec 20) (g : BitVec 12) : Slot :=
  { v with k := v.k.map (fun r => if r.img.ctx = c ∧ r.img.index = idx ∧ !r.img.isShare ∧ r.img.kind ≠ 0
                                  then { r with img := { r.img with gen := g } } else r) }

/-- A share is joined to its root (R80, R83): SHARES falls by one; at 0 the generation of a WHOLE increments in its entry and in
the register that holds the root. -/
def State.joinShare (s : State) (t : Title) : State :=
  let s := s.modTte t.ctx t.index (fun e => { e with shares := e.shares - 1 })
  let e := s.tte t
  if e.shares = 0 ∧ e.kind = 1 then
    let s := s.bumpGen t.ctx t.index
    let e := s.tte t
    if e.state = 1 then s.modSlot ⟨e.ownTile, e.ownCore, e.ownSlot⟩ (fun v => v.regen t.ctx t.index e.gen) else s
  else s

/-- An entry is freed and its generation increments (R82). [log 45 DEDUCED] -/
def State.freeEntry (s : State) (c : BitVec 8) (i : BitVec 20) : State :=
  ((s.bumpGen c i).modCtx c (fun v => { v with arenas := drop v.arenas i.toNat })).modTte c i (fun e => { ({} : Tte) with gen := e.gen })

/-- The source entry of a byte copy goes: TitleOut has raised its generation where it scanned, and freeing raises it again. The entry alone
goes: blocks that an arena allotted, or a parent's CARVED, stay as they are (R74, R78, R241). [log 70 DESIGN CHOICE, 71 DEDUCED] -/
def State.freeMoved (s : State) (t : Title) : State :=
  (if t.loc.toNat ≥ 2 then s.bumpGen t.ctx t.index else s).freeEntry t.ctx t.index

/-- The blocks of a WHOLE return to the arena it came from, and its entry is freed (R82). -/
def State.freeToArena (s : State) (t : Title) : State :=
  let e := s.tte t
  let a := find {} (s.ctx t.ctx).table e.parent.toNat
  let b := (t.base.toNat - a.base.toNat) / 256
  (s.setArenaMap t.ctx e.parent ((s.arenaMap t.ctx e.parent).filter (fun r => r.1 != b))).freeEntry t.ctx t.index

/-- The lowest-addressed run of n free blocks: `m` lists the allotted runs in order (R82). -/
def lowestRun (n size : Nat) : Nat → List (Nat × Nat) → Option Nat
  | at_, [] => if at_ + n ≤ size then some at_ else none
  | at_, (b, l) :: m => if at_ + n ≤ b then some at_ else lowestRun n size (b + l) m

def insertRun (b n : Nat) : List (Nat × Nat) → List (Nat × Nat)
  | [] => [(b, n)]
  | (c, l) :: m => if b < c then (b, n) :: (c, l) :: m else (c, l) :: insertRun b n m

/-- n blocks are allotted in arena ta (R82): the WHOLE over them, held by slot i. None where no run or no entry is free. -/
def State.allotBlocks (s : State) (i : SlotId) (ta : Title) (n : Nat) : Option (Title × State) :=
  match lowestRun n ta.len.toNat 0 (s.arenaMap ta.ctx ta.index), (s.ctx ta.ctx).freeIndex with
  | some b, some idx =>
    let s := s.setArenaMap ta.ctx ta.index (insertRun b n (s.arenaMap ta.ctx ta.index))
    let t : Title := { ta with kind := 1, rights := 0b11010, base := ta.base + BitVec.ofNat 56 (256 * b), len := BitVec.ofNat 41 n }
    some (s.newEntry ta.ctx (BitVec.ofNat 20 idx) t ta.index i)
  | _, _ => none

/-- Whether the parent of an entry is an arena (R83). -/
def State.arenaParent (s : State) (t : Title) : Bool :=
  let e := s.tte t
  let a := find {} (s.ctx t.ctx).table e.parent.toNat
  e.parent != 0 && a.kind == 1 && a.rights.getLsbD rARENA

/-- Some part carved of an entry is not unheld, or has shares: another firing has it (R83). [log 71 DEDUCED] -/
def heldBelow (tab : Map Tte) : Nat → BitVec 20 → Bool
  | 0, _ => false
  | f + 1, idx => tab.any (fun e => e.2.parent == idx && e.2.state != 0 &&
      (e.2.state != 3 || e.2.shares != 0 || heldBelow tab f (BitVec.ofNat 20 e.1)))

/-- The parts carved of an entry that is freed stay unheld, without a parent (R83). [log 71 DEDUCED] -/
def State.orphan (s : State) (c : BitVec 8) (i : BitVec 20) : State :=
  s.modCtx c (fun v => { v with table := v.table.map (fun e => (e.1, if e.2.parent = i then { e.2 with parent := 0 } else e.2)) })

/-- Release of a title at the end of a firing (R83), its shares and parts before it. `cl` is the cluster whose cache is scanned. A fresh
title on another package has no entry here. [log 46 DEDUCED, 71 DEDUCED] -/
def State.releaseTitle (s : State) (cl : BitVec 6) (t : Title) : Res State := do
  if t.kind = 0 ∨ t.index = 0 then .ok s
  else if t.isShare then .ok (s.joinShare t)
  else
    let tab := (s.ctx t.ctx).table
    if t.kind = 1 ∧ s.arenaParent t ∧ (s.tte t).shares = 0 ∧ !heldBelow tab tab.length t.index then
      let s ← if t.loc.toNat ≥ 2 then s.scanWB cl t.ctx t.index else .ok s
      .ok ((s.freeToArena t).orphan t.ctx t.index)
    else .ok (s.setTteState t 3)

/-- A title is released; where its write-back must wait it stands with the titles of ended firings until it can go (R83). [log 46 DEDUCED] -/
def State.releaseOne (s : State) (cl : BitVec 6) (t : Title) : State :=
  let later := fun (s : State) => { s with late := s.late ++ [(cl ++ (0 : BitVec 4), t)] }
  match s.releaseTitle cl t with
  | .ok s => s
  | .error (.wait s) => later s
  | .error (.trap _) => later s

/-- The order of a release: shares, then parts and other roots, then what goes back to an arena (R83). -/
def State.releaseRank (s : State) (t : Title) : Nat := if t.isShare then 0 else if s.arenaParent t then 2 else 1
def State.releaseOrder {α : Type} (s : State) (f : α → Title) (ts : List α) : List α :=
  (List.range 3).flatMap (fun n => ts.filter (fun t => s.releaseRank (f t) == n))

/-- The titles of a message return to the sending context's table and are released (R84). [log 46 DEDUCED] -/
def State.releaseBack (s : State) (cl : BitVec 6) (ts : List Title) : State :=
  (s.releaseOrder id ts).foldl (fun s t => s.releaseOne cl t) s

/-- The double words of an image (R70). -/
def Title.dword0 (t : Title) : Word :=
  t.index ++ t.gen ++ t.kind ++ t.rights ++ BitVec.ofBool t.world ++ t.domain ++ t.loc ++ (0 : BitVec 3) ++ t.ctx
def Title.dwords (t : Title) : List Word :=
  [t.dword0, t.base.setWidth 64, t.len.setWidth 64, t.place.setWidth 64 <<< 54]

end Sys2Proof.Machine
end

