-- ==== Sys2Proof/Machine/Operands.lean ====
section
/-! DEFINITION. Operand forms: the addresses of x-register accesses (R93, R94), the slot's own region, the code window, the
fields of view registers (R213), destination words (R199). -/

namespace Sys2Proof.Machine

/-- Sign-extended immediates (R172). -/
def imm12 (i : BitVec 12) : Word := i.signExtend 64
def imm20 (i : BitVec 20) : Word := (i ++ (0 : BitVec 12)).signExtend 64
def immJ (i : BitVec 20) : Word := (i ++ (0 : BitVec 1)).signExtend 64
def immB (i : BitVec 12) : Word := (i ++ (0 : BitVec 1)).signExtend 64
def sext32 (v : BitVec 32) : Word := v.signExtend 64
def low32 (v : Word) : BitVec 32 := v.setWidth 32

/-- Where an x-register access goes (R93). -/
inductive XWindow where
  | priv
  | code
  deriving DecidableEq, Repr

/-- The slot's own region of the slot-private window (R94). -/
def inOwn (slot : BitVec 2) (a : Nat) : Bool := slot.toNat * 0x2000 ≤ a && a < (slot.toNat + 1) * 0x2000

/-- The checks of R94 on an access of n bytes at address a, in its order. -/
def State.xWindow (s : State) (i : SlotId) (a : Word) (n : Nat) (store : Bool) : Res XWindow := do
  let e := s.entryOf i
  let addr := a.toNat
  if addr ≥ 2 ^ 56 then raiseVa 0x38 addr
  if addr < 0x10000 then
    if !inOwn i.slot addr then raiseVa 0x37 addr
    if addr % n ≠ 0 then raiseVa 0x39 addr
    .ok .priv
  else
    if addr < e.codeLo.toNat ∨ e.codeHi.toNat < addr + 1 then raiseVa 0x37 addr
    if store then raiseVa 0x3A addr
    if addr % n ≠ 0 then raiseVa 0x39 addr
    if e.codeHi.toNat < addr + n then raiseVa 0x37 addr
    .ok .code

/-- A block of n bytes at an 8-byte-aligned address of the slot's own region (R200, R234, R326, R347): 0x39, then 0x37. -/
def ownBlock (i : SlotId) (a : Word) (n : Nat) : Res Nat := do
  if a.toNat % 8 ≠ 0 then raiseVa 0x39 a.toNat
  if !(inOwn i.slot a.toNat && a.toNat + n ≤ (i.slot.toNat + 1) * 0x2000) then raiseVa 0x37 a.toNat
  .ok a.toNat

/-- Double words of the core-local store (R93). -/
def State.ownWords (s : State) (i : SlotId) (a n : Nat) : List Word :=
  dwords n (s.bytes (coreKey i.tile i.core a) (8 * n))

/-- A read of the code window or an instruction fetch (R93, R108): translated, not under a title. [log 39 DESIGN CHOICE] -/
def State.codeRead (s : State) (i : SlotId) (va n : Nat) (kind : AccKind) : Res (List Byte × State) := do
  let v := s.slot i
  let c := s.ctx v.ctx
  let cl := clusterOf i.tile
  let p : Purpose := { ctx := v.ctx, world := c.world, domain := c.domain, title := none, by_ := s.walkerOf i }
  match ← s.translate cl p va kind with
  | .here pa e =>
    let s ← s.setAccessed cl e v.scout.isNone
    if pa ≥ hbmEnd then
      let (bs, bad) := s.paLoad pa n
      if bad then raiseVa 0x33 va
      .ok (bs, s)
    else
      let (bs, bad, s) ← s.directLoad { die := dieOf i.tile } c.domain (pieces n pa n)
      if bad then raiseRead s va
      .ok (bs, s)
  | .peer p pa e =>
    if s.livePorts = [] then .error (.trap { cause := 0x59, peer := p })
    if s.peerBad s.ticks p pa n then raiseVa 0x33 va
    let s' ← s.setAccessed cl e v.scout.isNone
    .ok (s.peerBytes s.ticks p pa n, s'.countAccess e)

/-- An x-register load (R94). -/
def State.xLoad (s : State) (i : SlotId) (a : Word) (n : Nat) : Res (List Byte × State) := do
  match ← s.xWindow i a n false with
  | .priv => .ok (s.bytes (coreKey i.tile i.core a.toNat) n, s)
  | .code => s.codeRead i a.toNat n .read

/-- An x-register store (R94). -/
def State.xStore (s : State) (i : SlotId) (a : Word) (bs : List Byte) : Res State := do
  let _ ← s.xWindow i a bs.length true
  .ok (s.store (coreKey i.tile i.core a.toNat) bs)

/-- Fields of a view register (R213). -/
def View.fmt (v : View) : BitVec 7 := v.d0.extractLsb' 57 7
def View.rnd (v : View) : BitVec 2 := v.d0.extractLsb' 55 2
def View.ovf (v : View) : BitVec 2 := v.d0.extractLsb' 53 2
def View.scaled (v : View) : Bool := v.d0.getLsbD 52
def View.olk (v : View) : KReg := v.d0.extractLsb' 48 4
def View.scaleOff (v : View) : Nat := bits v.d1 49 32
def View.stride (v : View) : Nat := bits v.d1 27 18
def View.base (v : View) : Nat := bits v.d1 17 0
def View.olOff (v : View) : Nat := bits v.d2 40 0
def View.dword (v : View) (n : BitVec 2) : Word :=
  match n with
  | 0 => v.d0
  | 1 => v.d1
  | 2 => v.d2
  | _ => v.d3

/-- A descriptor whose reserved bits, and the alignment bits of BASE and SCALEOFF, are 0 (R213). -/
def View.legal (v : View) : Bool :=
  bits v.d0 47 0 == 0 && bits v.d1 63 50 == 0 && bits v.d1 31 28 == 0 && v.scaleOff % 8 == 0 && v.base % 256 == 0 &&
    bits v.d2 63 41 == 0 && v.d3 == 0

/-- FMT f is 0b000_0000's place in R151; a view register at dispatch (R56, R213). -/
def viewOf (fmt : BitVec 7) (stride : Nat) : View :=
  { d0 := (fmt.setWidth 64 <<< 57) ||| (15#64 <<< 48), d1 := BitVec.ofNat 64 (stride * 2 ^ 18), d2 := 0, d3 := 0 }

/-- The fields of a destination word (R199). -/
structure DestWord where
  peer : BitVec 10
  tile : BitVec 10
  chan : BitVec 6
  deriving DecidableEq, Repr

def destWord (w : Word) : DestWord :=
  { peer := w.extractLsb' 16 10, tile := w.extractLsb' 6 10, chan := w.extractLsb' 0 6 }

/-- The destination of a message of slot i (R199, R374): reserved bits, the tile's service, and the owning context. -/
def State.dest (s : State) (i : SlotId) (d : DestWord) : Res Dest := do
  if d.peer = 0x3FF then needInfo (s.tile d.tile).inService 0x58 (chanInfo d.chan d.tile)
  if d.peer = 0x3FF ∧ !s.reach (dieOf i.tile) (dieOf d.tile) then raise 0x59
  if d.peer ≠ 0x3FF ∧ s.livePorts = [] then .error (.trap { cause := 0x59, peer := d.peer })
  let own := (s.slot i).ctx
  let c := if d.peer = 0x3FF then match (s.tile d.tile).owner d.chan with
      | some e => e.ctx
      | none => own
    else own
  .ok { peer := d.peer, tile := d.tile, chan := d.chan, ctx := c }

def State.destOf (s : State) (i : SlotId) (w : Word) : Res Dest := do
  needInfo (w.extractLsb' 26 38 == 0#38) 0x58 (chanInfo (destWord w).chan (destWord w).tile)
  s.dest i (destWord w)

/-- The slab region a firing uses (R53, R214): its allotment, or the joint region of its entry. -/
def State.slabOf (s : State) (i : SlotId) : Nat × Nat :=
  let v := s.slot i
  let e := s.entryOf i
  if e.partner.isSome then
    match (s.tile i.tile).joint.find? (fun r => r.1 == v.entry || r.2.1 == v.entry) with
    | some r => (r.2.2.1, r.2.2.2)
    | none => (0, 0)
  else (v.slabBase, v.slabLen)

end Sys2Proof.Machine
end

