-- ==== Sys2Proof/Machine/Channels.lean ====
section
/-! DEFINITION. Message headers (R186), channels (R48, R49), the outbox (R50, R51), arrival (R49, R65, R72, R149, R374). -/

namespace Sys2Proof.Machine

/-- A header word (R186). -/
def header (kind : BitVec 2) (chan : BitVec 6) (tile : BitVec 10) (peer : BitVec 10) (len : BitVec 6) (nt : BitVec 2)
    (key : Byte) (seq : BitVec 20) : Word := kind ++ chan ++ tile ++ peer ++ len ++ nt ++ key ++ seq

def hdrKind (h : Word) : BitVec 2 := h.extractLsb' 62 2
def hdrChan (h : Word) : BitVec 6 := h.extractLsb' 56 6
def hdrTile (h : Word) : BitVec 10 := h.extractLsb' 46 10
def hdrPeer (h : Word) : BitVec 10 := h.extractLsb' 36 10
def hdrLen (h : Word) : BitVec 6 := h.extractLsb' 30 6
def hdrNt (h : Word) : BitVec 2 := h.extractLsb' 28 2
def hdrKey (h : Word) : Byte := h.extractLsb' 20 8
def hdrSeq (h : Word) : BitVec 20 := h.extractLsb' 0 20

/-- Records in the overflow ring (R48, R49). -/
def Chan.ringUsed (c : Chan) : Nat := c.recs.length - c.onChip

/-- R49: where a message goes, `own` being a source firing of the same context on the same tile. While the context is switched out it
goes to the ring (`away`, R64). None is a refusal. -/
def Chan.arrive (c : Chan) (own away : Bool) (m : Msg) : Option Chan :=
  let free := c.ring - c.ringUsed
  if c.onChip < c.cap ∧ c.ringUsed = 0 ∧ !away then some { c with recs := c.recs ++ [{ msg := m }], onChip := c.onChip + 1 }
  else if free > 8 ∨ (free > 0 ∧ own) then some { c with recs := c.recs ++ [{ msg := m }] }
  else none

/-- Record n leaves: where it was on chip, the oldest ring record moves on chip (R49). -/
def Chan.pop (c : Chan) (n : Nat) : Chan :=
  { c with recs := c.recs.eraseIdx n, onChip := if n < c.onChip ∧ c.ringUsed = 0 then c.onChip - 1 else c.onChip }

def Chan.unreserved (c : Chan) : Nat := (c.recs.filter (fun r => r.holder.isNone)).length

/-- The oldest n unreserved messages are reserved (R54). -/
def reserveRecs (h : Bool × BitVec 2) : Nat → List ChRec → List ChRec
  | 0, rs => rs
  | _, [] => []
  | n + 1, r :: rs => if r.holder.isNone then { r with holder := some h } :: reserveRecs h n rs
                      else r :: reserveRecs h (n + 1) rs
def Chan.reserve (c : Chan) (h : Bool × BitVec 2) (n : Nat) : Chan := { c with recs := reserveRecs h n c.recs }

/-- The message that a firing takes (R205): the oldest it has reserved, else the oldest unreserved one. -/
def Chan.choose (c : Chan) (h : Bool × BitVec 2) : Option Nat :=
  match c.recs.findIdx? (fun r => r.holder == some h) with
  | some n => some n
  | none => c.recs.findIdx? (fun r => r.holder.isNone)

/-- Reserved messages become unreserved again, in place (R56). -/
def Chan.unreserve (c : Chan) (h : Bool × BitVec 2) : Chan :=
  { c with recs := c.recs.map (fun r => if r.holder == some h then { r with holder := none } else r) }

/-- The slots of a tile. -/
def slotsOf (t : BitVec 10) : List SlotId :=
  (List.range 8).map (fun n => ⟨t, n ≥ 4, BitVec.ofNat 2 (n % 4)⟩)

/-- The buffers that slot i holds through its reservation (R51). [log 15 DEDUCED] -/
def State.outHeld (s : State) (i : SlotId) : Nat :=
  ((s.tile i.tile).outbox.filter (fun e => e.2.res == some (i.core, i.slot, (s.slot i).serial))).length

/-- What is left of the reservation of slot i (R51). -/
def State.outLeft (s : State) (i : SlotId) : Nat := (s.slot i).outRes - s.outHeld i

/-- Outbox buffers neither occupied nor reserved (R51, R52): of 128. [log 15 DEDUCED] -/
def State.outFree (s : State) (t : BitVec 10) : Nat :=
  128 - (s.tile t).outbox.length - ((slotsOf t).map (fun i => s.outLeft i + b2n (s.slot i).granted)).sum

/-- Whether slot i gets an outbox buffer now: from its reservation, by a grant, or because one is free and no other slot
waits (R51). -/
def State.outGranted (s : State) (i : SlotId) : Bool :=
  let v := s.slot i
  s.outLeft i > 0 || v.granted || (s.outFree i.tile > 0 && (s.tile i.tile).outWaiters.isEmpty)

/-- The slot waits in line for a buffer (R51). -/
def State.queueOut (s : State) (i : SlotId) : State :=
  s.modTile i.tile (fun t => if t.outWaiters.contains (i.core, i.slot) then t
    else { t with outWaiters := t.outWaiters ++ [(i.core, i.slot)] })

/-- An outbox buffer, or the wait for one (R51). [log 15 DEDUCED] -/
def needBuffer (s : State) (i : SlotId) : Res Unit := waitUnless (s.outGranted i) (s.queueOut i)

def freeKeyFrom {α : Type} (m : Map α) : Nat → Nat → Nat
  | 0, n => n
  | f + 1, n => if m.any (fun e => e.1 == n) then freeKeyFrom m f (n + 1) else n

/-- The holder of the next buffer that slot i takes: its reservation while some of that is left (R51). [log 15 DEDUCED] -/
def State.outTag (s : State) (i : SlotId) : Option (Bool × BitVec 2 × BitVec 32) :=
  if s.outLeft i > 0 then some (i.core, i.slot, (s.slot i).serial) else none

/-- A buffer taken by slot i, through its reservation where some is left; the number of the buffer. [log 15 DEDUCED] -/
def State.takeBuffer (s : State) (i : SlotId) (b : OutBuf) : Nat × State :=
  let n := freeKeyFrom (s.tile i.tile).outbox 128 0
  let r := s.outTag i
  let s := s.modTile i.tile (fun t => { t with outbox := put t.outbox n { b with res := r } })
  (n, if r.isSome then s else s.modSlot i (fun v => { v with granted := false }))

/-- The holder of buffer n. -/
def Tile.bufRes (t : Tile) (n : Nat) : Option (Bool × BitVec 2 × BitVec 32) := (find {} t.outbox n).res

def State.freeBuffer (s : State) (t : BitVec 10) (n : Nat) : State := s.modTile t (fun v => { v with outbox := drop v.outbox n })

/-- The number of a (peer, tile, channel) triple. -/
def seqKey (p t : BitVec 10) (c : BitVec 6) : Nat := (p.toNat * 1024 + t.toNat) * 64 + c.toNat

/-- The next sequence number of slot i for a tile and channel (R186). -/
def State.nextSeq (s : State) (i : SlotId) (d : Dest) : BitVec 20 × State :=
  let v := s.slot i
  let k := seqKey d.peer d.tile d.chan
  let n := find 0 v.mseq k
  (n, s.setSlot i { v with mseq := put v.mseq k (n + 1) })

/-- What a `POST` of slot i awaits (R117, R331): its remote writes, atomics and inserts without reply, and its operations and jobs
that have writes to perform, a byte copy's among them. -/
def State.pendingOf (s : State) (i : SlotId) : List Nat :=
  (s.reqs.filter (fun r => r.src == i && (r.isRemote || r.isAmo || r.isInsert) && r.state != .refused)).map Req.id ++
    (((s.tile i.tile).flight.filter (fun f => f.core == i.core && f.slot == i.slot && (!f.writes.isEmpty || f.lands.isSome))).map Flight.ord)

/-- Some of these is still outstanding. -/
def State.anyPending (s : State) (t : BitVec 10) (ids : List Nat) : Bool :=
  s.reqs.any (fun r => ids.contains r.id && r.state != .refused) || (s.tile t).flight.any (fun f => ids.contains f.ord)

/-- A message of slot i for one destination, with its sequence number (R186, R201). -/
def State.makeMsg (s : State) (i : SlotId) (kind : BitVec 2) (d : Dest) (ts : List Title) (payload : List Word) (post : Bool) :
    OutBuf × State :=
  let v := s.slot i
  let c := s.ctx v.ctx
  let (q, s) := s.nextSeq i d
  let h := header kind d.chan i.tile 0x3FF (BitVec.ofNat 6 payload.length) (BitVec.ofNat 2 ts.length) c.key q
  let m : Msg := { hdr := h, titles := ts, payload := payload, src := some i, ctx := v.ctx, world := c.world, post := post, entry := v.entry }
  ({ msg := m, copies := [{ tile := d.tile, hdr := h }], peer := d.peer, ord := s.nextId,
     port := if d.peer = 0x3FF then none else s.portOf d.peer i.tile d.chan, waits := if post then s.pendingOf i else [], departed := !post }, s.fresh)

/-- A message of slot i is placed in the outbox (R201); its buffer must have been granted. -/
def State.sendMsg (s : State) (i : SlotId) (kind : BitVec 2) (d : Dest) (ts : List Title) (payload : List Word)
    (post : Bool := false) : State :=
  let (b, s) := s.makeMsg i kind d ts payload post
  (s.takeBuffer i b).2

/-- A message of slot i and context c is placed in buffer n, which is held for it, and takes its number as it is placed (R186, R226, R238); one
for a peer that no live port leads to any more ends in 0x59 (R34). -/
def State.placeInBuffer (s : State) (i : SlotId) (c : BitVec 8) (entry : BitVec 6) (n : Nat) (kind : BitVec 2) (d : Dest) (ts : List Title)
    (payload : List Word) : State :=
  let v := s.ctx c
  let (q, s) := s.nextSeq i d
  let h := header kind d.chan i.tile 0x3FF (BitVec.ofNat 6 payload.length) (BitVec.ofNat 2 ts.length) v.key q
  let m : Msg := { hdr := h, titles := ts, payload := payload, src := some i, ctx := c, world := v.world, entry := entry }
  if d.peer ≠ 0x3FF ∧ s.livePorts = [] then
    ((s.freeBuffer i.tile n).releaseBack (clusterOf i.tile) ts).deferred c 0x59
      { tile := i.tile, core := i.core, slot := i.slot, entry := entry, peer := d.peer, info := chanInfo d.chan d.tile }
  else
    let o : OutBuf := { msg := m, copies := [{ tile := d.tile, hdr := h }], peer := d.peer, ord := s.nextId, res := (s.tile i.tile).bufRes n,
                        port := if d.peer = 0x3FF then none else s.portOf d.peer i.tile d.chan }
    (s.modTile i.tile (fun t => { t with outbox := put t.outbox n o })).fresh

/-- What became of an arriving message. -/
inductive Arrival where
  | accepted (s : State)
  | refused
  | gone (s : State)

/-- A message arrives at tile d (R49, R65, R72, R149, R374). [log 20 DEDUCED, 34 DEDUCED] -/
def State.arriveAt (s : State) (d : BitVec 10) (m : Msg) : Arrival :=
  let t := s.tile d
  let ch := hdrChan m.hdr
  let src : FaultRec := match m.src with
    | some i => { tile := i.tile, core := i.core, slot := i.slot, entry := m.entry, info := chanInfo ch d, peer := hdrPeer m.hdr }
    | none => { tile := hdrTile m.hdr, info := chanInfo ch d, peer := hdrPeer m.hdr }
  let cl := clusterOf (hdrTile m.hdr)
  match t.owner ch with
  | none => .gone ((s.releaseBack cl m.titles).deferred m.ctx 0x58 src)
  | some e =>
    let gate := (t.entry ch).valid && (t.entry ch).gateOn
    let rc := s.ctx e.ctx
    let pass := hdrKind m.hdr == 3 || (if gate then hdrKey m.hdr == (t.entry ch).gkey else m.world == rc.world)
    if !pass then
      let w : Nat := b2n rc.world
      let s := (s.releaseBack cl m.titles).deferred m.ctx 0x51 src
      .gone { s with board := { s.board with superQ := put s.board.superQ w (find [] s.board.superQ w ++ [m]) } }
    else
      let foreign := m.titles.filter (fun x => x.ctx != e.ctx && !x.isShare)
      let outside := (m.host && m.src.isNone) || m.ctx != e.ctx || m.src.isNone
      if rc.rerun == 2 && outside && hdrKind m.hdr != 3 then .refused
      else if !hasRoom rc.table rc.tableSize foreign.length 1 then .refused
      else
        let own := hdrKind m.hdr == 3 || (match m.src with
          | some i => i.tile == d && m.ctx == e.ctx && hdrPeer m.hdr == 0x3FF
          | none => false)
        match (t.chan ch).arrive own (rc.state != 1) m with
        | some c => .accepted (s.modChan d ch (fun _ => c))
        | none => .refused

end Sys2Proof.Machine
end

