-- ==== Sys2Proof/Machine/Firing.lean ====
section
/-! DEFINITION. Selection and dispatch (R52 to R56), the spawn pool (R59), the end of a firing (R57, R83, R127, R289, R308), and
the hand-over of `EXIT.S` (R58). -/

namespace Sys2Proof.Machine

/-- The allotted runs of a tile's slab in order of address, in 4 KiB units (R52, R53). -/
def State.slabRuns (s : State) (t : BitVec 10) : List (Nat × Nat) :=
  let own := ((slotsOf t).map s.slot).filterMap (fun v => if v.slabLen > 0 then some (v.slabBase / 4096, v.slabLen / 4096) else none)
  let joint := (s.tile t).joint.map (fun r => (r.2.2.1 / 4096, r.2.2.2 / 4096))
  (own ++ joint).foldl (fun m r => insertRun r.1 r.2 m) []

/-- The lowest run of n units of the 256 KiB slab (R52, R54). -/
def State.slabRun (s : State) (t : BitVec 10) (n : Nat) : Option Nat := lowestRun n 64 0 (s.slabRuns t)

/-- The slab pages of a grant are zeroed where another domain had them (R64, R86). -/
def State.grantSlab (s : State) (t : BitVec 10) (base n : Nat) (d : BitVec 10) : State :=
  (List.range n).foldl (fun s j =>
    let pg := base + j
    let tl := s.tile t
    let s := if find d tl.slabDom pg = d then s else s.store (slabKey t (pg * 4096)) (List.replicate 4096 0)
    s.modTile t (fun v => { v with slabDom := put v.slabDom pg d })) s

/-- The spawn record that a selection of entry e would take: the oldest pending one (R59). -/
def Tile.spawnFor (t : Tile) (e : BitVec 6) : Option SpawnRec := t.pool.find? (fun r => r.entry == e)

/-- Condition 2 of R52. -/
def Tile.inputsReady (t : Tile) (n : BitVec 6) : Bool :=
  let e := t.entry n
  (t.spawnFor n).isSome ||
    ((e.rateP != 0 || e.rateS != 0) && (t.chan n).unreserved ≥ e.rateP.toNat &&
      (match e.sec with
       | some c => (t.chan c).unreserved ≥ e.rateS.toNat
       | none => true))

/-- Conditions 3 and 4 of R52 (also R60): outbox buffers, and a slab run unless the entry is of a joint pair. -/
def State.roomFor (s : State) (t : BitVec 10) (e : Entry) : Bool :=
  s.outFree t ≥ e.prod.toNat && (e.partner.isSome || e.slab == 0 || (s.slabRun t e.slab.toNat).isSome)

/-- R52, without the outbox and slab of conditions 3 and 4. -/
def State.runnable (s : State) (t : BitVec 10) (n : BitVec 6) : Bool :=
  let e := s.entry t n
  e.valid && !e.mask && (s.ctx e.ctx).state == 1 && (s.tile t).inputsReady n && s.roomFor t e

/-- The lowest-numbered free slot of a core (R54). -/
def State.freeSlot (s : State) (t : BitVec 10) (core : Bool) : Option SlotId :=
  ((List.range 4).map (fun n => (⟨t, core, BitVec.ofNat 2 n⟩ : SlotId))).find? (fun i => !(s.slot i).busy)

/-- R162: the seed of L for a slot and firing serial. [log 9 DEDUCED] -/
def lfsrSeed (rseed : BitVec 16) (serial : BitVec 32) (i : SlotId) : BitVec 16 :=
  let v := rseed ^^^ serial.setWidth 16 ^^^ BitVec.ofNat 16 ((i.tile.toNat * 8 + b2n i.core * 4 + i.slot.toNat) * 8)
  if v = 0 then 0xACE1 else v

/-- The x registers of a starting firing (R56, R58): a0, a1, a2–a5, sp, gp. -/
def startRegs (i : SlotId) (globals : BitVec 56) (a0 a1 : Word) (args : List Word) : Vector Word 32 :=
  let z : Vector Word 32 := Vector.replicate 32 0
  let x := ((z.set 2 (BitVec.ofNat 64 (i.slot.toNat * 0x2000 + 0x2000))).set 3 (globals.setWidth 64)).set 10 a0
  let x := (x.set 11 a1).set 12 (args.getD 0 0)
  ((x.set 13 (args.getD 1 0)).set 14 (args.getD 2 0)).set 15 (args.getD 3 0)

/-- The view registers at dispatch (R56, R213). -/
def startViews : Vector View 4 :=
  (((Vector.replicate 4 (viewOf 0 1)).set 1 (viewOf 0b1001100 16)).set 2 (viewOf 0b1001100 16)).set 3 (viewOf 0 16)

/-- A firing of entry n starts in free slot i (R56, R60): registers, views, L, and its grants of outbox and slab. R162 names selection and
`EXIT.S` for the seed of L: a child that `RSPAWN` starts gets it in the same way. [log 9 DEDUCED, 70 DESIGN CHOICE] -/
def State.startFiring (s : State) (i : SlotId) (n : BitVec 6) (pc a0 a1 : Word) (args : List Word) (queue : Bool) : State :=
  let e := s.entry i.tile n
  let c := s.ctx e.ctx
  let old := s.slot i
  let serial := old.serial + 1
  let base := if e.partner.isSome ∨ e.slab = 0 then 0 else (s.slabRun i.tile e.slab.toNat).getD 0
  let len := if e.partner.isSome then 0 else e.slab.toNat
  let s := s.grantSlab i.tile base len c.domain
  s.setSlot i { ({} : Slot) with
    busy := true, entry := n, ctx := e.ctx, x := startRegs i c.globals a0 a1 args, pc := pc, vw := startViews,
    lfsr := lfsrSeed c.rseed serial i, serial := serial, chainId := serial, chain := 1, slabBase := base * 4096,
    slabLen := len * 4096, outRes := e.prod.toNat, aseq := old.aseq, mseq := old.mseq, fromQueue := queue }

/-- Selection's marks on the entry (R54): AGE is cleared and EPRIO returns to PRIO. -/
def State.chosen (s : State) (t : BitVec 10) (n : BitVec 6) : State :=
  s.modEntry t n (fun e => { e with age := 0, eprio := e.prio })

/-- Records of a context's spawn queue for tile t, oldest first, move into the pool while that has room (R59). -/
def State.refillFrom (s : State) (t : BitVec 10) (c : BitVec 8) : Nat → State
  | 0 => s
  | n + 1 => match (s.ctx c).spawnQ.find? (fun r => r.tile == t) with
    | none => s
    | some r => if (s.tile t).pool.length < 64 then
        State.refillFrom ((s.modCtx c (fun v => { v with spawnQ := removeFirst (fun x => x == r) v.spawnQ })).modTile t
          (fun v => { v with pool := v.pool ++ [{ r with queued := true }] })) t c n
      else s

/-- Queue records move into the room that the pool of tile t has, contexts in order of number (R59). [log 17 DEDUCED] -/
def State.refillPool (s : State) (t : BitVec 10) : State :=
  (s.ctxs.map (fun e => BitVec.ofNat 8 e.1)).foldl (fun s c => s.refillFrom t c 64) s

/-- The entries logged for a message that a firing reserves or takes (R145): its header, and the payload and title images of one
from outside the context. -/
def logOf (c : BitVec 8) (m : Msg) : List (Byte × Word) :=
  let outside := m.host || m.ctx != c || (m.src.isNone && hdrKind m.hdr != 3)
  (0x02, m.hdr) :: (if outside then m.payload.map (fun w => (0x03, w)) ++ m.titles.flatMap (fun t => t.dwords.map (fun w => (0x04, w))) else [])

def State.logAll (s : State) (i : SlotId) (es : List (Byte × Word)) : State := es.foldl (fun s e => s.log i e.1 e.2) s

/-- Whether an empty message without titles comes from outside the context, as far as its header says it (R149): a peer, another key, or
a source tile that the context is not placed on. [log 20 DEDUCED] -/
def State.strange (s : State) (c : BitVec 8) (h : Word) : Bool :=
  hdrLen h == 0 && hdrNt h == 0 &&
    (hdrPeer h != 0x3FF || hdrKey h != (s.ctx c).key || !(s.ctx c).placed.contains (hdrTile h))

/-- No firing of context c but the one in slot i, if any, is left to send a message, and none of its messages is on its way. [log 20 DEDUCED] -/
def State.senderless (s : State) (c : BitVec 8) (i : SlotId) : Bool :=
  s.slots.all (fun e => !e.2.busy || e.2.ctx != c || e.1 == SlotId_num i) && s.tiles.all (fun e => e.2.outbox.all (fun b => b.2.msg.ctx != c))

/-- A message read back from the log (R149): header, payload and title images of one from outside; and what follows it. -/
structure LoggedMsg where
  hdr : Word
  outside : Bool
  payload : List Word
  images : List Word
  used : Nat

def takeKind (k : Byte) : Nat → List LogEntry → List Word × List LogEntry
  | 0, es => ([], es)
  | _, [] => ([], [])
  | n + 1, e :: es => if e.kind = k then let (ws, r) := takeKind k n es; (e.value :: ws, r) else ([], e :: es)

/-- The next message of a log, with what follows it. [log 20 DEDUCED] -/
def readLogged (es : List LogEntry) : Option (LoggedMsg × List LogEntry) :=
  match es with
  | [] => none
  | e :: rest =>
    if e.kind ≠ 0x02 then none
    else
      let (ps, r1) := takeKind 0x03 (hdrLen e.value).toNat rest
      let (is, r2) := takeKind 0x04 (4 * (hdrNt e.value).toNat) r1
      some ({ hdr := e.value, outside := e.outside || ps.length + is.length > 0, payload := ps, images := is,
              used := 1 + ps.length + is.length }, r2)

def readAllLogged : Nat → List LogEntry → List LoggedMsg
  | 0, _ => []
  | n + 1, es => match readLogged es with
    | some (m, r) => m :: readAllLogged n r
    | none => []

/-- What slot i still replays. -/
def State.streamOf (s : State) (i : SlotId) : List LogEntry :=
  (s.ctxOf i).replay.filter (fun e => e.tile == i.tile && e.core == i.core && e.slot == i.slot)
def State.streamIn (s : State) (c : BitVec 8) (i : SlotId) : List LogEntry :=
  (s.ctx c).replay.filter (fun e => e.tile == i.tile && e.core == i.core && e.slot == i.slot)
def dropMatching (p : LogEntry → Bool) : Nat → List LogEntry → List LogEntry
  | 0, es => es
  | n + 1, es => dropMatching p n (removeFirst p es)
def State.dropLogged (s : State) (c : BitVec 8) (i : SlotId) (n : Nat) : State :=
  let p := fun (e : LogEntry) => e.tile == i.tile && e.core == i.core && e.slot == i.slot
  s.modCtx c (fun v => { v with replay := dropMatching p n v.replay })

/-- A title supplied by firmware for a logged image (R149): a fresh entry with the logged BASE, LEN, LOC, PLACE and RIGHTS. -/
def State.supplyTitle (s : State) (c : BitVec 8) (ws : List Word) : Title × State :=
  let d0 := ws.getD 0 0
  match (s.ctx c).freeIndex with
  | none => ({}, s)
  | some n =>
    let t : Title := {
      index := BitVec.ofNat 20 n, kind := d0.extractLsb' 29 3, rights := d0.extractLsb' 24 5, world := (s.ctx c).world
      domain := (s.ctx c).domain, loc := d0.extractLsb' 11 2, ctx := c, base := (ws.getD 1 0).setWidth 56
      len := (ws.getD 2 0).setWidth 41, place := (ws.getD 3 0).extractLsb' 54 10 }
    (t, s.modTte c t.index (fun _ => { state := 2, kind := t.kind, rights := t.rights, loc := t.loc, base := t.base,
                                       len := t.len, place := t.place, world := t.world, domain := t.domain }))

def State.supplyTitles (s : State) (c : BitVec 8) : Nat → List Word → List Title × State
  | 0, _ => ([], s)
  | n + 1, ws =>
    let (t, s) := s.supplyTitle c ws
    let (ts, s) := State.supplyTitles s c n (ws.drop 4)
    (t :: ts, s)

/-- The logged message with a header, wherever it stands in a slot's entries. -/
def loggedAs (h : Word) : List LogEntry → Option LoggedMsg
  | [] => none
  | e :: es => if e.kind = 0x02 ∧ e.value = h then (readLogged (e :: es)).map Prod.fst else loggedAs h es

/-- The fields of a title image that a replayed take compares with its log: KIND, RIGHTS, LOC, BASE, LEN and PLACE (R149, R332); index and
generation are the replaying context's own. [log 20 DEDUCED] -/
def titleFields (ws : List Word) : List Nat :=
  [bits (ws.getD 0 0) 31 29, bits (ws.getD 0 0) 28 24, bits (ws.getD 0 0) 12 11, bits (ws.getD 1 0) 55 0, bits (ws.getD 2 0) 40 0,
   bits (ws.getD 3 0) 63 54]

/-- A logged message becomes reserved by slot i in its channel on the tile (R148, R149): one from outside the context is
injected unless it stands there already, as the answer to a performed `PTAKE.M` may (R332); another must be present. An injected reply is
kept in mind for such an answer. [log 20 DEDUCED, 71 DEDUCED] -/
def State.forceMsg (s : State) (c : BitVec 8) (i : SlotId) (hold : Bool) (m : LoggedMsg) : Option State :=
  let ch := hdrChan m.hdr
  let holder := if hold then some (i.core, i.slot) else none
  let absent := !(s.chan i.tile ch).recs.any (fun r => r.msg.hdr == m.hdr && (r.holder.isNone || r.holder == some (i.core, i.slot)))
  if absent ∧ (m.outside ∨ (s.strange c m.hdr ∨ (hdrLen m.hdr = 0 ∧ hdrNt m.hdr = 0 ∧ s.senderless c i))) then
    let (ts, s) := s.supplyTitles c (hdrNt m.hdr).toNat m.images
    let msg : Msg := { hdr := m.hdr, titles := ts, payload := m.payload, ctx := c, world := (s.ctx c).world }
    let s := if hdrKind m.hdr = 2 then s.modCtx c (fun v => { v with injected := v.injected ++ [(m.hdr, m.payload ++ m.images)] }) else s
    some (s.modChan i.tile ch (fun v => { v with recs := v.recs ++ [{ msg := msg, holder := holder }] }))
  else
    match ((s.chan i.tile ch).recs.findIdx? (fun r => r.holder.isNone && r.msg.hdr == m.hdr)) with
    | some n => some (s.modChan i.tile ch (fun v => { v with recs := v.recs.modify n (fun r => { r with holder := holder }) }))
    | none => none

def State.forceMsgs (s : State) (c : BitVec 8) (i : SlotId) : List LoggedMsg → Option State
  | [] => some s
  | m :: ms => match s.forceMsg c i true m with
    | some s => State.forceMsgs s c i ms
    | none => none

/-- Dispatch of entry n into slot i with the messages already reserved there (R56). A PC outside the bounds raises 0x52 against
the context that sent the spawn, and nothing starts. Where the table has no free entry for a title any more, a case that R56 and R75 leave
open, the firing starts with k0 to k2 empty, and the titles stay in the record until `RECV` or the end of the firing; where no message is reserved
at all (RATEP 0) R56 names no source, and a1 is the own tile. [log 16 DEDUCED, 17 DEDUCED, 68 DESIGN CHOICE, 70 DESIGN CHOICE] -/
def State.dispatchWith (s : State) (i : SlotId) (n : BitVec 6) (first : Option Msg) (a0 : Nat) : State :=
  let e := s.entry i.tile n
  let h := (i.core, i.slot)
  let spawn := match first with
    | some m => hdrKind m.hdr == 1
    | none => false
  let pc := match first with
    | some m => if spawn then m.payload.getD 0 0 else e.entryPc.setWidth 64
    | none => e.entryPc.setWidth 64
  if spawn && !(e.codeLo.toNat ≤ pc.toNat && pc.toNat < e.codeHi.toNat) then
    match first with
    | some m =>
      let ch := hdrChan m.hdr
      let s := match (s.chan i.tile ch).recs.findIdx? (fun r => r.holder == some h) with
        | some k => s.modChan i.tile ch (fun c => c.pop k)
        | none => s
      let s := s.modChan i.tile n (fun c => c.unreserve h)
      let s := match e.sec with
        | some c => s.modChan i.tile c (fun v => v.unreserve h)
        | none => s
      let src : FaultRec := match m.src with
        | some j => { tile := j.tile, core := j.core, slot := j.slot, entry := m.entry, info := chanInfo ch i.tile }
        | none => { tile := hdrTile m.hdr, info := chanInfo ch i.tile }
      (s.releaseBack (clusterOf i.tile) m.titles).deferred m.ctx 0x52 src
    | none => s
  else
    let a1 := match first with
      | some m => (hdrTile m.hdr).setWidth 64
      | none => i.tile.setWidth 64
    let args := match first with
      | some m => if spawn then (m.payload.drop 1).take 4 else []
      | none => []
    let s := s.startFiring i n pc (BitVec.ofNat 64 a0) a1 args false
    match first with
    | some m => match s.acquireAll i 0 m.titles with
      | some s => s.modChan i.tile (hdrChan m.hdr) (fun c =>
          match c.recs.findIdx? (fun r => r.holder == some h) with
          | some k => { c with recs := c.recs.modify k (fun r => { r with msg := { r.msg with titles := [] } }) }
          | none => c)
      | none => s
    | none => s

/-- The first message that slot i has reserved: of the primary channel, else of the secondary (R56). -/
def State.firstReserved (s : State) (i : SlotId) (n : BitVec 6) : Option Msg :=
  let h := some (i.core, i.slot)
  match (s.chan i.tile n).recs.find? (fun r => r.holder == h) with
  | some r => some r.msg
  | none => match (s.entry i.tile n).sec with
    | some c => ((s.chan i.tile c).recs.find? (fun r => r.holder == h)).map ChRec.msg
    | none => none

/-- Every message that slot i has reserved, primary channel first. -/
def State.reservedMsgs (s : State) (i : SlotId) (n : BitVec 6) : List Msg :=
  let h := some (i.core, i.slot)
  let of := fun (c : BitVec 6) => ((s.chan i.tile c).recs.filter (fun r => r.holder == h)).map ChRec.msg
  of n ++ (match (s.entry i.tile n).sec with
    | some c => of c
    | none => [])

/-- The value logged for a dispatch (R145, KIND 0x01). -/
def dispatchValue (n : BitVec 6) (count : Nat) (slot : BitVec 2) : Word :=
  BitVec.ofNat 64 (n.toNat + count * 64 + slot.toNat * 2 ^ 14)

/-- Dispatch of entry n in slot i (R54, R56, R59): an oldest spawn record is taken before messages. -/
def State.dispatch (s : State) (i : SlotId) (n : BitVec 6) : State :=
  let t := s.tile i.tile
  let e := t.entry n
  let s := s.chosen i.tile n
  match t.spawnFor n with
  | some r =>
    let s := s.modTile i.tile (fun v => { v with pool := removeFirst (fun x => x == r) v.pool })
    let s := s.refillPool i.tile
    if e.codeLo.toNat ≤ r.pc.toNat ∧ r.pc.toNat < e.codeHi.toNat then
      (s.startFiring i n r.pc 0 (i.tile.setWidth 64) r.args r.queued).log i 0x01 (dispatchValue n 0 i.slot)
    else s.deferred e.ctx 0x52 { tile := i.tile, entry := n, info := chanInfo n i.tile }
  | none =>
    let h := (i.core, i.slot)
    let s := s.modChan i.tile n (fun c => c.reserve h e.rateP.toNat)
    let s := match e.sec with
      | some c => s.modChan i.tile c (fun v => v.reserve h e.rateS.toNat)
      | none => s
    let ms := s.reservedMsgs i n
    let a0 := (s.chan i.tile n).recs.length
    let s := s.dispatchWith i n (s.firstReserved i n) a0
    if (s.slot i).busy then
      (s.log i 0x01 (dispatchValue n ms.length i.slot)).logAll i (ms.flatMap (logOf e.ctx))
    else s

/-- A forced dispatch of a replaying context (R148): the free slot whose next logged entry is a dispatch, with its messages; L starts from
the serial that the log gives the firing (R162). [log 20 DEDUCED] -/
def State.forcedDispatch (s : State) (i : SlotId) (c : BitVec 8) : Option State :=
  match s.streamIn c i with
  | [] => none
  | d :: es =>
    let n : BitVec 6 := d.value.extractLsb' 0 6
    let count := (d.value.extractLsb' 6 8).toNat
    let e := s.entry i.tile n
    if d.kind ≠ 0x01 ∨ !e.valid ∨ e.ctx ≠ c ∨ e.cclass ≠ i.core ∨ !s.roomFor i.tile e ∨ (s.ctx c).state ≠ 1 then none
    else if count = 0 then
      match (s.tile i.tile).spawnFor n with
      | some _ =>
        let s' := (s.dispatch i n).dropLogged c i 1
        some (if (s'.slot i).busy then s'.modSlot i (fun v => { v with lfsr := lfsrSeed (s.ctx c).rseed d.serial i }) else s')
      | none => none
    else
      let ms := readAllLogged count es
      match s.forceMsgs c i ms with
      | none => none
      | some s' =>
        let a0 := (s'.chan i.tile n).recs.length
        let s' := ((s'.chosen i.tile n).dispatchWith i n (s'.firstReserved i n) a0).dropLogged c i (1 + (ms.map LoggedMsg.used).sum)
        some (if (s'.slot i).busy then s'.modSlot i (fun v => { v with lfsr := lfsrSeed (s.ctx c).rseed d.serial i }) else s')

/-- The contexts that replay. -/
def State.replayingCtxs (s : State) : List (BitVec 8) :=
  (s.ctxs.map (fun e => BitVec.ofNat 8 e.1)).filter s.isReplaying

/-- A core would select an entry of a context whose log has run out: that context continues unforced (R148). [log 20 DEDUCED] -/
def State.endLogs (s : State) (i : SlotId) : State :=
  (s.replayingCtxs.filter (fun c => (s.ctx c).replay.isEmpty && (List.range 64).any (fun n =>
      let e := s.entry i.tile (BitVec.ofNat 6 n)
      e.ctx == c && e.cclass == i.core && s.runnable i.tile (BitVec.ofNat 6 n)))).foldl
    (fun s c => s.logEnd c { tile := i.tile, core := i.core, slot := i.slot }) s

def firstSome {α β : Type} (f : α → Option β) : List α → Option β
  | [] => none
  | a :: as => match f a with
    | some b => some b
    | none => firstSome f as

/-- The candidate that R54 picks: scanning on from last(core), the first of the highest EPRIO. -/
def pickEntry (cand : BitVec 6 → Bool) (eprio : BitVec 6 → Nat) (last : BitVec 6) : Option (BitVec 6) :=
  let all := (List.range 64).map (fun j => last + BitVec.ofNat 6 (j + 1))
  let cs := all.filter cand
  let top := cs.foldl (fun m e => Nat.max m (eprio e)) 0
  cs.find? (fun e => eprio e == top)

/-- One selection of a core (R54); none where nothing is selected. -/
def State.select (s : State) (t : BitVec 10) (core : Bool) : Option State :=
  match firstSome (fun c => firstSome (fun n => 
      let i : SlotId := ⟨t, core, BitVec.ofNat 2 n⟩
      if (s.slot i).busy then none else s.forcedDispatch i c) (List.range 4)) s.replayingCtxs with
  | some s' => some s'
  | none =>
    match s.freeSlot t core with
    | none => none
    | some i =>
      let s := s.endLogs i
      let tl := s.tile t
      let cand := fun n => (tl.entry n).cclass == core && !s.isReplaying (tl.entry n).ctx && s.runnable t n &&
        (!s.isRecording (tl.entry n).ctx || !tl.stagingFull)
      match pickEntry cand (fun n => (tl.entry n).eprio.toNat) (if core then tl.lastC else tl.lastS) with
      | none => none
      | some n =>
        let s := s.modTile t (fun v => if core then { v with lastC := n } else { v with lastS := n })
        some (s.dispatch i n)

/-- The slot that issued a job. -/
def Job.src (j : Job) : SlotId := ⟨j.tile, j.core, j.slot⟩

/-- Where a job's title or message goes: the context is the channel's owner when its issue was checked (R374). [log 14 DEDUCED] -/
def Job.dest (j : Job) : Dest :=
  let w := destWord j.card.cmpdst
  { peer := w.peer, tile := w.tile, chan := w.chan, ctx := j.destCtx }

/-- The titles in a slot's registers, but for those that a running `MV.XFER` has locked (R241). -/
def Slot.heldTitles (v : Slot) : List Title := ((v.k.toList.filter (fun r => !r.locked)).map TReg.img).filter (fun t => t.kind != 0)

/-- Every reserved message of slot i is popped (R57, R58, R127); the titles they still carry are acquired (R83). One from another context for
which the table has no room becomes unheld where it came from. [log 70 DESIGN CHOICE] -/
def State.popReserved (s : State) (i : SlotId) : List Title × State :=
  let n := (s.slot i).entry
  let ms := s.reservedMsgs i n
  let h := some (i.core, i.slot)
  let clear := fun (c : Chan) =>
    (List.range c.recs.length).reverse.foldl (fun (c : Chan) k =>
      match c.recs[k]? with
      | some r => if r.holder == h then c.pop k else c
      | none => c) c
  let s := s.modChan i.tile n clear
  let s := match (s.entry i.tile n).sec with
    | some c => s.modChan i.tile c clear
    | none => s
  (ms.flatMap Msg.titles).foldl (fun (a : List Title × State) t =>
    match a.2.acquire i t with
    | some (t', s') => (a.1 ++ [t'], s')
    | none => (a.1, a.2.setTteState t 3)) ([], s)

/-- Some access or job on a tile still uses a title (R57, R83). -/
def State.titleBusy (s : State) (t : BitVec 10) (x : Title) : Bool :=
  (s.tile t).flight.any (fun f => f.titles.contains (x.ctx, x.index)) ||
  s.reqs.any (fun r => r.src.tile == t && r.ctx == x.ctx && r.tindex == x.index && r.state != .refused)

/-- A title of an ended firing waits for what is under way under it, and for its shares and parts that stand there too (R57, R83). -/
def State.lateWaits (s : State) (e : BitVec 10 × Title) : Bool :=
  s.titleBusy e.1 e.2 || (!e.2.isShare && s.late.any (fun x => x.2.ctx == e.2.ctx && s.titleBusy x.1 x.2 &&
    ((x.2.isShare && x.2.index == e.2.index) || (!x.2.isShare && (s.tte x.2).parent == e.2.index))))

/-- Titles of ended firings are released as soon as nothing uses them (R57, R239). [log 31 DEDUCED, 46 DEDUCED] -/
def State.sweepLate (s : State) : State :=
  let go := s.late.filter (fun e => !s.lateWaits e)
  let s := { s with late := s.late.filter s.lateWaits }
  (s.releaseOrder Prod.snd go).foldl (fun s e => s.releaseBack (clusterOf e.1) [e.2]) s

/-- Deferred faults for the marks a firing ends with (R109): 0x35 for a poison mark, 0x36 for an indeterminate one. [log 29 DEDUCED] -/
def State.markFaults (s : State) (i : SlotId) (marks : Word) : State :=
  let v := s.slot i
  let r : FaultRec := { tile := i.tile, core := i.core, slot := i.slot, entry := v.entry }
  (List.range 32).foldl (fun s n =>
    let s := if marks.getLsbD n then s.deferred v.ctx 0x35 r else s
    if marks.getLsbD (32 + n) then s.deferred v.ctx 0x36 r else s) s

/-- The near-bank jobs on an opened granule (R357). -/
def Job.onGranule (j : Job) : Bool := j.kind == .bcast || j.kind == .run || j.kind == .read

/-- Whether a near-bank job on an opened granule is not final. -/
def State.granBusy (s : State) (g : Gran) : Bool :=
  s.jobs.any (fun j => j.onGranule && j.status.toNat < 3 && j.gran == some g.g)

/-- Granules whose firing has ended close when no job on them is left (R358). -/
def State.sweepGrans (s : State) : State := { s with grans := s.grans.filter (fun g => !g.closing || s.granBusy g) }

/-- The granules opened by the chain of slot i close, at once or when their jobs are final (R358). -/
def State.closeGrans (s : State) (i : SlotId) : State :=
  let v := s.slot i
  let mine := fun (g : Gran) => g.opener == i && g.chainId == v.chainId
  let left := s.grans.filter (fun g => !mine g || s.granBusy g)
  { s with grans := left.map (fun g => if mine g then { g with closing := true } else g) }

/-- Refusals of jobs that no firing of the chain has met are recorded when it ends (R141). [log 48 DEDUCED] -/
def State.tellRefusals (s : State) (i : SlotId) : State :=
  let mine := fun (j : Job) => j.src == i && j.chainId == (s.slot i).chainId
  (s.jobs.filter mine).foldl (fun (s : State) j => match j.untold with
    | some r => (s.modJob j.tile j.num (fun x => { x with untold := none })).deferred j.ctx 0x30 r
    | none => s) s

/-- The claim that slot i holds, with the accumulators and SAT bits (R289). -/
def State.claimed (s : State) (i : SlotId) : Option (Vector (Map (BitVec 32)) 4 × BitVec 4) :=
  let m := (s.tile i.tile).mxu
  if i.core && m.claim == some i.slot then some (m.acc, m.sat) else none

/-- The claim of slot i is free again (R289). -/
def State.releaseClaim (s : State) (i : SlotId) : State :=
  s.modTile i.tile (fun t => { t with mxu := if i.core && t.mxu.claim == some i.slot then { t.mxu with claim := none } else t.mxu })

/-- The slot is freed (R57, R127): messages popped, reservations, allotment, claim, granules and titles released, marks
recorded. Sequence numbers and the serial stay with the slot (R119, R146, R186). [log 29 DEDUCED] -/
def State.endFiring (s : State) (i : SlotId) : State :=
  let s := s.leaveQueues i
  let (ts, s) := s.popReserved i
  let v := s.slot i
  let s := s.markFaults i (if v.handler then v.marks ||| v.frame.marks else v.marks)
  let s := (s.closeGrans i).tellRefusals i
  let s := s.releaseClaim i
  let s := { s with late := s.late ++ (ts ++ v.heldTitles).map (fun t => (i.tile, t)) }
  (s.setSlot i { ({} : Slot) with serial := v.serial, aseq := v.aseq, mseq := v.mseq, frame := v.frame }).sweepLate

/-- What `EXIT` waits for (R57, R78, R289, R308): copies into the own tile SRAM, its landing arena among them, vector and matrix operations,
and jobs that hold the slab. -/
def Flight.holdsExit (f : Flight) (i : SlotId) : Bool :=
  let ownTile := fun (r : Region) => r.space == .tile i.tile
  let slab := fun (r : Region) => r.space == .slab i.tile
  f.core == i.core && f.slot == i.slot && (f.vm || f.lands == some (.tile i.tile) || f.writes.any (fun r => ownTile r || slab r) ||
    (!f.consumed && f.reads.any slab))
/-- Nothing that `EXIT` waits for is under way. [log 31 DEDUCED] -/
def State.exitReady (s : State) (i : SlotId) : Bool := (s.tile i.tile).flight.all (fun f => !f.holdsExit i)

def Job.isOf (j : Job) (i : SlotId) (c : BitVec 32) : Bool :=
  j.tile == i.tile && j.core == i.core && j.slot == i.slot && j.chainId == c

/-- A job is cancelled: its status is 0x7, at once, or where it holds a buffer for its message once that is placed (R238). [log 27 DEDUCED] -/
def Job.cancel (j : Job) : Job :=
  if j.buf.isSome then { j with status := 2, cancelled := true, paused := none, data := [] } else { j with status := 7, paused := none }

/-- Jobs with a property are cancelled; their scoreboard entries are given up (R239). -/
def State.cancel (s : State) (p : Job → Bool) : State :=
  let js := s.jobs.filter p
  let s := { s with jobs := s.jobs.map (fun j => if p j then j.cancel else j) }
  js.foldl (fun s j => s.modTile j.tile (fun t => { t with flight := t.flight.filter (fun f => f.ord != j.ord) })) s

/-- Jobs of a firing that have not started are cancelled (R127, R239). -/
def State.cancelJobs (s : State) (i : SlotId) (c : BitVec 32) : State := s.cancel (fun j => j.isOf i c && j.status == 0)

/-- Matrix instructions of the claim holder that have not started are discarded (R289). -/
def State.discardMatrix (s : State) (i : SlotId) : State :=
  s.modTile i.tile (fun t =>
    if i.core then
      let gone := (t.mxu.queue.filter (fun o => o.slot == i.slot)).map UnitOp.ord
      { t with mxu := { t.mxu with queue := t.mxu.queue.filter (fun o => o.slot != i.slot) }
               flight := t.flight.filter (fun f => !gone.contains f.ord) }
    else t)

/-- `ABANDON` awaits the firing's started jobs and its running vector and matrix operations (R127, R289), and a firing that kills its own
context every other firing of that (R127). [log 27 DEDUCED] -/
def State.abandonReady (s : State) (i : SlotId) : Bool :=
  (s.tile i.tile).flight.all (fun f => !(f.vm && f.core == i.core && f.slot == i.slot)) &&
    s.jobs.all (fun j => !(j.isOf i (s.slot i).chainId && (j.status == 1 || j.status == 2) && !j.cancelled)) &&
    ((s.slot i).ending != some .last || s.slots.all (fun e => e.1 == SlotId_num i || !e.2.busy || e.2.ctx != (s.slot i).ctx))

/-- A firing that is ending goes on: what has not started is given up, and the slot is freed when the rest is done. A running
microprogram stops at its next row boundary (R358). -/
def State.tryEnd (s : State) (i : SlotId) : State :=
  let v := s.slot i
  let s := (s.leaveQueues i).cancelJobs i v.chainId
  let s := s.discardMatrix i
  let stopRun := fun (j : Job) =>
    if j.isOf i v.chainId && j.kind == .run && j.status == 1 then { j with owned := false } else j
  let s := { s with jobs := s.jobs.map stopRun }
  if s.abandonReady i then s.endFiring i else s

end Sys2Proof.Machine
end

