-- ==== Sys2Proof/Machine/Control.lean ====
section
/-! DEFINITION. custom-0, groups 000 to 101: ending and creating firings, messages, channels, handlers, semaphores, jobs' status,
traps, views, identity and rerun marks (R193 to R216). -/

namespace Sys2Proof.Machine

/-- x(ra) and the argument registers a2 to a5. -/
def ra : XReg := 1
def argRegs : List XReg := [12, 13, 14, 15]

/-- The return of an inline child (R61). -/
def inlineReturn (s : State) : Res State :=
  let v := s.me
  match v.links with
  | [] => .ok s
  | l :: ls => .ok (s.setMe ((((v.setX ra l.ra).setX l.rd 0).retireTo (v.xr ra)) |> fun u => { u with links := ls }))

/-- The end of a firing (R57), in handler mode a fault (R128). [log 30 DEDUCED] -/
def exitBody (s : State) : Res State :=
  if s.me.handler then raise 0x74
  else if s.exitReady s.cur then .ok (s.endFiring s.cur)
  else waitIn s

def execExit (s : State) : Out :=
  .next (if s.me.links.isEmpty || s.me.handler then insn .ends [] exitBody s else insn .ends [ra] inlineReturn s)

/-- The successor's own reservations (R58). -/
def reserveOwn (s : State) (i : SlotId) (n : BitVec 6) : Res State :=
  let e := s.entry i.tile n
  let h := (i.core, i.slot)
  let s := s.modChan i.tile n (fun v => v.reserve h (Nat.min e.rateP.toNat v.unreserved))
  .ok (match e.sec with
    | some k => s.modChan i.tile k (fun v => v.reserve h (Nat.min e.rateS.toNat v.unreserved))
    | none => s)

/-- The successor's reservations (R58), or those the log forces (R148). -/
def reserveFor (s : State) (i : SlotId) (n : BitVec 6) : Res State :=
  let c := (s.slot i).ctx
  if s.isReplaying c then
    match s.streamIn c i with
    | [] => reserveOwn (s.logEnd c { tile := i.tile, core := i.core, slot := i.slot, entry := n }) i n
    | d :: es =>
      if d.kind ≠ 0x01 then raiseInfo 0x70 (d.value.setWidth 32)
      else
        let ms := readAllLogged (d.value.extractLsb' 6 8).toNat es
        match s.forceMsgs c i ms with
        | some s' => .ok (s'.dropLogged c i (1 + (ms.map LoggedMsg.used).sum))
        | none => waitIn s
  else reserveOwn s i n

/-- The serial that the successor's L starts from: its own, in replay that of the logged dispatch (R162). -/
def State.handSerial (s : State) (i : SlotId) : BitVec 32 :=
  match s.isReplaying (s.slot i).ctx, s.replayNext i with
  | true, some e => e.serial
  | _, _ => (s.slot i).serial + 1

/-- The cells of memory in [lo, lo + n), and memory with zeros there. -/
def cellsIn (m : List Host.Cell) (lo n : Nat) : List Host.Cell := m.filter (fun c => lo ≤ c.1 && c.1 < lo + n)
def clearCells (m : List Host.Cell) (lo n : Nat) : List Host.Cell := m.filter (fun c => !(lo ≤ c.1 && c.1 < lo + n))

/-- Slot i's chain has no operation, job or reply under way: what a parked successor takes along is at rest (R58, R64; log 23). [log 23 DEDUCED] -/
def State.chainQuiet (s : State) (i : SlotId) : Bool :=
  let v := s.slot i
  !v.anyDue && !(s.tile i.tile).flight.any (fun f => f.core == i.core && f.slot == i.slot) &&
    !s.jobs.any (fun j => j.isOf i v.chainId && j.status.toNat < 3)

/-- The state handed over is parked in the save area (R58, R64, R71): the slab allotment's bytes with it, and the accumulators where the
firing holds the claim, which it takes along (R289); its titles are parked. [log 23 DEDUCED] -/
def State.park (s0 : State) (i : SlotId) (u : Slot) : State :=
  let s := s0.releaseClaim i
  let s := u.heldTitles.foldl (fun (s : State) t => if t.isShare then s else s.setTteState t 4) s
  let k := slabKey i.tile u.slabBase
  let cs := cellsIn s.mem k u.slabLen
  let s : State := { s with mem := clearCells s.mem k u.slabLen }
  (s.modCtx u.ctx (fun c => { c with parked := c.parked ++ [{ sid := i, slot := u, matrix := s0.claimed i }]
                                     saved := { c.saved with cells := c.saved.cells ++ cs } })).setSlot i
    { ({} : Slot) with serial := u.serial, aseq := u.aseq, mseq := u.mseq }

/-- `EXIT.S`'s hand-over to entry n (R58, R196). [log 9 DEDUCED, 23 DEDUCED, 29 DEDUCED, 32 DEDUCED] -/
def handOver (s0 : State) (n : BitVec 6) : Res State := do
  let i := s0.cur
  waitUnless ((s0.ctxOf i).state != 2 || s0.chainQuiet i) s0
  waitUnless (s0.stagingRoom i) s0
  let (ts, s) := s0.popReserved i
  let v := s.slot i
  let s := s.setSlot i { v with outRes := 0, entry := n, granted := false }
  let s ← (match reserveFor s i n with
    | .error (.wait _) => waitIn s0
    | r => r)
  let e := s.entry i.tile n
  let c := s.ctx v.ctx
  let a0 := (s.chan i.tile n).recs.length
  let ms := s.reservedMsgs i n
  let serial := v.serial + 1
  let keep : Word := 0x0000F0000000F000
  let x := startRegs i c.globals (BitVec.ofNat 64 a0) (i.tile.setWidth 64) [v.x[12], v.x[13], v.x[14], v.x[15]]
  let none32 : Vector (Option Nat) 32 := Vector.replicate 32 none
  let due := (((none32.set 12 v.due[12]).set 13 v.due[13]).set 14 v.due[14]).set 15 v.due[15]
  let u : Slot := { v with
    entry := n, x := x, marks := v.marks &&& keep, due := due, pc := e.entryPc.setWidth 64,
    lfsr := lfsrSeed c.rseed (s0.handSerial i) i, serial := serial, instret := 0, wdog := 0, wdogTaken := false, links := []
    chain := v.chain + 1, outRes := Nat.min e.prod.toNat (s.outFree i.tile), granted := false, fromQueue := false }
  let s := { s with late := s.late ++ ts.map (fun t => (i.tile, t)) }
  let s := (s.setSlot i u).sweepLate
  let s := (s.log i 0x01 (dispatchValue n ms.length i.slot)).logAll i (ms.flatMap (logOf v.ctx))
  .ok (if c.state = 2 then s.park i u else s)

/-- `EXIT.S` (R58, R128, R196). [log 30 DEDUCED] -/
def execExitS (rs : XReg) (s : State) : Out := .next (insn .ends [rs] (fun s => do
  let v := s.me
  if v.handler then raise 0x74
  need v.links.isEmpty 0x53
  let w := v.xr rs
  need (w.toNat < 64) 0x53
  let n : BitVec 6 := w.setWidth 6
  let e := s.entry s.cur.tile n
  need (e.valid && e.ctx == v.ctx && e.cclass == s.cur.core) 0x53
  need (v.chain.toNat < 16) 0x54
  handOver s n) s)

/-- The bounds of an entry (R46). -/
def Entry.holds (e : Entry) (pc : Word) : Bool := e.codeLo.toNat ≤ pc.toNat && pc.toNat < e.codeHi.toNat

/-- R59: the pool, or else the context's spawn queue, admits a record. [log 17 DEDUCED] -/
def State.addSpawn (s : State) (c : BitVec 8) (fromQueue : Bool) (r : SpawnRec) : Option State :=
  let q := (s.ctx c).spawnQ
  let free := (s.ctx c).spawnCap - q.length
  if (s.tile r.tile).pool.length < 64 ∧ !q.any (fun x => x.tile == r.tile && x.entry == r.entry) then
    some (s.modTile r.tile (fun t => { t with pool := t.pool ++ [r] }))
  else if free > 8 ∨ (free > 0 ∧ fromQueue) then some (s.modCtx c (fun v => { v with spawnQ := v.spawnQ ++ [r] }))
  else none

/-- `SPAWN` (R59, R197). [log 17 DEDUCED] -/
def execSpawn (rs1 rs2 : XReg) (s : State) : Out := .next (insn .ends ([rs1, rs2] ++ argRegs) (fun s => do
  let v := s.me
  let w := v.xr rs1
  let pc := v.xr rs2
  need (w.toNat < 64) 0x53
  let n : BitVec 6 := w.setWidth 6
  let e := s.entry s.cur.tile n
  need (e.valid && e.ctx == v.ctx) 0x53
  needInfo (pc.toNat % 4 == 0 && e.holds pc) 0x52 (chanInfo n s.cur.tile)
  match s.addSpawn v.ctx v.fromQueue { tile := s.cur.tile, entry := n, pc := pc, args := argRegs.map v.xr } with
  | some s' => .ok s'.retire
  | none => waitIn s) s)

/-- The inline run of a declined child (R61): the PC against the caller's own bounds, the depth, and the link; `info` names the entry and
tile that the child was meant for. [log 17 DEDUCED] -/
def inlineRun (s : State) (i : SlotId) (rd : XReg) (pc : Word) (args : List Word) (info : BitVec 32) : Res State := do
  let v := s.slot i
  needInfo ((s.entryOf i).holds pc) 0x52 info
  need (v.links.length < 16) 0x55
  let u := (((v.setX 12 (args.getD 0 0)).setX 13 (args.getD 1 0)).setX 14 (args.getD 2 0)).setX 15 (args.getD 3 0)
  .ok (s.setSlot i { u.setX ra (v.pc + 4) with
    pc := pc, instret := v.instret + 1, wait := none, links := { ra := v.xr ra, rd := rd } :: v.links })

/-- The port through which a request for a home goes, where the home is at a peer (R34). -/
def State.homePort (s : State) (h : Home) (t : BitVec 10) : Option (BitVec 4) := match h with
  | .peer p => s.portOf p t 0
  | _ => none

/-- The packet of a request of a tile leaves where its home is on another die (R18). -/
def State.asks (s : State) (t : BitVec 10) (h : Home) (bytes : List Byte := []) : Option Nat × State := match h.die with
  | some d => s.departs (dieOf t) { dst := d, bytes := bytes }
  | none => (none, s)

/-- The packet of a reply to a tile leaves where the home is on another die (R18, R120). -/
def State.answers (s : State) (h : Home) (t : BitVec 10) : Option Nat × State := match h.die with
  | some d => s.departs d { dst := dieOf t, cls := 1 }
  | none => (none, s)

/-- A request of slot i to a home is sent (R119): its number, and the state with it. -/
def State.sendReq (s : State) (i : SlotId) (h : Home) (k : ReqKind) (rd : Option XReg) (ord : Bool) (ti : BitVec 20) (seq : BitVec 20)
    (va : Nat := 0) (bytes : List Byte := []) (serial : Nat := 0) : State :=
  let v := s.slot i
  let (n, s') := { s with nextId := s.nextId + 1 }.asks i.tile h bytes
  let r : Req := { id := s.nextId, src := i, chainId := v.chainId, ctx := v.ctx, seq := seq, home := h, kind := k, rd := rd, ord := ord,
                   tindex := ti, port := s.homePort h i.tile, entry := v.entry, va := va, packet := n, serial := serial }
  { s' with reqs := s'.reqs ++ [r] }

/-- A request is on its way to its home again, as f changes it (R119, R248). -/
def State.sendAgain (s : State) (r : Req) (f : Req → Req) : State :=
  let (n, s) := s.asks r.src.tile r.home
  s.modReq r.id (fun q => { f q with state := .sent, age := 0, packet := n })

/-- The home answers request r: the reply is on its way (R119). -/
def State.reply (s : State) (r : Req) (w : Word) (m : Mark) : State :=
  let (n, s) := s.answers r.home r.src.tile
  s.modReq r.id (fun q => { q with state := .replied w m, packet := n })

/-- Whether the packet of request r, or of its reply, has come to its die (R18); one that was lost with its link is sent once more. [log 55 DEDUCED] -/
def State.landed (s : State) (r : Req) : Bool × State :=
  match s.legOf r.packet with
  | .home => (true, (s.takePacket r.packet).modReq r.id (fun q => { q with packet := none }))
  | .away => (false, s)
  | .lost =>
    let (n, s) := match r.state with
      | .replied _ _ => s.answers r.home r.src.tile
      | _ => s.asks r.src.tile r.home
    (false, s.modReq r.id (fun q => { q with packet := n }))

/-- The spawn message leaves, with a header numbered as the slot's messages to that tile and channel (R60, R186), and the slot waits for the
reply. -/
def State.sendSpawn (s : State) (i : SlotId) (t : BitVec 10) (n : BitVec 6) (pc : Word) (args : List Word) (rd : XReg) : State :=
  let (q, s) := s.nextSeq i { peer := 0x3FF, tile := t, chan := n, ctx := (s.slot i).ctx }
  let ws := header 1 n i.tile 0x3FF 5 0 (s.ctxOf i).key q :: pc :: args
  (s.sendReq i (.tile t) (.spawn n pc args) (some rd) false 0 0 0 (wordsBytes ws)).modSlot i (fun v => { v with wait := some (.reply s.nextId) })

/-- The inline run of a child that the log declines: its entry is used up even where the run raises a cause (R146, R198). [log 20 DEDUCED] -/
def inlineReplayed (s : State) (i : SlotId) (rd : XReg) (pc : Word) (args : List Word) (info : BitVec 32) : Res State :=
  match inlineRun s i rd pc args info with
  | .error (.trap x) => .ok (s.fault i x)
  | r => r

/-- `RSPAWN` (R60, R61, R198): in replay a logged 0 runs the child inline and a logged 1 sends; what `RESUME` repeats takes the logged
value (R148). -/
def execRspawn (rd rs1 rs2 : XReg) (s : State) : Out := .next (insn .ends ([rs1, rs2, ra] ++ argRegs) (fun s => do
  let v := s.me
  let w := v.xr rs1
  let t : BitVec 10 := w.extractLsb' 6 10
  let info := chanInfo (w.extractLsb' 0 6) t
  needInfo (w.toNat < 65536) 0x58 info
  need (s.tile t).inService 0x53
  need (s.reach (dieOf s.cur.tile) (dieOf t)) 0x59
  let args := argRegs.map v.xr
  let i := s.cur
  let n : BitVec 6 := w.extractLsb' 0 6
  if s.isReplaying v.ctx then
    match s.replayNext i with
    | none => .ok ((s.logEnd v.ctx { tile := i.tile, core := i.core, slot := i.slot, entry := v.entry }).sendSpawn i t n (v.xr rs2) args rd)
    | some e =>
      let s1 := (s.modSlot i (fun u => { u with skipCheck := false })).replayPop i
      if v.skipCheck then
        if e.value = 0 then inlineReplayed s1 i rd (v.xr rs2) args info else .ok (s1.retireX rd e.value)
      else if e.kind ≠ 0x08 then raiseInfo 0x70 (if e.value.toNat < 2 ^ 32 then e.value.setWidth 32 else 0)
      else if e.value = 0 then inlineReplayed s1 i rd (v.xr rs2) args info
      else .ok (s.sendSpawn i t n (v.xr rs2) args rd)
  else .ok (s.sendSpawn i t n (v.xr rs2) args rd)) s)

/-- A message block (R200): kind, titles, payload. -/
structure Block where
  kind : BitVec 2
  regs : List KReg
  payload : List Word

def hasDup : List KReg → Bool
  | [] => false
  | k :: ks => ks.contains k || hasDup ks

/-- The block at a slot-private address; a fault in it is one about the destination (R132). [log 24 DEDUCED] -/
def readBlock (s : State) (i : SlotId) (a : Word) (info : BitVec 32) : Res Block := do
  let addr ← ownBlock i a 8
  let c := (s.ownWords i addr 1).getD 0 0
  let len := bits c 5 0
  let nt := bits c 9 8
  needInfo (bits c 63 24 == 0 && bits c 7 6 == 0) 0x58 info
  needInfo (bits c 23 22 == 0 || bits c 23 22 == 2) 0x58 info
  needInfo (len ≤ 32) 0x58 info
  let _ ← ownBlock i a (8 * (len + 1))
  let regs := ([c.extractLsb' 10 4, c.extractLsb' 14 4, c.extractLsb' 18 4] : List KReg).take nt
  needInfo (!hasDup regs) 0x58 info
  .ok { kind := c.extractLsb' 22 2, regs := regs, payload := (s.ownWords i addr (len + 1)).drop 1 }

/-- Every check of TitleOut on the named registers, towards the destination (R201). -/
def checkOuts (s : State) (i : SlotId) (d : Dest) (copies : Bool) : List KReg → Res Unit
  | [] => .ok ()
  | k :: ks => do
    let t ← (s.slot i).title k
    s.outChecks i t d copies
    checkOuts s i d copies ks

/-- The waits of TitleOut on the named registers. -/
def waitOuts (s : State) (i : SlotId) (d : Dest) : List KReg → Res State
  | [] => .ok s
  | k :: ks => do
    let t ← (s.slot i).title k
    let s ← s.outWait i t d false
    waitOuts s i d ks

/-- TitleOut of the named registers in order (R201). -/
def moveOuts (s : State) (i : SlotId) (d : Dest) : List KReg → Res (List Title × State)
  | [] => .ok ([], s)
  | k :: ks => do
    let (t, s) ← s.titleOut i k d
    let (ts, s) ← moveOuts s i d ks
    .ok (t :: ts, s)

/-- `SEND` and `POST` (R201, R203). -/
def sendBlock (post : Bool) (rs1 rs2 : XReg) (s : State) : State := insn .ends [rs1, rs2] (fun s => do
  let i := s.cur
  let d ← s.destOf i (s.me.xr rs1)
  let b ← readBlock s i (s.me.xr rs2) (chanInfo d.chan d.tile)
  checkOuts s i d false b.regs
  needBuffer s i
  let s ← waitOuts s i d b.regs
  let (ts, s) ← moveOuts s i d b.regs
  .ok (s.sendMsg i b.kind d ts b.payload post).retire) s

def execSend (rs1 rs2 : XReg) (s : State) : Out := .next (sendBlock false rs1 rs2 s)
def execPost (rs1 rs2 : XReg) (s : State) : Out := .next (sendBlock true rs1 rs2 s)

def execSendShort (rs : XReg) (tile : BitVec 10) (chan : BitVec 6) (s : State) : Out := .next (insn .ends [rs] (fun s => do
  let i := s.cur
  let d ← s.dest i { peer := 0x3FF, tile := tile, chan := chan }
  needBuffer s i
  .ok (s.sendMsg i 0 d [] [s.me.xr rs]).retire) s)

/-- A slab region of n bytes at offset o of the firing's slab (R214): its key, and the region; beyond the slab 0x06. -/
def State.slabRegion (s : State) (i : SlotId) (o n : Nat) : Res Region :=
  let (b, l) := s.slabOf i
  if o + n ≤ l then .ok { space := .slab i.tile, lo := b + o, hi := b + o + n } else raise 0x06

def Region.slabBytes (r : Region) (s : State) (t : BitVec 10) : List Byte := s.bytes (slabKey t r.lo) (r.hi - r.lo)

/-- The place of a vector view under vw0 (R214). -/
def View.viewAt (v : View) (n : VReg) : Nat := v.base + 256 * v.stride * n.toNat

/-- In replay, the message that the log gives the next `RECV`, present or injected (R148, R149). -/
def State.replayTake (s : State) (i : SlotId) (c : BitVec 6) : Res (Option Nat × State) :=
  let v := s.slot i
  if s.isReplaying v.ctx then
    let own := (s.chan i.tile c).choose (i.core, i.slot)
    match readLogged (s.streamOf i) with
    | none => .ok (own, if own.isSome ∧ (s.streamOf i).isEmpty then
        s.logEnd v.ctx { tile := i.tile, core := i.core, slot := i.slot, entry := v.entry } else s)
    | some (m, _) =>
      let here := fun (s : State) => (s.chan i.tile c).recs.findIdx? (fun r =>
        r.msg.hdr == m.hdr && (r.holder.isNone || r.holder == some (i.core, i.slot)))
      match here s with
      | some n => .ok (some n, s.dropLogged v.ctx i m.used)
      | none => match s.forceMsg v.ctx i false m with
          | some s' => .ok (here s', s'.dropLogged v.ctx i m.used)
          | none => .ok (none, s)
  else .ok ((s.chan i.tile c).choose (i.core, i.slot), s)

/-- vin (R256): the place of the message in the primary channel, and the state in which a replayed one stands there; none waits
never, but a replayed firing waits for the message that its log gives it (R148). [log 16 DEDUCED] -/
def State.vinChoose (s : State) (i : SlotId) : Res (Nat × State) := do
  let v := s.slot i
  let (n?, s1) ← s.replayTake i v.entry
  waitUnless (s.stagingRoom i) s
  match n?.bind (fun n => ((s1.chan i.tile v.entry).recs[n]?).map (fun r => (n, r))) with
  | none => if s.isReplaying v.ctx && (readLogged (s.streamOf i)).isSome then waitIn s else raise 0x07
  | some (n, r) => if hdrNt r.msg.hdr ≠ 0 then raiseInfo 0x58 (chanInfo v.entry i.tile) else .ok (n, s1)

/-- The 256 bytes of a message for vin (R256). -/
def vinBytes (m : Msg) : List Byte :=
  let bs := wordsBytes (m.payload.take 32)
  bs ++ List.replicate (256 - bs.length) 0

/-- Record n of a channel is popped by slot i, and logged (R145, R205); with `vin` the payload of a message from outside is logged with
the pop even where dispatch had reserved it (R256). -/
def State.takeRec (s : State) (i : SlotId) (c : BitVec 6) (n : Nat) (vin : Bool := false) : Msg × State :=
  match (s.chan i.tile c).recs[n]? with
  | none => ({}, s)
  | some r =>
    let s := s.modChan i.tile c (fun v => v.pop n)
    let es := if r.holder.isSome && !vin then [((0x02 : Byte), r.msg.hdr)] else logOf (s.slot i).ctx r.msg
    (r.msg, s.logAll i es)

/-- The bytes that vin takes (R256). -/
def State.vinTake (s : State) (i : SlotId) : Res (List Byte) := do
  let (n, s1) ← s.vinChoose i
  match (s1.chan i.tile (s.slot i).entry).recs[n]? with
  | some r => .ok (vinBytes r.msg)
  | none => raise 0x07

/-- vin is popped, once (R176, R256). -/
def State.vinPop (s : State) (i : SlotId) : State :=
  match s.vinChoose i with
  | .ok (n, s1) => (s1.takeRec i (s.slot i).entry n true).2
  | .error _ => s

/-- `SENDV` (R202, R231). STRIDE 0 of vw0 raises 0x05 for a slab view only: R231 does not say whether it means vin, which vw0 does not
locate. [log 68 DESIGN CHOICE] -/
def execSendv (rs1 : XReg) (vs : VReg) (s : State) : Out := .next (insn .ends [rs1] (fun s => do
  let i := s.cur
  let d ← s.destOf i (s.me.xr rs1)
  let vw := s.me.vwr 0
  if vs = vin then
    let (n, s1) ← s.vinChoose i
    needBuffer s i
    let (m, s) := s1.takeRec i s.me.entry n true
    .ok (s.sendMsg i 0 d [] (dwords 32 (vinBytes m))).retire
  else
    need (vw.stride != 0) 0x05
    let r ← s.slabRegion i (vw.viewAt vs) 256
    s.edges i [r] []
    needBuffer s i
    .ok (s.sendMsg i 0 d [] (dwords 32 (r.slabBytes s i.tile))).retire) s)

/-- The tiles of a `VOLLEY` set that are in service (R62, R204). -/
def volleySet (s : State) (w : Word) : List (BitVec 10) :=
  ((List.range 1024).map (BitVec.ofNat 10)).filter (fun t =>
    w.getLsbD (dieOf t).toNat && w.getLsbD (8 + t.toNat / 16 % 8) && w.getLsbD (16 + t.toNat % 16) && (s.tile t).inService)

/-- One copy for each tile, with its own sequence number (R204). -/
def volleyCopies (s : State) (i : SlotId) (kind : BitVec 2) (chan : BitVec 6) (len : Nat) : List (BitVec 10) → List Copy × State
  | [] => ([], s)
  | t :: ts =>
    let (q, s) := s.nextSeq i { peer := 0x3FF, tile := t, chan := chan, ctx := (s.slot i).ctx }
    let h := header kind chan i.tile 0x3FF (BitVec.ofNat 6 len) 0 (s.ctxOf i).key q
    let (cs, s) := volleyCopies s i kind chan len ts
    ({ tile := t, hdr := h } :: cs, s)

/-- `VOLLEY` (R62, R204). Where one of the set's tiles cannot be reached, 0x59 is raised for the whole and no copy leaves: the rules do
not say whether the others would. [log 68 DESIGN CHOICE] -/
def execVolley (rs1 rs2 : XReg) (s : State) : Out := .next (insn .ends [rs1, rs2] (fun s => do
  let i := s.cur
  let w := s.me.xr rs1
  let info := chanInfo (w.extractLsb' 32 6) 0
  needInfo (bits w 63 38 == 0) 0x58 info
  let b ← readBlock s i (s.me.xr rs2) info
  needInfo b.regs.isEmpty 0x58 info
  let ts := volleySet s w
  needInfo (!ts.isEmpty) 0x58 info
  need (ts.all (fun t => s.reach (dieOf i.tile) (dieOf t))) 0x59
  needBuffer s i
  let (cs, s) := volleyCopies s i b.kind (w.extractLsb' 32 6) b.payload.length ts
  let m : Msg := { hdr := (cs.getD 0 { tile := 0, hdr := 0 }).hdr, payload := b.payload, src := some i, ctx := s.me.ctx
                   world := (s.ctxOf i).world, entry := s.me.entry }
  .ok ((s.takeBuffer i { msg := m, copies := cs, ord := s.nextId }).2.fresh).retire) s)

/-- The channel that rs selects (R205 to R207): the secondary without SECEN raises 0x5A. -/
def State.inputChan (s : State) (i : SlotId) (second : Bool) : Res (BitVec 6) :=
  if second then match (s.entryOf i).sec with
    | some c => .ok c
    | none => raise 0x5A
  else .ok (s.slot i).entry

/-- `RECV` (R205). [log 16 DEDUCED] -/
def execRecv (rd : XReg) (kd : KReg) (rs : XReg) (s : State) : Out := .next (insn .ends [rs] (fun s => do
  let i := s.cur
  let w := s.me.xr rs
  let c ← s.inputChan i (rs != 0 && w.getLsbD 0)
  let keep := rs != 0 && !w.getLsbD 1
  let addr := w.toNat / 8 * 8
  if keep then
    if addr ≥ 2 ^ 56 then raiseVa 0x38 addr
    if (s.entryOf i).holds (BitVec.ofNat 64 addr) then raiseVa 0x3A addr
    if !(inOwn i.slot addr && addr + 256 ≤ (i.slot.toNat + 1) * 0x2000) then raiseVa 0x37 addr
  let (n?, s1) ← s.replayTake i c
  match n? with
  | none => waitIn s
  | some n =>
    match (s1.chan i.tile c).recs[n]? with
    | none => waitIn s
    | some r =>
      let nt := r.msg.titles.length
      need (kd.toNat + nt ≤ 16 &&
        (List.range nt).all (fun j => (s.me.kr (BitVec.ofNat 4 (kd.toNat + j))).img.kind == 0 &&
          !(s.me.kr (BitVec.ofNat 4 (kd.toNat + j))).locked)) 0x1F
      waitUnless (s.stagingRoom i) s
      let (m, s2) := s1.takeRec i c n
      match s2.acquireAll i kd.toNat m.titles with
      | none => raise 0x1B
      | some s3 =>
        let s4 := if keep then s3.store (coreKey i.tile i.core addr) (wordsBytes m.payload) else s3
        .ok (s4.retireX rd m.hdr)) s)

/-- `CHPOP` (R206). In replay it finds nothing, and waits for nothing, while the message that the log gives it is not there, and the entry
stays; where the next entry is no message it takes what stands in the channel: no entry says that a recorded `CHPOP` found nothing.
[log 16 DEDUCED, 68 DESIGN CHOICE] [log 16 DEDUCED, 68 DESIGN CHOICE] -/
def execChpop (rd rs : XReg) (s : State) : Out := .next (insn .none [rs] (fun s => do
  let i := s.cur
  let c ← s.inputChan i ((s.me.xr rs).getLsbD 0)
  let (n?, s1) ← s.replayTake i c
  match n? with
  | none => .ok (s.retireX rd (BitVec.allOnes 64))
  | some n =>
    match (s1.chan i.tile c).recs[n]? with
    | none => .ok (s.retireX rd (BitVec.allOnes 64))
    | some r =>
      if hdrNt r.msg.hdr ≠ 0 then raiseInfo 0x58 (chanInfo c i.tile)
      waitUnless (s.stagingRoom i) s
      let (m, s2) := s1.takeRec i c n
      .ok (s2.retireX rd m.hdr)) s)

/-- The messages that `CHCNT` counts (R207). -/
def Chan.countFor (c : Chan) (h : Bool × BitVec 2) : Nat :=
  (c.recs.filter (fun r => r.holder.isNone || r.holder == some h)).length

def execChcnt (rd rs : XReg) (s : State) : Out := .next (insn .none [rs] (fun s => do
  let i := s.cur
  let c ← s.inputChan i ((s.me.xr rs).getLsbD 0)
  let (w, s) ← s.rerun i 0x0B false (BitVec.ofNat 64 ((s.chan i.tile c).countFor (i.core, i.slot)))
  .ok (s.retireX rd w)) s)

/-- The entry named by a handler instruction (R208): bits [63:6] 0, valid, of the issuing context, else 0x53. -/
def State.namedEntry (s : State) (w : Word) : Res (BitVec 6) := do
  need (w.toNat < 64) 0x53
  let e := s.entry s.cur.tile (w.setWidth 6)
  need (e.valid && e.ctx == s.me.ctx) 0x53
  .ok (w.setWidth 6)

def execHmask (rs : XReg) (s : State) : Out := .next (insn .none [rs] (fun s => do
  let n ← s.namedEntry (s.me.xr rs)
  .ok (s.modEntry s.cur.tile n (fun e => { e with mask := true })).retire) s)

def execHunmask (rs : XReg) (s : State) : Out := .next (insn .none [rs] (fun s => do
  let n ← s.namedEntry (s.me.xr rs)
  .ok (s.modEntry s.cur.tile n (fun e => { e with mask := false })).retire) s)

def execHprio (rs1 rs2 : XReg) (s : State) : Out := .next (insn .none [rs1, rs2] (fun s => do
  let n ← s.namedEntry (s.me.xr rs1)
  let p : BitVec 3 := (s.me.xr rs2).setWidth 3
  .ok (s.modEntry s.cur.tile n (fun e => { e with prio := p, eprio := if e.eprio.toNat < p.toNat then p else e.eprio })).retire) s)

/-- The tile's semaphore that number n names for the context of slot i (R209). -/
def State.semIndex (s : State) (i : SlotId) (n : SemNo) : Nat :=
  (find (0, 0) (s.tile i.tile).semBlocks (s.slot i).ctx.toNat).1 + n.toNat

def State.semCount (s : State) (t : BitVec 10) (k : Nat) : BitVec 16 := find 0 (s.tile t).sems k
def State.setSem (s : State) (t : BitVec 10) (k : Nat) (c : BitVec 16) : State :=
  s.modTile t (fun v => { v with sems := put v.sems k c })

/-- What `SEM.V` waits for (R117, R191): the slot's byte copies of on-chip titles, which write a landing arena and zero their source, are
final, the slot's vector and matrix operations have consumed their operands, and its writes to
tile SRAM, cluster SRAM and the slab are performed. -/
def State.releaseReady (s : State) (i : SlotId) : Bool :=
  s.jobs.all (fun j => !(j.src == i && j.kind == .xfer && j.status.toNat < 3 && j.imgS.loc.toNat < 2 && j.far)) &&
  (s.tile i.tile).flight.all (fun f => !(f.core == i.core && f.slot == i.slot) ||
    ((!f.vm || f.consumed) && f.writes.all (fun r => match r.space with
      | .va _ | .core _ _ => true
      | .slab _ | .tile _ | .cluster _ => false)))

/-- `SEM.V` would wait now, at a full count (R194, R209). -/
def State.semFull (s : State) (n : SemNo) : Bool :=
  let k := s.semIndex s.cur n
  s.semCount s.cur.tile k == 65535 && !(s.tile s.cur.tile).semWaiters.any (fun w => w.1 == k)

/-- `SEM.V` (R117, R209); where it would wait it ends a scout (R140). [log 62 DEDUCED] -/
def execSemV (n : SemNo) (s : State) : Out := .next (insn (if s.semFull n then .ends else .none) [] (fun s => do
  let i := s.cur
  let k := s.semIndex i n
  waitUnless (s.releaseReady i) s
  match (s.tile i.tile).semWaiters.find? (fun w => w.1 == k) with
  | some w =>
    let s := s.modTile i.tile (fun t => { t with semWaiters := removeFirst (fun x => x.1 == k) t.semWaiters })
    .ok (s.modSlot ⟨i.tile, w.2.1, w.2.2⟩ Slot.retire).retire
  | none =>
    let c := s.semCount i.tile k
    waitUnless (c.toNat < 65535) s
    .ok (s.setSem i.tile k (c + 1)).retire) s)

/-- A wait for a semaphore begins in cycle `now`: behind the earlier ones, and in the order of core and slot among those of the same cycle
(R209). -/
def Tile.queueSem (t : Tile) (now : Word) (w : Nat × Bool × BitVec 2) : Tile :=
  let same := if t.semLast = now then t.semWaiters.filter t.semSame.contains else []
  let first := fun (x : Nat × Bool × BitVec 2) => b2n x.2.1 * 4 + x.2.2.toNat < b2n w.2.1 * 4 + w.2.2.toNat
  { t with semWaiters := t.semWaiters.filter (fun x => !same.contains x) ++ same.filter first ++ w :: same.filter (fun x => !first x)
           semLast := now, semSame := w :: same }

/-- `SEM.P` (R209). [log 62 DEDUCED] -/
def execSemP (n : SemNo) (s : State) : Out := .next (insn .ends [] (fun s =>
  let i := s.cur
  let k := s.semIndex i n
  let c := s.semCount i.tile k
  if c.toNat > 0 then .ok (s.setSem i.tile k (c - 1)).retire
  else waitIn (s.modTile i.tile (fun t => if t.semWaiters.contains (k, i.core, i.slot) then t
    else t.queueSem s.cycles[(dieOf i.tile).toNat] (k, i.core, i.slot)))) s)

def execSemTry (rd : XReg) (n : SemNo) (s : State) : Out := .next (insn .none [] (fun s => do
  let i := s.cur
  let k := s.semIndex i n
  let c := s.semCount i.tile k
  let (w, s) ← s.rerun i 0x09 true (if c.toNat > 0 then 1 else 0)
  .ok ((if w = 1 ∧ c.toNat > 0 then s.setSem i.tile k (c - 1) else s).retireX rd w)) s)

/-- The job a number names for the running firing (R210): else 0x62. -/
def State.knownJob (s : State) (w : Word) : Res Job :=
  let n : BitVec 16 := w.setWidth 16
  if w.toNat < 65536 ∧ s.me.known.contains n then
    match s.job? s.cur.tile n with
    | some j => .ok j
    | none => raise 0x62
  else raise 0x62

/-- A status of FAULT raises 0x30, with RETRY 0 and the job number in INFO (R132, R141, R210). [log 48 DEDUCED] -/
def statusOf (j : Job) : Res Word :=
  if j.status = 6 then raiseInfo 0x30 (j.num.setWidth 32) else .ok (j.status.setWidth 64)

def execWaitj (rd rs : XReg) (s : State) : Out := .next (insn .ends [rs] (fun s => do
  let j ← s.knownJob (s.me.xr rs)
  waitUnless (j.status.toNat ≥ 3) s
  let w ← statusOf j
  .ok (s.retireX rd w)) s)

def execJstat (rd rs : XReg) (s : State) : Out := .next (insn .none [rs] (fun s => do
  let j ← s.knownJob (s.me.xr rs)
  let w ← statusOf j
  let (w, s) ← s.rerun s.cur 0x0A false w
  .ok (s.retireX rd w)) s)

def execTrap (rs : XReg) (s : State) : Out := .next (insn .none [rs] (fun _ => raise 0x04) s)

/-- The double words of a fault record (R132). -/
def FaultRec.conts (r : FaultRec) : Nat := if r.scout.length > 2 then (r.scout.length - 2 + 6) / 7 else 0
def FaultRec.dword0 (r : FaultRec) : Word :=
  (1 : BitVec 1) ++ r.typ ++ r.cause ++ r.ctx ++ r.tile ++ BitVec.ofBool r.core ++ r.slot ++ r.entry ++
    BitVec.ofNat 5 r.scout.length ++ BitVec.ofBool r.retry ++ BitVec.ofBool r.inl ++ BitVec.ofNat 2 r.conts ++ r.addrKind ++ r.seq
def FaultRec.primary (r : FaultRec) : List Word :=
  [r.dword0, r.pc.setWidth 64, r.addr.setWidth 64, r.tindex ++ r.tgen ++ r.insn, r.time,
   (r.peer.setWidth 64 <<< 54) ||| r.info.setWidth 64, r.scout.getD 0 0, r.scout.getD 1 0]
/-- Continuation record n (R133). -/
def FaultRec.cont (r : FaultRec) (n : Nat) : List Word :=
  let d0 : Word := (1 : BitVec 1) ++ (1 : BitVec 2) ++ r.cause ++ r.ctx ++ r.tile ++ BitVec.ofBool r.core ++ r.slot ++ (0 : BitVec 33)
  d0 :: (List.range 7).map (fun j => r.scout.getD (2 + 7 * n + j) 0)
def FaultRec.dwords (r : FaultRec) : List Word := r.primary ++ (List.range r.conts).flatMap r.cont

/-- Double word n of a frame's records (R126, R212). -/
def Frame.dword (f : Frame) (n : Nat) : Word := match f.record with
  | some r => if n < 24 then r.dwords.getD n 0 else 0
  | none => 0

def execKfault (rd rs : XReg) (s : State) : Out := .next (insn .none [rs] (fun s => do
  need s.me.handler 0x08
  .ok (s.retireX rd (s.me.frame.dword (s.me.xr rs).toNat))) s)

/-- One saved register of a frame (R212): x0 to x31, the PC, the mark word. -/
def Frame.saved (f : Frame) (n : BitVec 6) : Word :=
  if n.toNat = 0 then 0
  else if h : n.toNat < 32 then f.x[n.toNat]
  else if n = 32 then f.pc
  else if n = 33 then f.marks
  else 0
def Frame.replace (f : Frame) (n : BitVec 6) (w : Word) : Frame :=
  if n.toNat = 0 then f
  else if h : n.toNat < 32 then { f with x := f.x.set n.toNat w, marks := withMark f.marks (n.setWidth 5) .none }
  else if n = 32 then { f with pc := w }
  else if n = 33 then { f with marks := w }
  else f

def execKsave (rd rs1 rs2 : XReg) (s : State) : Out := .next (insn .none [rs1, rs2] (fun s => do
  let v := s.me
  need v.handler 0x08
  let a := v.xr rs1
  let n : BitVec 6 := a.setWidth 6
  let old := v.frame.saved n
  let v := if a.getLsbD 8 then { v with frame := v.frame.replace n (v.xr rs2) } else v
  .ok (s.setMe (v.setX rd old).retire)) s)

def execResume (s : State) : Out := .next (insn .none [] (fun s => do
  need s.me.handler 0x08
  .ok (s.setMe (s.me.fromFrame s.me.frame.pc))) s)

/-- `SKIPF` (R127); a skipped rerun mismatch also leaves its log entry behind (R148). [log 20 DEDUCED] -/
def execSkipf (s : State) : Out := .next (insn .none [] (fun s => do
  need s.me.handler 0x08
  let s' := if s.me.skipCheck then (s.replayPop s.cur).modSlot s.cur (fun v => { v with skipCheck := false }) else s
  .ok (s'.setMe (s'.me.fromFrame (s'.me.frame.pc + 4)))) s)

def execAbandon (s : State) : Out := .next (insn .none [] (fun s => do
  need s.me.handler 0x08
  .ok ((s.setMe (s.me.startEnding .abandon)).tryEnd s.cur)) s)

/-- The paused jobs of a context end with status 0x7 (R141). [log 27 DEDUCED] -/
def State.cancelPaused (s : State) (c : BitVec 8) : State := s.cancel (fun j => j.ctx == c && j.paused.isSome && j.status.toNat < 3)

/-- Context c is killed (R127): it stops, its firings end, and 0x72 is recorded. [log 27 DEDUCED] -/
def State.killCtx (s : State) (c : BitVec 8) : State :=
  let s := s.modCtx c (fun v => { v with state := 2, killed := true })
  let s := { s with slots := s.slots.map (fun (e : Nat × Slot) => if e.2.busy && e.2.ctx == c then (e.1, e.2.startEnding .kill) else e) }
  (s.cancelPaused c).deliver { typ := 2, cause := 0x72, ctx := c, time := s.time }

/-- `CTXKILL` (R127, R212): of the own context, the issuing firing ends last, at the `CTXKILL` itself. [log 27 DEDUCED] -/
def execCtxkill (rs : XReg) (s : State) : Out := .next (insn .none [rs] (fun s => do
  need ((s.ctxOf s.cur).func == 0) 0x08
  let c : BitVec 8 := (s.me.xr rs).setWidth 8
  if (s.ctx c).state = 0 ∨ (s.ctx c).world ≠ (s.ctxOf s.cur).world then .ok s.retire
  else if c = s.me.ctx then .ok ((s.killCtx c).modSlot s.cur (fun v => v.startEnding .last))
  else .ok (s.retire.killCtx c)) s)

def execView (vwd : VwReg) (ks : KReg) (rs : XReg) (s : State) : Out := .next (insn .none [rs] (fun s => do
  let i := s.cur
  let o := (s.me.xr rs).toNat
  need (o % 32 == 0) 0x05
  let t ← s.allow s.me ks rRD o 32
  s.edges i [t.region o 32] []
  let (bs, s) ← s.titleLoad i t o 32
  let ws := dwords 4 bs
  let v : View := { d0 := ws.getD 0 0, d1 := ws.getD 1 0, d2 := ws.getD 2 0, d3 := ws.getD 3 0 }
  need v.legal 0x05
  .ok (s.setMe { s.me with vw := s.me.vw.set vwd.toNat v }).retire) s)

def execViewq (rd : XReg) (vws : VwReg) (n : BitVec 2) (s : State) : Out := .next (insn .none [] (fun s =>
  .ok (s.retireX rd ((s.me.vwr vws).dword n))) s)

/-- `SLOTID`'s word (R215). -/
def slotWord (v : Slot) (i : SlotId) : Word :=
  (v.chain ++ BitVec.ofNat 5 v.links.length ++ v.entry ++ v.ctx ++ BitVec.ofBool i.core ++ i.slot).setWidth 64

def execSlotid (rd : XReg) (s : State) : Out := .next (insn .none [] (fun s => .ok (s.retireX rd (slotWord s.me s.cur))) s)

def execTileid (rd : XReg) (s : State) : Out := .next (insn .none [] (fun s =>
  .ok (s.retireX rd ((s.board.accelId ++ s.cur.tile).setWidth 64))) s)

def execRerunMark (rs : XReg) (s : State) : Out := .next (insn .none [rs] (fun s => do
  let (_, s) ← s.rerun s.cur 0x0D true (s.me.xr rs)
  .ok s.retire) s)

end Sys2Proof.Machine
end

