-- ==== Sys2Proof/Machine/Engine.lean ====
section
/-! DEFINITION. How the engines (Tramontane, the pool engines, the base dies) reach storage under a title: translation, world
check, the issuing cluster's cached bytes, poison by 64-byte units (R87, R95, R105 to R108, R239). -/

namespace Sys2Proof.Machine

/-- For whom an engine works: the cluster whose engine or TLB it uses, the issuing slot, the context, and the walker;
`base` for a base die, which works beside the line cache (R341, R349). -/
structure Eng where
  cl : BitVec 6
  src : SlotId
  ctx : BitVec 8
  by_ : Walker
  base : Bool := false

def Eng.purpose (g : Eng) (t : Title) : Purpose :=
  { ctx := g.ctx, world := t.world, domain := t.domain, title := some t, by_ := g.by_ }

/-- An engine as the base dies see it: near-bank jobs read memory from their base die (R341). -/
def Eng.asker (g : Eng) : Asker := { die := dieOfCluster g.cl, near := g.base }

/-- The line of title t in cluster cl that holds a physical address, if any. -/
def State.cached? (s : State) (cl : BitVec 6) (pa : Nat) (t : Title) : Option Line :=
  (s.cluster cl).lines.find? (fun l => l.isFor pa t)

/-- Bytes of HBM as the slot's stores left them: masked bytes of the own cluster's line over the memory (R105, R112). [log 19 DEDUCED] -/
def overlay (l : Option Line) (o : Nat) (bs : List Byte) : List Byte :=
  match l with
  | none => bs
  | some l => (List.range bs.length).map (fun i => if l.mask.getLsbD (o + i) then l.byteAt (o + i) else bs.getD i 0)

/-- Whether every byte of [o, o + n) of a line is masked. -/
def allMasked (l : Option Line) (o n : Nat) : Bool :=
  match l with
  | none => false
  | some l => (List.range n).all (fun i => l.mask.getLsbD (o + i))

/-- Whether the engine admits the world of a title (R87): Tramontane; of a base die that was found at issue (R346). -/
def State.engAdmits (s : State) (g : Eng) (t : Title) : Bool := g.base || s.unitAdmits (.tramontane g.cl) t.world

/-- An engine reads one piece of a 64-byte unit: its bytes, and whether the unit is bad (R108). Tramontane reads HBM through the lines of
its cluster (R103, R104, R284), and memory outside HBM through CXL.cache (R24). [log 19 DEDUCED] -/
def State.engPiece (s : State) (g : Eng) (t : Title) (o n : Nat) : Res (List Byte × Bool × State) := do
  let a := t.base.toNat + o
  if !s.engAdmits g t then raiseT 0x1A t
  if t.loc = 0 then
    needT ((s.tile t.place).world == t.world) 0x1A t
    .ok (s.bytes (tileKey t.place a) n, false, s)
  else if t.loc = 1 then
    let c := t.place.extractLsb' 4 6
    needT ((s.cluster c).world == t.world) 0x1A t
    .ok (s.bytes (clusterKey c a) n, false, s)
  else
    match ← s.translate g.cl (g.purpose t) a .read with
    | .here pa e =>
      let s ← s.setAccessed g.cl e true
      if pa ≥ hbmEnd then
        let (bs, bad) := s.paLoad pa n
        let l := s.cached? g.cl pa t
        .ok (overlay l (pa % 256) bs, bad && !allMasked l (pa % 256) n, s.takeHostLine pa)
      else if !g.base && (s.granOf (pa / 4096)).isNone then s.cachedRead g.cl pa n t
      else
        let (k, s) ← s.request g.asker t.domain pa
        let (bs, bad, s) := s.hbmLoad t.domain k n
        let l := s.cached? g.cl pa t
        .ok (overlay l (pa % 256) bs, bad && !allMasked l (pa % 256) n, s)
    | .peer p pa e =>
      if s.livePorts = [] then .error (.trap { cause := 0x59, peer := p })
      let s ← s.setAccessed g.cl e true
      if e.mode = 1 ∧ t.kind = 2 ∧ !g.base then s.cachedRead g.cl ((p.toNat + 1) * 2 ^ 48 + pa) n t
      else .ok (s.peerBytes (s.seenAt t) p pa n, s.peerBad (s.seenAt t) p pa n, s.countAccess e)

/-- An engine reads pieces in turn: the bytes, and the positions of bad bytes counted from `at_`. -/
def State.engRead (s : State) (g : Eng) (t : Title) (at_ : Nat) : List (Nat × Nat) → Res (List Byte × List Nat × State)
  | [] => .ok ([], [], s)
  | (o, n) :: ps => do
    let (bs, bad, s) ← s.engPiece g t o n
    let (rest, bads, s) ← State.engRead s g t (at_ + n) ps
    .ok (bs ++ rest, (if bad then (List.range n).map (fun i => at_ + i) else []) ++ bads, s)

/-- [o, o + n) of a title, in pieces of its 64-byte units (R69: bases are 256-byte aligned). -/
def unitPieces (o n : Nat) : List (Nat × Nat) := pieces (n / 64 + 2) o n

def State.engRange (s : State) (g : Eng) (t : Title) (o n : Nat) : Res (List Byte × List Nat × State) :=
  s.engRead g t 0 (unitPieces o n)

/-- After an engine's write the own cluster's line holds its sector no longer, nor the bytes written as dirty ones (R105). [log 19 DEDUCED] -/
def State.staleLine (s : State) (cl : BitVec 6) (pa n : Nat) (t : Title) : State :=
  let o := pa % 256
  s.modCluster cl (fun v => { v with lines := v.lines.map (fun l =>
    if l.isFor pa t then
      { (l.setValid (o / 64) false false) with mask := l.mask &&& ~~~(BitVec.ofNat 256 (2 ^ n - 1) <<< o) }
    else l) })

/-- An engine writes one piece of a 64-byte unit of SRAM; a unit that received a bad byte is all 0 (R108). -/
def State.engSram (s : State) (t : Title) (a : Nat) (bs : List Byte) (bad : Bool) : State :=
  let k := if t.loc = 0 then tileKey t.place else clusterKey (t.place.extractLsb' 4 6)
  if bad then s.store (k (a / 64 * 64)) (List.replicate 64 0) else s.store (k a) bs

/-- An engine writes one piece of a 64-byte unit where its address a has been translated to; `bad` says that the unit received a bad byte:
then it is poisoned (R108). -/
def State.engPutAt (s : State) (g : Eng) (t : Title) (a : Nat) (bs : List Byte) (bad : Bool) : Phys → Res State
  | .here pa e => do
    let s ← s.setAccessed g.cl e true
    if pa ≥ hbmEnd then
      let s := (s.paStore pa bs).staleLine g.cl pa bs.length t
      .ok (if bad then s.hbmPoisonUnit (paKey pa) else s)
    else
      let (k, s) ← s.request g.asker t.domain pa
      let u := k - pa % 64
      let s := s.staleLine g.cl pa bs.length t
      if bad then .ok (s.hbmPoisonUnit u)
      else if bs.length = 64 then .ok (s.hbmWriteUnit u t.domain bs)
      else
        let w := pa % 64
        let (s, done) := s.hbmMasked u t.domain (List.replicate w 0 ++ bs) (fun i => w ≤ i && i < w + bs.length)
        .ok (if done then s else s.deferred g.ctx 0x34
          { addrKind := 2, addr := BitVec.ofNat 56 pa, tindex := t.index, tgen := t.gen })
  | .peer p pa e => do
    let s ← s.setAccessed g.cl e true
    .ok ((s.peerWrite g.src g.ctx t p pa a bs bad).countAccess e)

/-- An engine writes one piece of a 64-byte unit under a title, with the checks of the access. [log 19 DEDUCED] -/
def State.engPut (s : State) (g : Eng) (t : Title) (o : Nat) (bs : List Byte) (bad : Bool) : Res State := do
  let a := t.base.toNat + o
  if !s.engAdmits g t then raiseT 0x1A t
  if t.loc = 0 then
    needT ((s.tile t.place).world == t.world) 0x1A t
    .ok (s.engSram t a bs bad)
  else if t.loc = 1 then
    needT ((s.cluster (t.place.extractLsb' 4 6)).world == t.world) 0x1A t
    .ok (s.engSram t a bs bad)
  else
    match ← s.translate g.cl (g.purpose t) a .write with
    | .here pa e => s.engPutAt g t a bs bad (.here pa e)
    | .peer p pa e =>
      if s.livePorts = [] then .error (.trap { cause := 0x59, peer := p })
      s.engPutAt g t a bs bad (.peer p pa e)

/-- An engine writes pieces in turn; a unit is bad where one of its bytes is. -/
def State.engWrite (s : State) (g : Eng) (t : Title) (at_ : Nat) (bads : List Nat) : List (Nat × List Byte) → Res State
  | [] => .ok s
  | (o, bs) :: ps => do
    let s ← s.engPut g t o bs (bads.any (fun b => at_ ≤ b && b < at_ + bs.length))
    State.engWrite s g t (at_ + bs.length) bads ps

/-- Bytes written from offset o of a title on. -/
def State.engStore (s : State) (g : Eng) (t : Title) (o : Nat) (bs : List Byte) (bads : List Nat) : Res State :=
  s.engWrite g t 0 bads (cutBytes (unitPieces o bs.length) bs)

/-- How far a run of accesses came: all made, waiting, or stopped by a cause. -/
inductive Progress where
  | all
  | waits
  | stops (x : TrapInfo)

/-- An engine reads on, piece by piece, from what it has got; `bad` are the positions of bad bytes in it. -/
def State.engMore (s : State) (g : Eng) (t : Title) : List (Nat × Nat) → List Byte → List Nat → State × List Byte × List Nat × Progress
  | [], got, bad => (s, got, bad, .all)
  | (o, n) :: ps, got, bad => match s.engPiece g t o n with
    | .ok (bs, b, s') => State.engMore s' g t ps (got ++ bs) (if b then bad ++ (List.range n).map (fun i => got.length + i) else bad)
    | .error (.wait s') => (s', got, bad, .waits)
    | .error (.trap x) => (s, got, bad, .stops x)

/-- An engine zeroes storage piece by piece; `z` counts the bytes. -/
def State.zeroMore (s : State) (g : Eng) (t : Title) : List (Nat × Nat) → Nat → State × Nat × Progress
  | [], z => (s, z, .all)
  | (o, n) :: ps, z => match s.engPut g t o (List.replicate n 0) false with
    | .ok s' => State.zeroMore s' g t ps (z + n)
    | .error (.wait s') => (s', z, .waits)
    | .error (.trap x) => (s, z, .stops x)

/-- What a `TSENDR` has got of its source: the bytes, whether one was bad, and the translations that zeroing the source will take. -/
structure Copied where
  bytes : List Byte
  bad : Bool
  pages : List TlbEntry

/-- A `TSENDR` reads one piece of its source, of which it will write zeros: both accesses are checked before the copy leaves, since after
the peer's answer the instruction raises no cause any more (R123, R226). [log 71 DEDUCED] -/
def State.copyPiece (s : State) (g : Eng) (t : Title) (c : Copied) (o n : Nat) : Res (Copied × State) := do
  let (bs, bad, s) ← s.engPiece g t o n
  let c := { c with bytes := c.bytes ++ bs, bad := c.bad || bad }
  if t.loc.toNat < 2 then .ok (c, s)
  else match ← s.translate g.cl (g.purpose t) (t.base.toNat + o) .write with
    | .here _ e | .peer _ _ e => .ok ({ c with pages := if c.pages.contains e then c.pages else c.pages ++ [e] }, s)

/-- The pieces are read as far as they can be. -/
def State.copyMore (s : State) (g : Eng) (t : Title) : List (Nat × Nat) → Copied → State × Copied × Progress
  | [], c => (s, c, .all)
  | (o, n) :: ps, c => match s.copyPiece g t c o n with
    | .ok (c', s') => State.copyMore s' g t ps c'
    | .error (.wait s') => (s', c, .waits)
    | .error (.trap x) => (s, c, .stops x)

/-- The source of a `TSENDR` that has been placed is zeroed piece by piece through the translations of its reads, and what the package has
no longer needs no zeros; the bytes zeroed, and whether all are. [log 71 DEDUCED] -/
def State.wipeMore (s : State) (g : Eng) (t : Title) (pages : List TlbEntry) : List (Nat × Nat) → Nat → State × Nat × Bool
  | [], z => (s, z, true)
  | (o, n) :: ps, z =>
    let a := t.base.toNat + o
    let bs := List.replicate n (0 : Byte)
    let r : Res State := if t.loc.toNat < 2 then .ok (s.engSram t a bs false)
      else match pages.find? (fun e => e.va ≤ a && a < e.va + e.size) with
        | some e => s.engPutAt g t a bs false (e.phys a)
        | none => .ok s
    match r with
    | .ok s' => State.wipeMore s' g t pages ps (z + n)
    | .error (.wait s') => (s', z, false)
    | .error (.trap _) => State.wipeMore s g t pages ps (z + n)

/-- Storage is zeroed under the domain of its title (R78), of which z bytes are zero already. -/
def State.zeroFrom (s : State) (g : Eng) (t : Title) (z : Nat) : State × Nat × Progress :=
  s.zeroMore g t (unitPieces z (t.bytes - z)) z

end Sys2Proof.Machine
end

