-- ==== Sys2Proof/Machine/TitleInsns.lean ====
section
/-! DEFINITION. custom-1, group 000: the title operations (R79 to R82, R219 to R228). -/

namespace Sys2Proof.Machine

/-- The engine view of slot i: its cluster, its context, its own walks. -/
def State.engOf (s : State) (i : SlotId) : Eng :=
  { cl := clusterOf i.tile, src := i, ctx := (s.slot i).ctx, by_ := .slot i (s.slot i).pc }

def execTnew (kd ka : KReg) (rs : XReg) (s : State) : Out := .next (insn .none [rs] (fun s => do
  let i := s.cur
  let ta ← s.me.title ka
  needT ta.isArena 0x11 ta
  s.me.needFree kd
  let n := ((s.me.xr rs).toNat + 255) / 256
  let run := n != 0 && (lowestRun n ta.len.toNat 0 (s.arenaMap ta.ctx ta.index)).isSome
  needT (!run || (s.ctx ta.ctx).freeIndex.isSome) 0x1B ta
  let (w, s) ← s.rerun i 0x0C true (if run then BitVec.ofNat 64 (256 * n) else 0)
  match if run then s.allotBlocks i ta n else none with
  | none => .ok (s.retireX rs w)
  | some (t, s) => .ok ((s.modSlot i (fun v => v.setK kd { img := t })).retireX rs w)) s)

def execTfree (kd ka : KReg) (s : State) : Out := .next (waitingInsn [] (fun s => do
  let i := s.cur
  let ta ← s.me.title ka
  needT ta.isArena 0x11 ta
  let t ← s.me.title kd
  needT (t.kind == 1 && t.ctx == ta.ctx && (s.tte t).parent == ta.index) 0x18 t
  needT ((s.tte t).shares == 0 && (s.tte t).carved == 0) 0x17 t
  waitUnless (!s.busyUnder i t) s
  let s ← if t.loc.toNat ≥ 2 then s.scanWB (clusterOf i.tile) t.ctx t.index else .ok s
  .ok ((s.freeToArena t).modSlot i (fun v => v.setK kd {})).retire) s)

/-- Rights that a share may carry (R68): a SHARE of RD and SEND, a CSHARE of AMO, RD and SEND. -/
def shareLimit (kind : BitVec 3) : BitVec 5 := if kind = 1 ∨ kind = 2 then 0b10010 else 0b10110
def shareKind (kind : BitVec 3) : BitVec 3 := if kind = 1 ∨ kind = 2 then 2 else 4

/-- Stores and engine writes that slot i issued under t and that are not performed (R79, R81). -/
def State.writesUnder (s : State) (i : SlotId) (t : Title) : Bool :=
  (s.tile i.tile).flight.any (fun f => f.core == i.core && f.slot == i.slot && f.titles.contains (t.ctx, t.index) &&
    meetsAny f.writes [t.region 0 t.bytes]) ||
  s.reqs.any (fun r => r.src == i && r.ctx == t.ctx && r.tindex == t.index && (match r.kind with
    | .remoteWrite .. => true
    | _ => false))

/-- A share t' of title t comes into kd, counted at the root (R79, R81). -/
def State.addShare (s : State) (i : SlotId) (kd : KReg) (t t' : Title) : State :=
  (s.modTte t.ctx t.index (fun e => { e with
    shares := e.shares + 1, splitAt := if e.shares = 0 then s.ticks else e.splitAt })).modSlot i (fun v => v.setK kd { img := t' })

/-- `TSPLIT` (R79, R222). What a WHOLE's holder has stored goes to memory: the generation that the last join brings would hide it in
the line cache (R80, R112; log 22). [log 22 DEDUCED] -/
def execTsplit (kd ks : KReg) (m : BitVec 5) (s : State) : Out := .next (waitingInsn [] (fun s => do
  let i := s.cur
  need (kd != ks) 0x1F
  s.me.needFree kd
  let t ← s.me.title ks
  needT (!t.isArena) 0x11 t
  needT (t.kind != 1 || (s.tte t).carved == 0) 0x15 t
  needT ((s.tte t).shares != BitVec.allOnes 20) 0x1C t
  waitUnless (!s.writesUnder i t) s
  let s ← if t.kind = 1 ∧ t.loc.toNat ≥ 2 then s.scanWB (clusterOf i.tile) t.ctx t.index else .ok s
  .ok (s.addShare i kd t { t with kind := shareKind t.kind, rights := t.rights &&& m &&& shareLimit t.kind }).retire) s)

/-- Lines of a title leave a cluster's cache: they hold bytes from before a carved part came home (R80, R224). [log 22 DEDUCED] -/
def State.dropLines (s : State) (cl : BitVec 6) (c : BitVec 8) (i : BitVec 20) : State :=
  s.modCluster cl (fun v => { v with lines := v.lines.filter (fun l => !(l.ctx == c && l.index == i)) })

/-- `TJOIN` (R80, R223). [log 22 DEDUCED] -/
def execTjoin (kd ks : KReg) (s : State) : Out := .next (waitingInsn [] (fun s => do
  let i := s.cur
  need (kd != ks) 0x16
  let r ← s.me.title kd
  let t ← s.me.title ks
  if t.isShare then
    needT (!r.isShare && r.ctx == t.ctx && r.index == t.index) 0x16 t
    .ok ((s.modSlot i (fun v => v.setK ks {})).joinShare t).retire
  else
    needT (t.kind == 1 && r.kind == 1 && !r.isArena && t.ctx == r.ctx && (s.tte t).parent == r.index) 0x16 t
    needT ((s.tte t).shares == 0 && (s.tte t).carved == 0) 0x17 t
    waitUnless (!s.busyUnder i t) s
    let s ← if t.loc.toNat ≥ 2 then s.scanWB (clusterOf i.tile) t.ctx t.index else .ok s
    let s := (s.freeEntry t.ctx t.index).dropLines (clusterOf i.tile) r.ctx r.index
    .ok ((s.modTte r.ctx r.index (fun e => { e with carved := e.carved - 1 })).modSlot i (fun v => v.setK ks {})).retire) s)

/-- `TNARROW` (R81, R224). [log 22 DEDUCED] -/
def execTnarrow (kd ks : KReg) (rs : XReg) (s : State) : Out := .next (waitingInsn [rs, rs + 1] (fun s => do
  let i := s.cur
  let off := (s.me.xr rs).toNat
  let w := s.me.xr (rs + 1)
  let len := bits w 63 8
  let m : BitVec 5 := w.setWidth 5
  need (bits w 7 5 == 0) 0x19
  let t ← s.me.title ks
  needT (off % 256 == 0 && len != 0 && off + 256 * len ≤ t.bytes) 0x19 t
  s.me.needFree kd
  let part : Title := { t with base := t.base + BitVec.ofNat 56 off, len := BitVec.ofNat 41 len, rights := t.rights &&& m }
  if t.isShare then
    needT ((s.tte t).shares != BitVec.allOnes 20) 0x1C t
    .ok (s.addShare i kd t part).retire
  else
    needT (t.kind == 1 && !t.isArena) 0x11 t
    needT ((s.tte t).carved != 4095) 0x1C t
    match (s.ctx t.ctx).freeIndex with
    | none => raiseT 0x1B t
    | some n =>
      waitUnless (!s.writesUnder i t) s
      let s ← if t.loc.toNat ≥ 2 then s.scanWB (clusterOf i.tile) t.ctx t.index else .ok s
      let (child, s) := s.newEntry t.ctx (BitVec.ofNat 20 n) part t.index i
      let s := s.modTte t.ctx t.index (fun e => { e with carved := e.carved + 1 })
      .ok (s.modSlot i (fun v => v.setK kd { img := child })).retire) s)

/-- `TSEND` of ks to destination d (R225). -/
def sendTitle (ks : KReg) (d : Dest) (s : State) : Res State := do
  let i := s.cur
  let t ← s.me.title ks
  s.outChecks i t d false
  needBuffer s i
  let (t, s) ← s.titleOut i ks d
  .ok (s.sendMsg i 0 d [t] []).retire

def execTsend (ks : KReg) (rs : XReg) (s : State) : Out := .next (insn .ends [rs] (fun s => do
  sendTitle ks (← s.destOf s.cur (s.me.xr rs)) s) s)

def execTsendShort (ks : KReg) (tile : BitVec 10) (chan : BitVec 6) (s : State) : Out := .next (insn .ends [] (fun s => do
  sendTitle ks (← s.dest s.cur { peer := 0x3FF, tile := tile, chan := chan }) s) s)

/-- The checks of `TSENDR` on its title (R226, R76, R91, R358), in its order. [log 13 DEDUCED] -/
def State.copyChecks (s : State) (i : SlotId) (t : Title) : Res Unit := do
  needT (t.has rSEND) 0x1D t
  needT (!t.isShare && t.kind != 3 && t.kind != 5) 0x1E t
  needT ((s.tte t).shares == 0) 0x17 t
  needT ((s.tte t).carved == 0) 0x15 t
  needT (!s.openUnder i t) 0x3D t

/-- The bytes of a `TSENDR` are read as far as they can be; with the last of them the request leaves (R226). [log 71 DEDUCED] -/
def State.readCopy (s : State) (i : SlotId) (t : Title) (ks : KReg) (r : Req) (w : Word) (c : Copied) : Res State :=
  let (s, c, p) := s.copyMore (s.engOf i) t (unitPieces c.bytes.length (t.bytes - c.bytes.length)) c
  let keep := fun (st : ReqState) => s.modReq r.id (fun x => { x with
    kind := .titleCopy ks w c.bytes c.bad, pages := c.pages, state := st })
  match p with
  | .all => waitIn (keep .sent)
  | .waits => waitIn (keep .unsent)
  | .stops x => Res.under t (.error (.trap x))

/-- The fresh WHOLE that a byte copy makes on another package, as the message to it names it: its rights are those of R78, and it has no
entry here. [log 71 DEDUCED] -/
def Title.onPeer (t : Title) : Title := { t with index := 0, gen := 0, rights := t.rights &&& 0b11010 }

/-- A request of a `TSENDR` goes, with the buffer held for its message. -/
def State.dropCopy (s : State) (r : Req) : State := match r.buf with
  | some b => (s.freeBuffer r.src.tile b).dropReq r.id
  | none => s.dropReq r.id

/-- A `TSENDR` whose peer has answered 0x3 or 0x5 is carried out: its source is zeroed, its entry freed, and the message with the fresh WHOLE
is placed in the buffer held for it (R78, R226); whether it is all done. Nothing holds it back but HBM, and no cause is raised. [log 71 DEDUCED] -/
def State.settleCopy (s : State) (i : SlotId) (ks : KReg) (r : Req) (w : Word) : State × Bool :=
  let t := ((s.slot i).kr ks).img
  match s.wipeMore (s.engOf i) t r.pages (unitPieces r.zeroed (t.bytes - r.zeroed)) r.zeroed with
  | (s, z, false) => (s.modReq r.id (fun x => { x with zeroed := z }), false)
  | (s, _, true) =>
    let d : Dest := { peer := (destWord w).peer, tile := (destWord w).tile, chan := (destWord w).chan, ctx := (s.slot i).ctx }
    let s := ((s.freeEntry t.ctx t.index).modSlot i (fun u => u.setK ks {})).dropReq r.id
    (match r.buf with
      | some b => s.placeInBuffer i r.ctx r.entry b 0 d [t.onPeer] []
      | none => s, true)

/-- A `TSENDR` under way goes on: it reads its source, waits for the peer, or is carried out (R226). -/
def State.copyOn (s : State) (i : SlotId) (rd : XReg) (ks : KReg) (r : Req) : Res State :=
  match r.state, r.kind with
  | .unsent, .titleCopy _ w got bad => s.readCopy i ((s.slot i).kr ks).img ks r w { bytes := got, bad := bad, pages := r.pages }
  | .replied v _, .titleCopy _ w _ _ =>
    if v = 4 then .ok ((s.dropCopy r).retireX rd 4)
    else match s.settleCopy i ks r w with
      | (s', true) => .ok (s'.retireX rd v)
      | (s', false) => waitIn s'
  | _, _ => waitIn s

/-- `TSENDR` (R226): the bytes go out with one request; the peer's answer (R32) ends the wait. Every check, of the marks on rs too, is made
before the request is. On 0x3 and 0x5 the source is zeroed, its entry freed and the message placed. [log 71 DEDUCED] -/
def execTsendr (rd : XReg) (ks : KReg) (rs : XReg) (s : State) : Out := .next (insn .ends [rs] (fun s => do
  let i := s.cur
  match s.copyOf i with
  | some r => s.copyOn i rd ks r
  | none =>
    let w := s.me.xr rs
    needInfo (w.extractLsb' 26 38 == 0#38 && (destWord w).peer != 0x3FF) 0x58 (chanInfo (destWord w).chan (destWord w).tile)
    if s.livePorts = [] then .error (.trap { cause := 0x59, peer := (destWord w).peer })
    let t ← s.me.title ks
    s.copyChecks i t
    match s.me.markCause [rs] with
    | some c => raise c
    | none =>
      needBuffer s i
      let s ← s.outWait i t { peer := (destWord w).peer, tile := 0, chan := 0, ctx := t.ctx } true
      let (b, s) := s.takeBuffer i { forJob := true, departed := false }
      let id := s.nextId
      waitIn ((s.sendReq i (.peer (destWord w).peer) (.titleCopy ks w [] false) (some rd) false 0 0 t.base.toNat).modReq id
        (fun r => { r with state := .unsent, buf := some b }))) s)

/-- A field of a title image (R227). -/
def Title.info (t : Title) (n : BitVec 5) : Word :=
  match n.toNat with
  | 0 => t.kind.setWidth 64
  | 1 => t.rights.setWidth 64
  | 2 => t.loc.setWidth 64
  | 3 => BitVec.ofNat 64 t.bytes
  | 4 => t.base.setWidth 64
  | 5 => t.place.setWidth 64
  | 6 => t.index.setWidth 64
  | 7 => t.gen.setWidth 64
  | 8 => t.domain.setWidth 64
  | 9 => (BitVec.ofBool t.world).setWidth 64
  | _ => t.ctx.setWidth 64

def execTinfo (rd : XReg) (ks : KReg) (n : BitVec 5) (s : State) : Out := .next (insn .none [] (fun s => do
  let t ← s.me.title ks
  .ok (s.retireX rd (t.info n))) s)

/-- The first cause that R73 would raise for the access that `TCHK` describes, 0 where none (R228). -/
def State.tchk (s : State) (t : Title) (w : Word) : Word :=
  let need : BitVec 5 := w.extractLsb' 59 5
  if t.rights &&& need ≠ need then 0x12
  else if bits w 47 0 + bits w 55 48 + 1 > t.bytes then 0x13
  else if need.getLsbD rWR ∧ (s.tte t).shares ≠ 0 then 0x14
  else if t.kind = 1 ∧ (s.tte t).carved ≠ 0 then 0x15
  else 0

def execTchk (rd : XReg) (ks : KReg) (rs : XReg) (s : State) : Out := .next (insn .none [rs] (fun s => do
  let t ← s.me.title ks
  .ok (s.retireX rd (s.tchk t (s.me.xr rs)))) s)

end Sys2Proof.Machine
end

