-- ==== Sys2Proof/Machine/Jobs.lean ====
section
/-! DEFINITION. Engine jobs: the checks and the issue that all of them share (R234 to R237, R347), the steps of a Tramontane job
(R238 to R244), its end and its message. -/

namespace Sys2Proof.Machine

/-- The engine's way to storage for a job. -/
def Job.eng (j : Job) : Eng := { cl := clusterOf j.tile, src := j.src, ctx := j.ctx, by_ := .job j.tile j.num, base := !j.isMove }

/-- The card at a slot-private address (R234, R235, R347): its eight double words. -/
def readCard (s : State) (i : SlotId) (a : Word) : Res (List Word) := do
  let addr ← ownBlock i a 64
  .ok (s.ownWords i addr 8)

/-- The fields of R235. -/
def cardOf (ws : List Word) : Card :=
  let d := fun n => ws.getD n 0
  { sk := (d 0).extractLsb' 28 4, dk := (d 0).extractLsb' 24 4, notify := (d 0).getLsbD 19, carry := (d 0).getLsbD 18,
    toslab := (d 0).getLsbD 17, mode := (d 0).getLsbD 16, tag := (d 0).setWidth 16, srcoff := (d 1).toNat, dstoff := (d 2).toNat,
    len := (d 3).toNat, cmpdst := d 4, fill := d 5, rows := (d 5).toNat, sstride := (d 6).toNat, dstride := (d 7).toNat }

/-- Ranges of n bytes at a and b overlap. -/
def overlaps (a b n : Nat) : Bool := a < b + n && b < a + n

/-- Some row of an `MV.2D` under one title overlaps its own source (R237, R243): the distance of row r is linear in r, so it is
smallest at an end or where it changes sign. -/
def rowsMeet (c : Card) : Bool :=
  let a : Int := (c.srcoff : Int) - c.dstoff
  let k : Int := (c.sstride : Int) - c.dstride
  let z : Int := if k = 0 then 0 else -a / k
  [0, (c.rows : Int) - 1, z - 1, z, z + 1].any (fun r => 0 ≤ r && r < c.rows && (a + r * k).natAbs < c.len)

/-- The card rules of R235, R237 and R244 that no title decides. They name CMPDST and not TAG for a card that sends no completion message:
its TAG may be anything. [log 70 DESIGN CHOICE] -/
def cardOk (k : JobKind) (ws : List Word) : Bool :=
  let d := fun n => ws.getD n 0
  let c := cardOf ws
  let two := k == .twoD
  let xfer := k == .xfer
  bits (d 0) 63 32 == 0 && bits (d 0) 23 20 == 0 && !c.mode && bits (d 1) 63 48 == 0 && bits (d 2) 63 48 == 0 &&
  bits (d 3) 63 33 == 0 && bits (d 6) 63 48 == 0 && bits (d 7) 63 48 == 0 &&
  c.srcoff % 8 == 0 && c.dstoff % 8 == 0 && c.sstride % 8 == 0 && c.dstride % 8 == 0 &&
  (k == .slab || !c.toslab) && (k == .get || !c.carry) && (c.notify || xfer || c.cmpdst == 0) &&
  (two || (c.sstride == 0 && c.dstride == 0)) && (two || k == .fill || c.fill == 0) &&
  (if xfer then c.dk == 0 && !c.notify && c.len == 0 && c.srcoff == 0 && c.dstoff == 0
   else 8 ≤ c.len && c.len ≤ 2 ^ 32 && c.len % 8 == 0) &&
  (!two || (1 ≤ c.rows && c.rows < 2 ^ 20 && (c.rows == 1 || c.len ≤ c.dstride) && !(c.sk == c.dk && rowsMeet c))) &&
  (k != .fill || (c.sk == 0 && c.srcoff == 0)) && (k != .get || c.notify) &&
  (k != .copy || c.sk != c.dk || !overlaps c.srcoff c.dstoff c.len) &&
  (k != .slab || ((if c.toslab then c.dk == 0 && c.dstoff % 256 == 0 else c.sk == 0 && c.srcoff % 256 == 0) && c.len % 256 == 0))

/-- R73 for a title that a job names (R236 step 2): a region outside the title raises 0x61. -/
def State.jobTitle (s : State) (k : KReg) (right : Nat) (o n : Nat) : Res Title := do
  let t ← s.me.title k
  needT (right == rSEND || t.isData) 0x11 t
  s.checkRange t right o n 0x61
  .ok t

/-- Bytes that a job covers under a title, from its first to its last row. -/
def Card.span (c : Card) (k : JobKind) (stride : Nat) : Nat := if k = .twoD then (c.rows - 1) * stride + c.len else c.len

def Title.onChip (t : Title) : Bool := t.loc.toNat < 2

/-- The source title of a job with its checks (R236, R237); empty where it has none. -/
def State.jobSource (s : State) (k : JobKind) (c : Card) : Res Title := do
  match k with
  | .xfer => s.jobTitle c.sk rSEND 0 0
  | .copy | .get | .twoD => s.jobTitle c.sk rRD c.srcoff (c.span k c.sstride)
  | .put =>
    let t ← s.jobTitle c.sk rRD c.srcoff c.len
    needT t.onChip 0x60 t
    .ok t
  | .slab => if c.toslab then s.jobTitle c.sk rRD c.srcoff c.len else .ok {}
  | _ => .ok {}

/-- The destination title of a job with its checks. -/
def State.jobTarget (s : State) (k : JobKind) (c : Card) : Res Title := do
  match k with
  | .copy | .fill | .twoD => s.jobTitle c.dk rWR c.dstoff (c.span k c.dstride)
  | .get =>
    let t ← s.jobTitle c.dk rWR c.dstoff c.len
    needT t.onChip 0x60 t
    .ok t
  | .put =>
    let t ← s.jobTitle c.dk rWR c.dstoff c.len
    needT (!t.onChip) 0x60 t
    .ok t
  | .slab => if c.toslab then .ok {} else s.jobTitle c.dk rWR c.dstoff c.len
  | _ => .ok {}

/-- The regions of n rows of len bytes under a title (R237, R243). -/
def rowRegions (t : Title) (o len stride n : Nat) : List Region := (List.range n).map (fun r => t.region (o + r * stride) len)

/-- Jobs of a slot that are not final (R236). -/
def State.placesUsed (s : State) (i : SlotId) : Nat :=
  (s.jobs.filter (fun j => j.tile == i.tile && j.core == i.core && j.slot == i.slot && j.status.toNat < 3)).length

/-- A job is issued: it waits for its place and, where a message is due, a buffer (R236); it takes the next number of the tile
(R234), enters the scoreboard (R113) and is known to its chain (R210). -/
def State.issueJob (s : State) (j : Job) (msg : Bool) (reads writes : List Region) (consumed : Bool) (rd : XReg)
    (lands : Option Space := none) : Res State := do
  let i := s.cur
  waitUnless (s.placesUsed i < 16) s
  if msg then needBuffer s i
  let num := (s.tile i.tile).jobSerial
  let (buf, s) := if msg then
      let (n, s) := s.takeBuffer i { forJob := true, departed := false }
      (some n, s)
    else (none, s)
  let v := s.slot i
  let ts := ([j.imgS, j.imgD].filter (fun t => t.kind != 0)).map (fun t => (t.ctx, t.index))
  let job := { j with
    tile := i.tile, num := num, core := i.core, slot := i.slot, chainId := v.chainId, ctx := v.ctx, buf := buf, ord := s.nextId,
    entry := v.entry }
  let s : State := { s with jobs := s.jobs.filter (fun (x : Job) => !(x.tile == i.tile && x.num == num)) ++ [job], nextId := s.nextId + 1 }
  let s := s.modTile i.tile (fun t => { t with
    jobSerial := t.jobSerial + 1
    flight := t.flight ++ [{ ord := job.ord, core := i.core, slot := i.slot, vm := false, reads := reads, writes := writes,
                             titles := ts, consumed := consumed, lands := lands }] })
  let s := s.modSlot i (fun u => { u with known := (u.known ++ [num]).drop ((u.known.length + 1) - 256) })
  .ok (s.retireX rd (num.setWidth 64))

/-- The destination of a job's message (R236 step 4); none where it sends none. -/
def State.jobDest (s : State) (k : JobKind) (c : Card) : Res (Option Dest) :=
  if c.notify || k == .xfer then do
    let d ← s.destOf s.cur c.cmpdst
    .ok (some d)
  else .ok none

/-- The checks of TitleOut that step 4 applies towards the message's destination. -/
def State.jobOut (s : State) (k : JobKind) (c : Card) (src dst : Title) (d : Option Dest) : Res Unit :=
  match d with
  | none => .ok ()
  | some d => do
    if k = .xfer then
      s.outChecks s.cur src d true
      needT (s.rightsOnly src d || src.kind != 1 || (s.tte src).shares == 0) 0x17 src
    if c.carry then s.outChecks s.cur dst d false

/-- The card at rs asks for a message. -/
def State.wantsBuffer (s : State) (k : JobKind) (rs : XReg) : Bool :=
  let v := match s.me.scout with
    | some sc => s.me.scoutView sc
    | none => s.me
  k == .xfer || (k != .zero && (match readCard s s.cur (v.xr rs) with
    | .ok ws => (cardOf ws).notify || (cardOf ws).carry
    | .error _ => false))

/-- What a job instruction is to a scout: where it would wait for a place or a buffer it ends it (R140, R218, R236). -/
def State.placeClass (s : State) (k : JobKind) (rs : XReg) : ScoutClass :=
  if s.placesUsed s.cur < 16 && (!s.wantsBuffer k rs || s.outGranted s.cur) then .none else .ends

/-- A Tramontane instruction (R234 to R237). [log 14 DEDUCED] -/
def moveJob (k : JobKind) (rd rs : XReg) (s : State) : State := insn (s.placeClass k rs) [rs] (fun s => do
  let i := s.cur
  let ws ← readCard s i (s.me.xr rs)
  need (cardOk k ws) 0x60
  let c := cardOf ws
  let src ← s.jobSource k c
  let dst ← s.jobTarget k c
  let (base, size) := s.slabOf i
  let slabOff := if c.toslab then c.dstoff else c.srcoff
  need (k != .slab || slabOff + c.len ≤ size) 0x06
  let d ← s.jobDest k c
  s.jobOut k c src dst d
  let slab : List Region :=
    if k = .slab then [{ space := .slab i.tile, lo := base + slabOff, hi := base + slabOff + c.len }] else []
  let n := if k = .twoD then c.rows else 1
  let far := k == .xfer && (match d with
    | some d => !s.rightsOnly src d
    | none => false)
  let dest := d.getD { peer := 0x3FF, tile := 0, chan := 0, ctx := 0 }
  let lands : Option Space :=
    if !far then none else if dest.peer = 0x3FF ∧ src.onChip then some (.tile dest.tile) else some (.va dest.ctx)
  let reads := if k = .xfer then (if far then [src.region 0 src.bytes] else [])
    else if src.kind = 0 then (if c.toslab then [] else slab)
    else rowRegions src c.srcoff c.len c.sstride n
  let writes := if k = .xfer then []
    else if dst.kind = 0 then slab else rowRegions dst c.dstoff c.len c.dstride n
  let job : Job := { tile := 0, num := 0, core := false, slot := 0, chainId := 0, ctx := 0, kind := k, card := c, imgS := src,
                     imgD := dst, slabBase := base, slabLen := size, destCtx := dest.ctx, far := far }
  let s' ← s.issueJob job d.isSome reads writes false rd lands
  let s' := if k = .xfer then s'.modSlot i (fun v => v.setK c.sk { (v.kr c.sk) with locked := true }) else s'
  .ok (if c.carry then s'.modSlot i (fun v => v.setK c.dk {}) else s')) s

def execMvCopy (rd rs : XReg) (s : State) : Out := .next (moveJob .copy rd rs s)
def execMvGet (rd rs : XReg) (s : State) : Out := .next (moveJob .get rd rs s)
def execMvPut (rd rs : XReg) (s : State) : Out := .next (moveJob .put rd rs s)
def execMvXfer (rd rs : XReg) (s : State) : Out := .next (moveJob .xfer rd rs s)
def execMvFill (rd rs : XReg) (s : State) : Out := .next (moveJob .fill rd rs s)
def execMv2D (rd rs : XReg) (s : State) : Out := .next (moveJob .twoD rd rs s)
def execMvSlab (rd rs : XReg) (s : State) : Out := .next (moveJob .slab rd rs s)

/-! ### Running jobs -/

/-- The scoreboard entry of a job. -/
def State.flightOf (s : State) (j : Job) : Option Flight := (s.tile j.tile).flight.find? (fun f => f.ord == j.ord)

/-- The near-bank jobs on one granule start in issue order (R357). -/
def Job.before (a b : Job) : Bool :=
  a.onGranule && b.onGranule && a.status.toNat < 3 && a.ord < b.ord && a.gran == b.gran

/-- Accesses and jobs of slot i under t that were issued before order number `ord` and are not complete (R74, R241). -/
def State.busyBefore (s : State) (i : SlotId) (t : Title) (ord : Nat) : Bool :=
  (s.tile i.tile).flight.any (fun f => f.core == i.core && f.slot == i.slot && f.ord < ord && f.titles.contains (t.ctx, t.index)) ||
  s.reqs.any (fun r => r.src == i && r.id < ord && r.ctx == t.ctx && r.tindex == t.index && t.index != 0)

/-- No earlier write of the same core to a peer that overlaps a job's regions awaits its acknowledgement (R113). -/
def State.remoteFree (s : State) (j : Job) (f : Flight) : Bool :=
  s.reqs.all (fun r => !(r.src.tile == j.tile && r.src.core == j.core && r.id < j.ord && r.state == .sent && (match r.kind, r.vaRange with
    | .remoteWrite .., some (lo, hi) => meetsAny [{ space := .va r.ctx, lo := lo, hi := hi }] (f.reads ++ f.writes)
    | _, _ => false)))

/-- Whether a queued job may start (R237): its edges, its granule's order, one of the cluster's 16 running places, and for
`MV.XFER` the wait of TitleOut. -/
def State.jobReady (s : State) (j : Job) : Bool :=
  j.status == 0 && j.paused.isNone &&
  (match s.flightOf j with
   | some f => (s.tile j.tile).edgeFree j.core f.reads f.writes j.ord && s.remoteFree j f
   | none => true) &&
  (!j.onGranule || s.jobs.all (fun x => !x.before j)) &&
  (!j.isMove || (s.jobs.filter (fun x => x.isMove && clusterOf x.tile == clusterOf j.tile && (x.status == 1 || x.status == 2))).length
    < 16) &&
  (j.kind != .xfer || !s.busyBefore j.src j.imgS j.ord)

def State.setJob (s : State) (j : Job) : State := s.modJob j.tile j.num (fun _ => j)

/-- A job stops with status FAULT (R239): the cause is recorded against its context at once; the job ends at `JOB_DONE`. [log 24 DEDUCED] -/
def State.failJob (s : State) (j : Job) (x : TrapInfo) : State :=
  (s.setJob { j with deferred := some (x.cause, x.addr.toNat), data := [] }).deferred j.ctx x.cause
    { tile := j.tile, core := j.core, slot := j.slot, entry := j.entry, addrKind := x.addrKind, addr := x.addr, tindex := x.tindex, tgen := x.tgen,
      peer := x.peer, info := j.num.setWidth 32 }

/-- Bytes for destination offset dst, cut along its 64-byte units, with the units that received a bad byte (R108). -/
def chunksOf (bads : List Nat) : Nat → List (Nat × List Byte) → List Chunk
  | _, [] => []
  | at_, (o, bs) :: ps =>
    { dst := o, bytes := bs, bad := bads.filter (fun b => at_ ≤ b && b < at_ + bs.length) } :: chunksOf bads (at_ + bs.length) ps
def cutChunks (dst : Nat) (bs : List Byte) (bads : List Nat) : List Chunk :=
  chunksOf bads 0 (cutBytes (unitPieces dst bs.length) bs)

/-- The bytes of n double words of a pattern (R242). -/
def patternBytes (w : Word) (n : Nat) : List Byte := (List.replicate n (leBytes 8 w.toNat)).flatten

/-- A piece leaves its destination unit bad: a byte of it is, or the unit has received one before (R108). -/
def Job.spoils (j : Job) (c : Chunk) : Bool := !c.bad.isEmpty || j.badUnits.contains (c.dst / 64)

/-- One piece is written at the destination of a job. -/
def State.putChunk (s : State) (j : Job) (c : Chunk) : Res State :=
  if j.kind = .slab ∧ j.card.toslab then
    .ok (if !j.spoils c then s.store (slabKey j.tile (j.slabBase + c.dst)) c.bytes
      else s.store (slabKey j.tile ((j.slabBase + c.dst) / 64 * 64)) (List.replicate 64 0))
  else Res.under j.imgD (s.engPut j.eng j.imgD c.dst c.bytes (j.spoils c))

/-- What one reading of a job gives, as far as it comes: row r of its source (R237, R240 to R244). -/
def State.jobRead (s : State) (j : Job) (r : Nat) : State × Job × Progress :=
  let c := j.card
  let more := fun (o n : Nat) =>
    let (s, got, bad, p) := s.engMore j.eng j.imgS (unitPieces (o + j.got.length) (n - j.got.length)) j.got j.gotBad
    (s, { j with got := got, gotBad := bad }, p)
  match j.kind with
  | .fill => (s, { j with got := patternBytes c.fill (c.len / 8) }, .all)
  | .slab => if c.toslab then more c.srcoff c.len
      else (s, { j with got := s.bytes (slabKey j.tile (j.slabBase + c.srcoff)) c.len }, .all)
  | .twoD => more (c.srcoff + r * c.sstride) c.len
  | .xfer => if j.far then more 0 j.imgS.bytes else (s, j, .all)
  | _ => more c.srcoff c.len

/-- What has been read becomes what is to be written from offset o of the destination on. -/
def Job.turnOver (j : Job) (o : Nat) : Job :=
  { j with data := cutChunks o j.got j.gotBad, poison := j.poison || !j.gotBad.isEmpty, got := [], gotBad := [] }

/-- Pieces are written in turn; what was written stays written (R239). -/
def State.putChunks (s : State) (j : Job) : List Chunk → State × List Chunk × Progress
  | [] => (s, [], .all)
  | c :: cs => match s.putChunk j c with
    | .ok s' => State.putChunks s' j cs
    | .error (.wait s') => (s', c :: cs, .waits)
    | .error (.trap x) => (s, c :: cs, .stops x)

/-- Remote writes that a job has sent since request number n. -/
def State.sentSince (s : State) (j : Job) (n : Nat) : List Nat :=
  (s.reqs.filter (fun r => r.src == j.src && n ≤ r.id)).map Req.id

/-- The job's pieces are written as far as they can be; the units that received a bad byte stay bad (R108). -/
def State.writeJob (s : State) (j : Job) : State × Job × Progress :=
  let n := s.nextId
  let (s', rest, p) := s.putChunks j j.data
  let bad := ((j.data.take (j.data.length - rest.length)).filter (fun c => !c.bad.isEmpty)).map (fun c => c.dst / 64)
  (s', { j with data := rest, waits := j.waits ++ s'.sentSince j n, badUnits := (j.badUnits ++ bad).eraseDups }, p)

/-- The rows of `MV.2D` (R243): each row is read in full and written before the next is read; the last one is only read. -/
def State.rowsJob (s : State) (j : Job) : Nat → State × Job × Progress
  | 0 => (s, j, .waits)
  | f + 1 =>
    let last := j.row + 1 ≥ j.card.rows
    if j.data.isEmpty then
      match s.jobRead j j.row with
      | (s, j, .all) =>
        let j := j.turnOver (j.card.dstoff + j.row * j.card.dstride)
        if last then (s, j, .all) else State.rowsJob s j f
      | r => r
    else if last then (s, j, .all)
    else match s.writeJob j with
      | (s, j, .all) => State.rowsJob s { j with row := j.row + 1 } f
      | r => r

def State.consumeFlight (s : State) (j : Job) : State :=
  s.modTile j.tile (fun t => { t with flight := updateFirst (fun f => f.ord == j.ord) (fun f => { f with consumed := true }) t.flight })

/-- A job's last read is performed (R238). -/
def State.readJob (s : State) (j : Job) : State × Job × Progress :=
  if j.kind = .twoD then s.rowsJob j (2 * j.card.rows + 2)
  else match s.jobRead j 0 with
    | (s, j, .all) => (s, j.turnOver j.card.dstoff, .all)
    | r => r

/-- The payload of a completion message (R238). -/
def Job.payload (j : Job) (st : BitVec 4) : Word := j.card.tag ++ j.num ++ (0 : BitVec 28) ++ st

/-- The chain that issued a job still holds its slot (R238, R239). -/
def State.chainLives (s : State) (j : Job) : Bool :=
  let v := s.slot j.src
  v.busy && v.chainId == j.chainId

/-- The message of a job goes into the buffer held since issue (R238). -/
def State.jobMsg (s : State) (j : Job) (st : BitVec 4) (ts : List Title) : State :=
  match j.buf with
  | none => s
  | some b =>
    s.placeInBuffer j.src j.ctx j.entry b (if j.kind = .xfer then 0 else 2) j.dest ts [j.payload st]

/-- A job is final with status st (R238): its message with the titles ts is placed where one is due, its scoreboard entry goes,
and the titles of an ended firing that waited for it are released (R83, R239). -/
def State.finishJob (s : State) (j : Job) (st : BitVec 4) (ts : List Title) : State :=
  let due := j.card.notify || (j.kind == .xfer && st != 4)
  let s := if due then s.jobMsg j st ts
    else match j.buf with
      | some b => s.freeBuffer j.tile b
      | none => s
  let s := s.setJob { j with status := st, buf := none, data := [], waits := [] }
  (s.modTile j.tile (fun t => { t with flight := t.flight.filter (fun f => f.ord != j.ord) })).sweepLate

/-- The status a job ends with (R108, R210). -/
def Job.endStatus (j : Job) : BitVec 4 := if j.cancelled then 7 else if j.deferred.isSome then 6 else if j.poison then 5 else 3

/-- The wait, the scan and the move of TitleOut for the title a job carries (R74, R238); it has left its register before. -/
def State.jobTitleOut (s : State) (j : Job) (t : Title) : Res (Title × State) := do
  waitUnless (!s.busyBefore j.src t j.ord) s
  if needsScan j.src t j.dest false then
    let s ← s.scanWB (clusterOf j.tile) t.ctx t.index
    if t.isShare then .ok (t, s)
    else
      let s := s.bumpGen t.ctx t.index
      let t := { t with gen := (s.tte t).gen }
      .ok (t, s.inFlight t)
  else .ok (t, s.inFlight t)

/-- SK of an `MV.XFER` unlocked: empty after the move, or holding the title again (R241). Of an ended firing the title that
stays is released (R239). -/
def State.unlockXfer (s : State) (j : Job) (moved : Bool) : State :=
  if s.chainLives j then s.modSlot j.src (fun v => v.setK j.card.sk (if moved then {} else { img := j.imgS }))
  else if moved then s else { s with late := s.late ++ [(j.tile, j.imgS)] }

/-- The landing arena of the destination (R78, R251): the title of an arena entry. -/
def State.landingArena (s : State) (d : Dest) (onChip : Bool) : Option Title :=
  match (s.ctx d.ctx).landing.find? (fun l => l.tile == d.tile) with
  | none => none
  | some l =>
    let idx := if onChip then l.tileArena else l.hbmArena
    let e := find {} (s.ctx d.ctx).table idx.toNat
    if e.state = 0 then none
    else some { index := idx, gen := e.gen, kind := e.kind, rights := e.rights, world := e.world, domain := e.domain, loc := e.loc,
                ctx := d.ctx, base := e.base, len := e.len, place := e.place }

/-- The engine's way to the destination of a byte copy: another context's address space. -/
def Job.engTo (j : Job) (c : BitVec 8) : Eng := { j.eng with ctx := c }

/-- Pieces of a copy are written in the destination context's address space. -/
def State.putCopy (s : State) (j : Job) (c : BitVec 8) : List Chunk → State × List Chunk × Progress
  | [] => (s, [], .all)
  | x :: cs => match s.engPut (j.engTo c) j.imgD x.dst x.bytes (!x.bad.isEmpty) with
    | .ok s' => State.putCopy s' j c cs
    | .error (.wait s') => (s', x :: cs, .waits)
    | .error (.trap e) => (s, x :: cs, .stops e)

/-- A byte copy within the package, one stage after another (R78, R241): room in the landing arena, the bytes, zeros at the
source, and the fresh WHOLE. Where the arena has blocks and the destination's table has no free entry, which R78 does not name, there is
no room either. [log 70 DESIGN CHOICE] -/
def State.copyXfer (s : State) (j : Job) : State :=
  let d := j.dest
  let t := j.imgS
  if j.imgD.kind = 0 then
    match (s.landingArena d t.onChip).bind (fun ta => s.allotBlocks j.src ta t.len.toNat) with
    | none => (s.unlockXfer j false).finishJob j 4 []
    | some (u, s) =>
      let u := { u with rights := t.rights &&& 0b11010 }
      s.setJob { j with imgD := u }
  else if !j.data.isEmpty then
    let (s, rest, p) := s.putCopy j d.ctx j.data
    match p with
    | .stops x => (s.freeToArena j.imgD).failJob { j with data := [], imgD := {} } x
    | _ => s.setJob { j with data := rest }
  else
    match s.zeroFrom j.eng t j.zeroed with
    | (s, z, .waits) => s.setJob { j with zeroed := z }
    | (s, _, .stops x) => (s.freeToArena j.imgD).failJob { j with imgD := {} } x
    | (s, _, .all) =>
      let s := s.modTte j.imgD.ctx j.imgD.index (fun e => { e with state := 2, rights := j.imgD.rights, ownTile := 0, ownCore := false, ownSlot := 0 })
      let u := { j.imgD with gen := (s.tte j.imgD).gen }
      ((s.freeMoved t).unlockXfer j true).finishJob { j with imgD := {} } j.endStatus [u]

/-- A byte copy to another package (R78, R226, R241): one request carries the bytes, the peer's answer the outcome. -/
def State.peerXfer (s : State) (j : Job) : State :=
  match j.waits with
  | [] =>
    let id := s.nextId
    let bs := j.data.flatMap Chunk.bytes
    let s := s.sendReq j.src (.peer j.dest.peer) (.titleCopy j.card.sk j.card.cmpdst bs j.poison) none false 0 0 j.imgS.base.toNat
    s.setJob { j with data := [], waits := [id] }
  | id :: _ =>
    match s.req? id with
    | some { state := .replied v _, .. } =>
      if v = 4 then ((s.dropReq id).unlockXfer j false).finishJob j 4 []
      else match s.zeroFrom j.eng j.imgS j.zeroed with
        | (s', z, .waits) => s'.setJob { j with zeroed := z }
        | (s', _, .stops x) => (s'.dropReq id).failJob j x
        | (s', _, .all) => (((s'.dropReq id).freeMoved j.imgS).unlockXfer j true).finishJob j j.endStatus [j.imgS.onPeer]
    | some _ => s
    | none => s.failJob j { cause := 0x59, peer := j.dest.peer }

/-- `MV.XFER` at its end (R241): rights only or a byte copy, as the checks at its issue found (R78, R374). [log 14 DEDUCED] -/
def State.doneXfer (s : State) (j : Job) : State :=
  if j.cancelled ∨ j.deferred.isSome then (s.unlockXfer j false).finishJob j j.endStatus []
  else if !j.far then
    match s.jobTitleOut j j.imgS with
    | .ok (t, s) => (s.unlockXfer j true).finishJob j 3 [t]
    | .error (.wait s') => s'
    | .error (.trap x) => s.failJob j x
  else if j.dest.peer ≠ 0x3FF then s.peerXfer j
  else s.copyXfer j

/-- The start of an `MV.XFER` that copies bytes: TitleOut's scan, its first step, where the bytes lie in HBM or at a peer (R74, R241). [log 71 DEDUCED] -/
def State.startXfer (s : State) (j : Job) : State :=
  if j.far ∧ j.imgS.loc.toNat ≥ 2 then match s.scanWB (clusterOf j.tile) j.imgS.ctx j.imgS.index with
    | .ok s' => s'.setJob { j with status := 1 }
    | .error (.wait s') => s'
    | .error (.trap x) => s.failJob j x
  else s.setJob { j with status := 1 }

/-- The end of a job whose writes are made: a carried title leaves by TitleOut, then the message goes (R238). -/
def State.endJob (s : State) (j : Job) : State :=
  if j.waits.any (fun id => (s.req? id).isSome) then s.setJob j
  else if j.card.carry then
    match s.jobTitleOut j j.imgD with
    | .ok (t, s) => s.finishJob j j.endStatus [t]
    | .error (.wait s') => s'.setJob j
    | .error (.trap _) => s.finishJob j 6 [j.imgD]
  else s.finishJob j j.endStatus []

/-- A Tramontane job's writes are performed (R238). -/
def State.doneMove (s : State) (j : Job) : State :=
  if j.kind = .xfer then s.doneXfer j
  else if j.cancelled ∨ j.deferred.isSome then s.endJob j
  else
    let (s, j, p) := s.writeJob j
    match p with
    | .all => s.endJob j
    | .waits => s.setJob j
    | .stops x => s.failJob j x

end Sys2Proof.Machine
end

