-- ==== Sys2Proof/Machine/NearBank.lean ====
section
/-! DEFINITION. Near-bank compute: the instructions (R345 to R358), the running of their jobs, and the micro-instructions (R340 to
R344). -/

namespace Sys2Proof.Machine

/-- The checks of R346 on a granule operand up to the world check: the title, the physical granule, and the state with the
translation's traces. `right` is none where the instruction names none. While an opened granule lies in the migration window the
instruction waits (R364). -/
def State.granuleOperand (s : State) (k : KReg) (right : Option Nat) (o : Nat) (oob : BitVec 7) (kind : AccKind) :
    Res (Title × Nat × State) := do
  let t ← s.me.title k
  needT t.isData 0x11 t
  match right with
  | some r => s.checkRange t r o 4096 oob
  | none =>
    needT (o + 4096 ≤ t.bytes) oob t
    needT (t.kind != 1 || (s.tte t).carved == 0) 0x15 t
  needT (t.loc == 2 && (t.base.toNat + o) % 4096 == 0) 0x3D t
  let cl := clusterOf s.cur.tile
  match ← Res.under t (s.translate cl { s.purpose s.cur t (s.walkerOf s.cur) with granule := true } (t.base.toNat + o) kind) with
  | .here pa e =>
    if !(match s.hbm.nowPlace (pa / 4096) with
      | some (x, _) => s.unitAdmits (.base x) t.world
      | none => true) then raiseT 0x1A t
    let s ← s.setAccessed cl e true
    waitUnless (!(s.hbm.inWindow (pa / 4096) && (s.granOf (pa / 4096)).isSome)) s
    .ok (t, pa / 4096, s)
  | .peer .. => raiseT 0x3D t

/-- An opened granule belongs to the chain of slot i (R346). -/
def Gran.isOf (g : Gran) (i : SlotId) (v : Slot) : Bool := g.opener == i && g.chainId == v.chainId

/-- "Opened by the chain", the mode check of most near-bank instructions (R348). -/
def State.chainGranule (s : State) (g : Nat) (t : Title) : Res Gran :=
  match s.granOf g with
  | some x => if x.isOf s.cur s.me then .ok x else raiseT 0x3D t
  | none => raiseT 0x3D t

def State.notOpened (s : State) (g : Nat) (t : Title) : Res Unit := needT (s.granOf g).isNone 0x3D t

/-- The slot's operations and jobs that touch [o, o + 4096) under t (R349). -/
def State.touches (s : State) (i : SlotId) (t : Title) (o : Nat) : Bool :=
  (s.tile i.tile).flight.any (fun f => f.core == i.core && f.slot == i.slot && meetsAny (f.reads ++ f.writes) [t.region o 4096])

def execNbOpen (k : KReg) (rs : XReg) (s : State) : Out := .next (insn .none [rs] (fun s => do
  let i := s.cur
  let o := (s.me.xr rs).toNat
  let (t, g, s) ← s.granuleOperand k (some rRD) o 0x13 .read
  s.notOpened g t
  match s.hbm.nowPlace g with
  | none => raiseT 0x3D t
  | some (x, off) =>
    needT ((s.grans.filter (fun y => y.stack == x && y.byOpen)).length < 64) 0x3D t
    needT (!s.hbm.inWindow g) 0x3D t
    waitUnless (!s.touches i t o) s
    let s ← s.flushGranule (clusterOf i.tile) g
    let v := s.me
    let y : Gran := { stack := x, off := off, g := g, opener := i, chainId := v.chainId, ctx := v.ctx, index := t.index
                      domain := t.domain }
    let s : State := { s with grans := s.grans ++ [y] }
    .ok s.retire) s)

def execNbClose (k : KReg) (rs : XReg) (s : State) : Out := .next (insn .none [rs] (fun s => do
  let (t, g, s) ← s.granuleOperand k none (s.me.xr rs).toNat 0x13 .read
  let x ← s.chainGranule g t
  waitUnless (!s.granBusy x) s
  let s : State := { s with grans := s.grans.filter (fun (y : Gran) => y.g != g) }
  .ok s.retire) s)

/-- The card rules of R347. -/
def nbCardOk (k : JobKind) (ws : List Word) : Bool :=
  let d := fun n => ws.getD n 0
  let c := cardOf ws
  let count := (d 3).toNat
  bits (d 0) 63 32 == 0 && bits (d 0) 23 20 == 0 && bits (d 0) 18 17 == 0 && bits (d 1) 63 48 == 0 && bits (d 2) 63 48 == 0 &&
  c.dstoff % 8 == 0 && (k == .bcast || k == .run || !c.mode) && (c.notify || c.cmpdst == 0) &&
  (match k with
   | .run => 1 ≤ count && count ≤ 64
   | .read => 1 ≤ count && count ≤ 16
   | _ => count == 0) &&
  d 5 == 0 && d 6 == 0 && d 7 == 0

/-- Bytes that a near-bank job reads or writes under DK (R348). -/
def nbBytes (k : JobKind) (c : Card) : Nat :=
  match k with
  | .bcast => if c.mode then 4096 else 256
  | .run => 4 * c.len
  | .read => 64 * c.len
  | _ => 4096

/-- `NB.BCAST`, `NB.RUN`, `NB.READ`, `NB.RCOPY` (R347, R348): in the card SK is GK, SRCOFF is GOFF and LEN is COUNT. -/
def nbJob (k : JobKind) (rd rs : XReg) (s : State) : State := insn (s.placeClass k rs) [rs] (fun s => do
  let i := s.cur
  let ws ← readCard s i (s.me.xr rs)
  need (nbCardOk k ws) 0x60
  let c := cardOf ws
  let (gt, g, s) ← s.granuleOperand c.sk (some rRD) c.srcoff 0x61 .read
  if k = .rcopy then s.notOpened g gt
  else
    let _ ← s.chainGranule g gt
  let n := nbBytes k c
  let (dt, h, s) ← (if k = .rcopy then do
      let (t, h, s) ← s.granuleOperand c.dk (some rWR) c.dstoff 0x61 .write
      s.notOpened h t
      Except.ok (t, h, s)
    else do
      let t ← s.jobTitle c.dk (if k = .read then rWR else rRD) c.dstoff n
      Except.ok (t, 0, s))
  let d ← s.jobDest k c
  let granule := gt.region c.srcoff 4096
  let data := dt.region c.dstoff n
  let reads := match k with
    | .bcast => [data]
    | .run => [granule, data]
    | .rcopy => [granule]
    | _ => []
  let writes := match k with
    | .read | .rcopy => [data]
    | _ => []
  s.issueJob { tile := 0, num := 0, core := false, slot := 0, chainId := 0, ctx := 0, kind := k, card := c, imgS := gt, imgD := dt,
               row := h, gran := some g } d.isSome reads writes false rd) s

def execNbBcast (rd rs : XReg) (s : State) : Out := .next (nbJob .bcast rd rs s)
def execNbRun (rd rs : XReg) (s : State) : Out := .next (nbJob .run rd rs s)
def execNbRead (rd rs : XReg) (s : State) : Out := .next (nbJob .read rd rs s)
def execNbRcopy (rd rs : XReg) (s : State) : Out := .next (nbJob .rcopy rd rs s)

def execNbZero (rd : XReg) (k : KReg) (rs : XReg) (s : State) : Out := .next (insn (s.placeClass .zero rs) [rs] (fun s => do
  let o := (s.me.xr rs).toNat
  let (t, g, s) ← s.granuleOperand k (some rWR) o 0x13 .write
  s.notOpened g t
  let c : Card := { dstoff := o }
  s.issueJob { tile := 0, num := 0, core := false, slot := 0, chainId := 0, ctx := 0, kind := .zero, card := c, imgD := t,
               gran := some g } false [] [t.region o 4096] true rd) s)

/-- The migration registers as words (R339). -/
def Hbm.reg (h : Hbm) (n : Nat) : Word :=
  match n with
  | 0 => h.liveCap.setWidth 64
  | 1 => h.mphase.setWidth 64 <<< 16 ||| h.target.setWidth 64 <<< 8 ||| h.state.setWidth 64
  | 2 => h.wmark.setWidth 64
  | 3 => h.liveMask.setWidth 64
  | _ => 0

/-- What `NB.STAT` reads of a granule (R356). -/
def State.granStat (s : State) (g : Nat) : Word :=
  match s.hbm.nowPlace g with
  | none => 0
  | some (x, off) =>
    let mine := match s.granOf g with
      | some y => y.isOf s.cur s.me
      | none => false
    x.setWidth 64 <<< 12 ||| (pcOf off).setWidth 64 <<< 6 ||| BitVec.ofNat 64
      (4 * b2n (s.hbm.inWindow g) + 2 * b2n ((s.granOf g).isSome && !mine) + b2n mine)

def execNbStat (rd : XReg) (k : KReg) (rs : XReg) (s : State) : Out := .next (insn .none [rs] (fun s => do
  let w := s.me.xr rs
  let (r, s) ← (if w.getLsbD 0 then Except.ok (s.hbm.reg (bits w 3 1), s)
    else do
      let (_, g, s) ← s.granuleOperand k (some rRD) w.toNat 0x13 .read
      Except.ok (s.granStat g, s))
  let (r, s) ← s.rerun s.cur 0x0E false r
  .ok (s.retireX rd r)) s)

/-! ### Running jobs -/

/-- A near-bank job meets poison (R343, R351, R352): status POISON, deferred 0x3F. -/
def State.nbPoison (s : State) (j : Job) : State :=
  (s.setJob { j with poison := true, status := 2, data := [] }).deferred j.ctx 0x3F
    { tile := j.tile, core := j.core, slot := j.slot, entry := j.entry, info := j.num.setWidth 32 }

/-- A microprogram ends by a cause with status FAULT; its operands are consumed by then (R344, R348, R365). -/
def State.nbStop (s : State) (j : Job) (x : TrapInfo) : State :=
  ((s.failJob j x).modJob j.tile j.num (fun x => { x with status := 2 })).consumeFlight j

/-- A microprogram fails (R344): status FAULT, deferred 0x3E. -/
def State.nbFail (s : State) (j : Job) : State := s.nbStop j { cause := 0x3E }

def words32 : Nat → List Byte → List (BitVec 32)
  | 0, _ => []
  | n + 1, bs => BitVec.ofNat 32 (leNat (bs.take 4)) :: words32 n (bs.drop 4)

/-- R344's checks at load. -/
def progOk (ws : List (BitVec 32)) : Bool :=
  ws.all (fun w => match decodeMicro w with
    | some (.loop t _) => t.toNat < ws.length
    | some _ => true
    | none => false)

def State.modGran (s : State) (g : Nat) (f : Gran → Gran) : State := { s with grans := updateFirst (fun x => x.g == g) f s.grans }

/-- The start of `NB.RUN` (R352): the program is read and validated, the accumulators are zeroed where MODE asks, and the job comes to its
base die, where it follows the jobs that reached its pseudo-channel before (R340). [log 71 DEDUCED] -/
def State.startRun (s : State) (j : Job) : State :=
  match s.engRange j.eng j.imgD j.card.dstoff (4 * j.card.len) with
  | .error (.wait s') => s'
  | .error (.trap x) => s.failJob j x
  | .ok (bs, bads, s) =>
    let ws := words32 j.card.len bs
    if !bads.isEmpty then (s.nbPoison j).consumeFlight j
    else if !progOk ws then s.nbFail j
    else
      let s := (s.setJob { j with status := 1, prog := ws, reached := s.nextId }).fresh
      match j.gran with
      | some g => s.modGran g (fun x => { x with
          upc := 0, lc := 0, rowOpen := false, execs := 0, macs := 0, ran := true, suspended := false, served := 0
          acc := if j.card.mode then [] else x.acc })
      | none => s

/-- Result slots as `NB.READ` writes them (R353): slot s of bank b at 64 s + 4 b. -/
def Gran.resultBytes (x : Gran) (count : Nat) : List Byte :=
  (List.range count).flatMap (fun n => (List.range 16).flatMap (fun b => leBytes 4 (find 0 x.slots (16 * b + n)).toNat))

/-- A near-bank job's last read (R348). -/
def State.readNb (s : State) (j : Job) : State :=
  let done := fun (s : State) (j : Job) => (s.setJob { j with status := 2 }).consumeFlight j
  match j.kind with
  | .read => match j.gran.bind s.granOf with
    | some x => done s { j with data := cutChunks j.card.dstoff (x.resultBytes j.card.len) [] }
    | none => s.failJob j { cause := 0x3D }
  | .rcopy =>
    match (do
      let s ← s.flushGranule (clusterOf j.tile) (j.gran.getD 0)
      s.engRange j.eng j.imgS j.card.srcoff 4096 : Res _) with
    | .ok (bs, bads, s) => done s { j with data := cutChunks j.card.dstoff bs bads, poison := !bads.isEmpty }
    | .error (.wait s') => s'
    | .error (.trap x) => s.failJob j x
  | .bcast =>
    match s.engRange j.eng j.imgD j.card.dstoff (nbBytes .bcast j.card) with
    | .ok (bs, bads, s) =>
      if bads.isEmpty then done s { j with data := [{ dst := 0, bytes := bs, bad := [] }] } else (s.nbPoison j).consumeFlight j
    | .error (.wait s') => s'
    | .error (.trap x) => s.failJob j x
  | _ => s

/-- The bank registers that `NB.BCAST` loads (R351). -/
def bregsOf (mode : Bool) (bs : List Byte) : Map (BitVec 256) :=
  (List.range 128).map (fun n =>
    let o := if mode then 256 * (n / 8) + 32 * (n % 8) else 32 * (n % 8)
    (n, BitVec.ofNat 256 (leNat ((bs.drop o).take 32))))

/-- A near-bank job's writes are performed and it ends (R348, R351, R353 to R355). -/
def State.doneNb (s : State) (j : Job) : State :=
  let s := match j.kind with
    | .bcast => if j.cancelled ∨ j.poison ∨ j.deferred.isSome then s.finishJob j j.endStatus []
        else (match j.gran with
          | some g => s.modGran g (fun x => { x with bregs := bregsOf j.card.mode (j.data.flatMap Chunk.bytes) })
          | none => s).finishJob j j.endStatus []
    | .run => s.finishJob j j.endStatus []
    | _ =>
      if j.cancelled ∨ j.deferred.isSome then s.finishJob j j.endStatus []
      else
        let (s, j, p) := s.writeJob j
        match p with
        | .all =>
          let s := match j.kind, j.gran with
            | .zero, some g => s.dropGranule (clusterOf j.tile) g
            | .rcopy, _ => s.dropGranule (clusterOf j.tile) j.row
            | _, _ => s
          s.endJob j
        | .waits => s.setJob j
        | .stops x => s.failJob j x
  s.sweepGrans

/-! ### Micro-instructions (R343, R344), in all 16 banks -/

/-- The job that runs its microprogram now, and its granule. -/
def State.runningMicro (s : State) : Option (Job × Gran) :=
  match s.curJob with
  | none => none
  | some (t, n) => match s.job? t n with
    | none => none
    | some j => if j.kind = .run ∧ j.status = 1 then (j.gran.bind s.granOf).map (fun g => (j, g)) else none

/-- A micro-instruction has run: µPC is upc, and the counts since the last row boundary go on; with the row closed this is a row boundary
(R341, R344). -/
def Gran.step (g : Gran) (upc : Nat) (mac : Bool) : Gran :=
  { g with upc := BitVec.ofNat 6 upc, ran := g.ran || !g.rowOpen, execs := if g.rowOpen then g.execs + 1 else 0
           macs := if g.rowOpen then g.macs + b2n mac else 0 }

/-- A micro-instruction with its limits (R344): past COUNT, or as the 65th of its row span, it fails. µPC 64 is past every COUNT. [log 58 DEDUCED] -/
def micro (f : Job → Gran → State → State) (s : State) : State :=
  match s.runningMicro with
  | none => s
  | some (j, g) => if g.rowOpen && g.execs ≥ 64 then (s.modGran g.g (fun x => { x with rowOpen := false })).nbFail j else f j g s

/-- The row is closed and the job fails (R344). -/
def State.microFail (s : State) (j : Job) (g : Gran) : State := (s.modGran g.g (fun x => { x with rowOpen := false })).nbFail j

/-- The job's µPC moves on by one; where that is COUNT, the microprogram fails (R344). [log 58 DEDUCED] -/
def State.microNext (s : State) (j : Job) (g : Gran) (mac : Bool) : State :=
  if g.upc.toNat + 1 ≥ j.prog.length then (s.modGran g.g (fun _ => { g with rowOpen := false })).nbFail j
  else s.modGran g.g (fun _ => g.step (g.upc.toNat + 1) mac)

/-- A value of a bank's accumulator, and its setting. -/
def Gran.accOf (g : Gran) (b : Nat) (a : BitVec 4) : Num := fmtF.value (find 0 g.acc (16 * b + a.toNat)).toNat
def Gran.setAcc (g : Gran) (f : Nat → Num) (a : BitVec 4) : Gran :=
  { g with acc := (List.range 16).foldl (fun m b => put m (16 * b + a.toNat) (BitVec.ofNat 32 (toF32 (f b)))) g.acc }

/-- The job is Done; an open row is precharged (R343 HALT). -/
def execHalt (s : State) : Out := .next (micro (fun j g s =>
  ((s.modGran g.g (fun x => { x with rowOpen := false, execs := 0, macs := 0 })).setJob { j with status := 2 }).consumeFlight j) s)

/-- The activations of the 16 banks of a pseudo-channel for the domain that opened the granule (R110, R111, R341). [log 54 DEDUCED] -/
def State.activateAll (s : State) (g : Gran) : State :=
  let h := (List.range 16).foldl (fun h b => h.activate (bankNo g.stack g.off (256 * b)) g.domain 1) s.hbm
  let tokens := if (s.domain g.domain).actRate = 0 then h.tokens
    else put h.tokens (tokenKey g.stack g.domain) (s.tokensOf g.stack g.domain - 16)
  { s with hbm := { h with tokens := tokens } }

/-- Whether the pseudo-channel is held: a bank is refreshed, or the domain's bucket is empty (R110, R111). -/
def State.activationHeld (s : State) (g : Gran) : Bool :=
  s.hbm.rfm.any (fun r => r.1 == g.stack && r.2.1 == pcOf g.off) ||
  ((s.domain g.domain).actRate != 0 && s.tokensOf g.stack g.domain == 0)

def execAct (s : State) : Out := .next (micro (fun j g s =>
  if g.rowOpen then s.microFail j g
  else if s.activationHeld g then s
  else
    let g' := { g with rowOpen := true, execs := 0, macs := 0 }
    (s.activateAll g).microNext j g' false) s)

/-- Burst u of bank b: its bytes and whether its 64-byte unit is poisoned (R338, R343). -/
def State.burst (s : State) (g : Gran) (b u : Nat) : List Byte × Bool :=
  let k := hbmKey g.stack g.off (256 * b + 32 * u)
  (s.hbmRead g.domain k 32, s.hbmPoison k 32)

/-- The errors met by the reads of burst u in the 16 banks are counted (R106, R343). -/
def State.countBursts (s : State) (g : Gran) (u : Nat) : State :=
  (List.range 16).foldl (fun s b => s.eccCount (hbmKey g.stack g.off (256 * b + 32 * u)) 32) s

/-- Sixteen FP16 or BF16 elements. -/
def elements16 (f : Bool) (bs : List Byte) : List Num :=
  (List.range 16).map (fun e => (if f then fmtBF else fmtH).value (leNat ((bs.drop (2 * e)).take 2)))

def execMac16 (a : BitVec 4) (u r : BitVec 3) (f : Bool) (s : State) : Out := .next (micro (fun j g s =>
  if !g.rowOpen || g.macs ≥ 32 then s.microFail j g
  else if (List.range 16).any (fun b => (s.burst g b u.toNat).2) then
    (((s.countBursts g u.toNat).modGran g.g (fun x => { x with rowOpen := false })).nbPoison j).consumeFlight j
  else
    let sum := fun b => Num.sum (List.zipWith Num.mul (elements16 f (s.burst g b u.toNat).1)
      (elements16 f (leBytes 32 (find 0 g.bregs (8 * b + r.toNat)).toNat)))
    (s.countBursts g u.toNat).microNext j (g.setAcc (fun b => (g.accOf b a).add (sum b)) a) true) s)

def execAdds (d a c : BitVec 4) (s : State) : Out := .next (micro (fun j g s =>
  s.microNext j (g.setAcc (fun b => (g.accOf b a).add (g.accOf b c)) d) false) s)

def execScale (a : BitVec 4) (e : BitVec 8) (s : State) : Out := .next (micro (fun j g s =>
  s.microNext j (g.setAcc (fun b => (g.accOf b a).scale2 e.toInt) a) false) s)

def execNextrow (s : State) : Out := .next (micro (fun j g s =>
  if !g.rowOpen then s.microFail j g else s.microNext j { g with rowOpen := false } false) s)

def execLoop (t : BitVec 6) (n : BitVec 8) (s : State) : Out := .next (micro (fun j g s =>
  if g.lc.toNat + 1 < n.toNat then s.modGran g.g (fun _ => { (g.step t.toNat false) with lc := g.lc + 1 })
  else s.microNext j { g with lc := 0 } false) s)

def execPutacc (a sl : BitVec 4) (s : State) : Out := .next (micro (fun j g s =>
  s.microNext j { g with slots := (List.range 16).foldl (fun m b => put m (16 * b + sl.toNat) (find 0 g.acc (16 * b + a.toNat))) g.slots }
    false) s)

/-- The micro-instruction that a running job executes next. -/
def State.microInsn (s : State) : Option Instr :=
  s.runningMicro.bind (fun x => (x.1.prog[x.2.upc.toNat]?).bind decodeMicro)

/-- Another microprogram reached the pseudo-channel of j's granule before j, and is not over: the channel runs one at a time, in that order
(R340). -/
def State.behind (s : State) (j : Job) (g : Gran) : Bool :=
  s.jobs.any (fun x => x.kind == .run && x.status == 1 && x.reached < j.reached && (x.gran.bind s.granOf).any (fun y => y.pc == g.pc))

/-- What holds a microprogram at a row boundary, its start among them: the order of its pseudo-channel, and the migration window with its
granule in it (R340, R364). -/
def State.microHeld (s : State) (j : Job) (g : Gran) : Bool := s.behind j g || (!g.rowOpen && s.hbm.inWindow g.g)

/-- A microprogram whose firing was abandoned or killed stops at a row boundary with status 0x7 (R358). -/
def State.microStops (s : State) : Bool :=
  match s.runningMicro with
  | some (j, g) => !j.owned && !g.rowOpen
  | none => false

def State.stopMicro (s : State) : State :=
  match s.runningMicro with
  | some (j, _) => (s.finishJob j 7 []).sweepGrans
  | none => s

end Sys2Proof.Machine
end

