-- ==== Sys2Proof/Machine/Atomics.lean ====
section
/-! DEFINITION. Commons atomics (R245 to R248): issue, the home with its replay filters and its park list (R116, R119), and the
reply (R109). -/

namespace Sys2Proof.Machine

/-- The operations of R245 by their code. -/
def aADD : BitVec 4 := 0x0
def aMIN : BitVec 4 := 0x1
def aMAX : BitVec 4 := 0x2
def aAND : BitVec 4 := 0x3
def aOR : BitVec 4 := 0x4
def aXOR : BitVec 4 := 0x5
def aSWAP : BitVec 4 := 0x6
def aCAS : BitVec 4 := 0x7
def aFADD : BitVec 4 := 0x8
def aLD : BitVec 4 := 0x9
def aST : BitVec 4 := 0xA
def aV : BitVec 4 := 0xB
def aWAITGE : BitVec 4 := 0xC

/-- `AMO.FADD` (R246): binary32 in [31:0], the rest unchanged. -/
def faddWord (w a : Word) : Word :=
  let r := toF32 ((fmtF.value (w.toNat % 2 ^ 32)).add (fmtF.value (a.toNat % 2 ^ 32)))
  (w &&& 0xFFFFFFFF00000000) ||| BitVec.ofNat 64 r

/-- w ≥ a, signed, or unsigned with `.N`. -/
def atLeast (n : Bool) (w a : Word) : Bool := if n then a.toNat ≤ w.toNat else a.toInt ≤ w.toInt

/-- The new value of the object (R246). -/
def amoNew (op : BitVec 4) (n : Bool) (w a cmp : Word) : Word :=
  match op.toNat with
  | 0 | 11 => w + a
  | 1 => if atLeast n a w then w else a
  | 2 => if atLeast n w a then w else a
  | 3 => w &&& a
  | 4 => w ||| a
  | 5 => w ^^^ a
  | 6 | 10 => a
  | 7 => if w = cmp then a else w
  | 8 => faddWord w a
  | _ => w

/-- Whether the operation writes the object: a failing compare writes nothing (R249). -/
def amoWrites (op : BitVec 4) (w cmp : Word) : Bool := op != aLD && op != aWAITGE && (op != aCAS || w == cmp)

/-- The checks of R246 on the title of an atomic. -/
def State.commons (s : State) (k : KReg) (op : BitVec 4) : Res Title := do
  let t ← s.me.title k
  needT (t.kind == 3 || (t.kind == 4 && (s.tte t).kind == 3)) 0x11 t
  s.checkRange t (if op = aLD ∨ op = aWAITGE then rRD else rAMO) 0 8 0x13
  .ok t

/-- The home of an object and its place there: a cluster SRAM bank, the base die of its granule, or a peer package (R69, R246). `AMO.LD`
and `AMO.WAITGE` read the page; of a read-modify-write R99 names no permission, and it asks for WP alone. Which bank an offset of cluster SRAM lies in R10 and R69 do not
say: offsets of 128 KiB follow one another. [log 68 DESIGN CHOICE, 70 DESIGN CHOICE] -/
def State.homeOf (s : State) (i : SlotId) (t : Title) (op : BitVec 4) : Res (Home × Nat × Nat × State) := do
  if t.loc = 0 then
    needT ((s.tile t.place).world == t.world) 0x1A t
    .ok (.tile t.place, tileKey t.place t.base.toNat, 0, s)
  else if t.loc = 1 then
    let c := t.place.extractLsb' 4 6
    needT ((s.cluster c).world == t.world) 0x1A t
    .ok (.bank c (BitVec.ofNat 6 (t.base.toNat / 2 ^ 17)), clusterKey c t.base.toNat, 0, s)
  else
    let cl := clusterOf i.tile
    match ← Res.under t (s.translate cl (s.purpose i t (s.walkerOf i)) t.base.toNat (if op = aLD ∨ op = aWAITGE then .read else .write)) with
    | .here pa e =>
      let s ← s.setAccessed cl e true
      match s.hbm.nowPlace (pa / 4096) with
      | some (x, _) => .ok (.stack x, 0, pa, s)
      | none => raiseT 0x3B t
    | .peer p pa e =>
      if s.livePorts = [] then .error (.trap { cause := 0x59, peer := p })
      let s ← s.setAccessed cl e true
      .ok (.peer p, 0, pa, s.countAccess e)

/-- Inserts and takes of pools, which carry sequence numbers as atomics do (R324). -/
def Req.isPool (r : Req) : Bool := match r.kind with
  | .insert .. | .take .. | .takeM .. => true
  | _ => false

/-- A pool request that holds one of its slot's 16 places: of `PTAKE.M` only until its shard has it (R324, R327). -/
def Req.holdsPlace (r : Req) : Bool := match r.kind with
  | .insert .. | .take .. => r.state != .refused
  | .takeM .. => r.state == .sent
  | _ => false

/-- The atomics of slot i that await their reply (R119, R247). -/
def State.amosOf (s : State) (i : SlotId) : List Req :=
  s.reqs.filter (fun r => r.src == i && r.isAmo && r.state != .refused)

/-- The running slot may send an atomic: it has a free place of its 16 (R247, R324), and R116's `.ORD` allows it. -/
def State.amoFree (s : State) (ord : Bool) : Bool :=
  let i := s.cur
  let out := s.amosOf i ++ s.reqs.filter (fun r => r.src == i && r.holdsPlace)
  out.length < 16 && !out.any Req.ord && (!ord || out.isEmpty)

/-- Whether the operation has a result. -/
def amoResult (op : BitVec 4) : Bool := op != aST && op != aV

/-- An atomic is sent (R116, R119, R247): one with a result binds rd, and `AMO.WAITGE` blocks its slot; in replay every atomic with
a result blocks it, so that the check of R148 is made at the instruction. [log 20 DEDUCED] -/
def amoBody (op : BitVec 4) (n ord : Bool) (rd : XReg) (k : KReg) (rs : XReg) (s : State) : Res State := do
  let i := s.cur
  let t ← s.commons k op
  let (home, key, pa, sent) ← s.homeOf i t op
  let v := s.me
  if s.isReplaying v.ctx && v.skipCheck && amoResult op then
    match s.replayNext i with
    | some e => return ((s.modSlot i (fun u => { u with skipCheck := false })).replayPop i).retireX rd e.value
    | none => pure ()
  waitUnless (s.amoFree ord) s
  waitUnless (!(s.isRecording v.ctx && amoResult op && (s.tile i.tile).stagingFull)) s
  let s := sent
  let blocks := op == aWAITGE || (s.isReplaying v.ctx && amoResult op && (s.replayNext i).isSome)
  let s := if s.isReplaying v.ctx && amoResult op && (s.replayNext i).isNone then
      s.logEnd v.ctx { tile := i.tile, core := i.core, slot := i.slot, entry := v.entry }
    else s
  let id := s.nextId
  let cmp := if op = aCAS then v.xr rd else 0
  let s := s.sendReq i home (.amo op n key pa (v.xr rs) cmp) (if amoResult op then some rd else none) ord t.index v.aseq t.base.toNat
  let s := s.modSlot i (fun u => { u with aseq := u.aseq + 1 })
  if blocks then .ok (s.modSlot i (fun u => { u with wait := some (.reply id) }))
  else
    let s := if amoResult op then (s.log i 0x05 0 (some id)).modSlot i (fun u => u.bindX rd id) else s
    .ok s.retire

/-- The registers an atomic reads. -/
def amoReads (op : BitVec 4) (rd rs : XReg) : List XReg := if op = aCAS then [rd, rs] else if op = aLD then [] else [rs]

def amo (op : BitVec 4) (n ord : Bool) (rd : XReg) (k : KReg) (rs : XReg) (s : State) : State :=
  insn (if op = aWAITGE ∨ !s.amoFree ord then .ends else .none) (amoReads op rd rs) (amoBody op n ord rd k rs) s

def execAmoAdd (ord : Bool) (rd : XReg) (k : KReg) (rs : XReg) (s : State) : Out := .next (amo aADD false ord rd k rs s)
def execAmoMin (ord n : Bool) (rd : XReg) (k : KReg) (rs : XReg) (s : State) : Out := .next (amo aMIN n ord rd k rs s)
def execAmoMax (ord n : Bool) (rd : XReg) (k : KReg) (rs : XReg) (s : State) : Out := .next (amo aMAX n ord rd k rs s)
def execAmoAnd (ord : Bool) (rd : XReg) (k : KReg) (rs : XReg) (s : State) : Out := .next (amo aAND false ord rd k rs s)
def execAmoOr (ord : Bool) (rd : XReg) (k : KReg) (rs : XReg) (s : State) : Out := .next (amo aOR false ord rd k rs s)
def execAmoXor (ord : Bool) (rd : XReg) (k : KReg) (rs : XReg) (s : State) : Out := .next (amo aXOR false ord rd k rs s)
def execAmoSwap (ord : Bool) (rd : XReg) (k : KReg) (rs : XReg) (s : State) : Out := .next (amo aSWAP false ord rd k rs s)
def execAmoCas (ord : Bool) (rd : XReg) (k : KReg) (rs : XReg) (s : State) : Out := .next (amo aCAS false ord rd k rs s)
def execAmoFadd (ord : Bool) (rd : XReg) (k : KReg) (rs : XReg) (s : State) : Out := .next (amo aFADD false ord rd k rs s)
def execAmoLd (ord : Bool) (rd : XReg) (k : KReg) (s : State) : Out := .next (amo aLD false ord rd k 0 s)
def execAmoSt (ord : Bool) (k : KReg) (rs : XReg) (s : State) : Out := .next (amo aST false ord 0 k rs s)
def execAmoV (ord : Bool) (k : KReg) (rs : XReg) (s : State) : Out := .next (amo aV false ord 0 k rs s)
def execAmoWaitge (ord n : Bool) (rd : XReg) (k : KReg) (rs : XReg) (s : State) : Out := .next (amo aWAITGE n ord rd k rs s)

/-! ### Replay filters (R119) -/

/-- The filters a home may hold (R119). -/
def filterCap : Home → Nat
  | .stack _ => 4096
  | _ => 256

/-- The stored result of a sequence number. -/
def HomeState.stored (h : HomeState) (source : Nat) (seq : BitVec 20) : Option (Word × Mark) :=
  match h.filters.find? (fun f => f.source == source) with
  | none => none
  | some f => (f.results.find? (fun r => r.1 == seq)).map (fun r => (r.2.1, r.2.2))

/-- A result is stored: the last 64 of its source stay, and the source idle longest leaves a full filter (R119). [log 44 DEDUCED] -/
def HomeState.keep (h : HomeState) (source : Nat) (seq : BitVec 20) (w : Word) (m : Mark) : HomeState :=
  let old := ((h.filters.find? (fun f => f.source == source)).map Filter.results).getD []
  let rest := (h.filters.filter (fun f => f.source != source)).take (filterCap h.home - 1)
  { h with filters := { source := source, results := ((seq, w, m) :: old).take 64 } :: rest }

/-! ### Giving up -/

/-- The `POST` messages that await a remote write which never completes, or the job that sent it, end with 0x59, deferred (R203), and their
titles go back (R84). [log 49 DEDUCED] -/
def State.lostPosts (s : State) (r : Req) : State :=
  let t := r.src.tile
  let lost := r.id :: (s.jobs.filter (fun j => j.tile == t && j.waits.contains r.id)).map Job.ord
  ((s.tile t).outbox.filter (fun b => !b.2.departed && b.2.msg.post && b.2.waits.any lost.contains)).foldl (fun (s : State) b =>
    ((s.freeBuffer t b.1).releaseBack (clusterOf t) b.2.msg.titles).deferred b.2.msg.ctx 0x59
      { tile := t, core := r.src.core, slot := r.src.slot, entry := r.entry,
        info := (b.2.copies.head?.map (fun c => chanInfo (hdrChan c.hdr) c.tile)).getD 0, peer := b.2.peer }) s

/-- What a pool request that is given up leaves behind: the buffer of a `PTAKE.M`, and the title of an insert that was not performed. -/
def State.lostPool (s : State) (r : Req) : State := match r.kind, r.state with
  | .takeM _ _ b, _ => s.freeBuffer r.src.tile b
  | .insert _ _ _ title, .sent =>
    if ((s.home r.home).stored (SlotId_num r.src) r.seq).isSome then s else s.releaseBack (clusterOf r.src.tile) title.toList
  | _, _ => s

/-- R119's give-up: precise 0x59 where the slot waits for the request; an indeterminate mark where a fault is being taken (R377);
else the register raises 0x59 when it is read, and a request without register records it, a job's at its job (R239). [log 43 DEDUCED, 49 DEDUCED] -/
def State.giveUp (s : State) (r : Req) : State :=
  let i := r.src
  let v := s.slot i
  if v.wait = some (.reply r.id) then
    ((s.dropReq r.id).modSlot i (fun v => { v with wait := none })).fault i { cause := 0x59 }
  else match r.rd with
    | some rd =>
      if v.trap.isSome then (s.dropReq r.id).modSlot i (fun v => v.replyX rd r.id 0 .indet)
      else s.modReq r.id (fun q => { q with state := .refused })
    | none =>
      let s' := ((s.dropReq r.id).lostPosts r).lostPool r
      match s.jobs.find? (fun j => j.tile == i.tile && j.status.toNat < 3 && j.waits.contains r.id) with
      | some j => if j.deferred.isSome then s' else s'.failJob j { cause := 0x59, peer := match r.home with
          | .peer p => p
          | _ => 0x3FF }
      | none => s'.deferred r.ctx 0x59 { tile := i.tile, core := i.core, slot := i.slot, entry := r.entry }

/-! ### The home -/

/-- What a home answers. -/
inductive Answer where
  | result (w : Word) (m : Mark)
  | parked
  | notParked

/-- The read at an object's home: its value, none where the read is uncorrectable or finds poison; the granule then is, or stays, poisoned
(R109). -/
def State.homeRead (s : State) (h : Home) (d : BitVec 10) (key : Nat) : Option Word × State :=
  match h with
  | .stack _ =>
    let (bs, bad, s) := s.hbmLoad d key 8
    if bad then (none, s.hbmPoisonUnit key) else (some (leWord bs), s)
  | _ => (some (leWord (s.bytes key 8)), s)

def State.homeWrite (s : State) (h : Home) (d : BitVec 10) (key : Nat) (w : Word) : State :=
  match h with
  | .stack _ =>
    let o := key % 64
    (s.hbmMasked (key - o) d (List.replicate o 0 ++ leBytes 8 w.toNat) (fun i => o ≤ i && i < o + 8)).1
  | _ => s.store key (leBytes 8 w.toNat)

/-- A request's home answers it: a slot of this package, or a peer through the gateway (R118). -/
def State.answerPark (s : State) (p : Parked) (f : Req → State) (a : PeerAnswer) : State :=
  match s.req? p.id with
  | some r => f r
  | none => { s with gateway := { s.gateway with answers := (p.source, p.seq, a) :: s.gateway.answers } }

/-- The parked waits that value w satisfies are answered with it (R248). -/
def State.wakeParks (s : State) (h : Home) (key : Nat) (w : Word) : State :=
  let hs := s.home h
  let hit := fun (p : Parked) => p.key == key && atLeast p.n w p.rs
  let s := s.setHome { hs with parks := hs.parks.filter (fun p => !hit p) }
  (hs.parks.filter hit).foldl (fun s p =>
    let s := s.setHome ((s.home h).keep p.source p.seq w .none)
    s.answerPark p (fun r => s.reply r w .none) (.result w .none)) s

/-- An atomic at its home (R119, R246, R248); `id` names the request that a wait parks. -/
def State.atHome (s : State) (h : Home) (d : BitVec 10) (key source : Nat) (seq : BitVec 20) (replay : Bool) (op : BitVec 4)
    (n : Bool) (arg cmp : Word) (id : Nat) : Answer × State :=
  let hs := s.home h
  match hs.stored source seq with
  | some (w, m) => (.result w m, s)
  | none =>
    if replay then (.result 0 .indet, s)
    else match s.homeRead h d key with
      | (none, s) => (.result 0 .poison, s.setHome (hs.keep source seq 0 .poison))
      | (some w, s) =>
        if op = aWAITGE then
          if atLeast n w arg then (.result w .none, s.setHome (hs.keep source seq w .none))
          else if hs.parks.length < 256 then
            (.parked, s.setHome { hs with parks := hs.parks ++ [{ id := id, source := source, seq := seq, key := key, n := n, rs := arg }] })
          else (.notParked, s)
        else
          let s := s.setHome (hs.keep source seq w .none)
          if amoWrites op w cmp then
            let w' := amoNew op n w arg cmp
            (.result w .none, (s.homeWrite h d key w').wakeParks h key w')
          else (.result w .none, s)

/-- The home and key of a request as the address maps now (R337, R360): one that is held waits; where the home has moved to another die, its
old one sends the request on (R120). -/
def State.homeNow (s : State) (r : Req) (key pa : Nat) : Res (Home × Nat × State) :=
  match r.home with
  | .stack x => do
    let (k, s) ← s.request { die := BitVec.ofNat 3 (x.toNat / 2) } (s.ctx r.ctx).domain pa
    .ok (.stack (BitVec.ofNat 4 (k / 2 ^ 36)), k, s)
  | h => .ok (h, key, s)

/-- The home of an atomic as the address maps now (R337, R360). -/
def State.homeAt (s : State) (r : Req) : Home := match r.kind, r.home with
  | .amo _ _ _ pa _ _, .stack x => match s.hbm.nowPlace (pa / 4096) with
    | some (y, _) => .stack y
    | none => .stack x
  | _, h => h

/-- An earlier atomic of the same slot to the same home, or under the same title, is still on its way (R112, R116). -/
def State.amoBefore (s : State) (r : Req) : Bool :=
  s.reqs.any (fun q => q.src == r.src && q.isAmo && q.state == .sent && q.id < r.id &&
    (s.homeAt q == s.homeAt r || (q.ctx == r.ctx && q.tindex == r.tindex)))

/-- A wait that its home has not parked is answered (R248): its slot will send it again; where the slot no longer waits the request goes. -/
def State.refusePark (s : State) (r : Req) : State :=
  if (s.slot r.src).wait = some (.reply r.id) then s.modReq r.id (fun q => { q with state := .notParked, age := 0 }) else s.dropReq r.id

/-- ATOMIC_ARRIVE (R116, R119): the requests of one slot to one home arrive in program order. [log 44 DEDUCED] -/
def execAtomicArrive (id : Nat) (s : State) : Out := .next (
  match s.req? id with
  | none => s
  | some r =>
    match r.kind with
    | .amo op n key pa arg cmp =>
      let away : Bool := match r.home with
        | .peer _ => true
        | _ => false
      if r.state ≠ .sent ∨ s.amoBefore r ∨ away then s
      else match s.landed r with
        | (false, s) => s
        | (true, s) => match s.homeNow r key pa with
          | .error (.wait s') => s'
          | .error (.trap x) => if x.cause = 0x59 then s.giveUp r else s.reply r 0 .indet
          | .ok (h, k, s) =>
            let (a, s) := s.atHome h (s.ctx r.ctx).domain k (SlotId_num r.src) r.seq r.replay op n arg cmp id
            let s := s.modReq id (fun q => { q with home := h, age := 0 })
            match a with
            | .result w m => s.reply { r with home := h } w m
            | .parked => s.modReq id (fun q => { q with state := .parked })
            | .notParked => s.refusePark r
    | _ => s)

/-- An atomic's result is filled into its log entry (R145, R247). -/
def State.fillLog (s : State) (t : BitVec 10) (id : Nat) (w : Word) : State :=
  s.modTile t (fun v => { v with staging := v.staging.map (fun e =>
    if e.2.due == some id then (e.1, { e.2 with value := w, due := none }) else e) })

/-- The blocked slot of a request goes on with result w and mark m: in replay the log's value, checked (R148). [log 20 DEDUCED] -/
def State.resumeWith (s : State) (r : Req) (kind : Byte) (w : Word) (m : Mark) : State :=
  let i := r.src
  let rd := r.rd.getD 0
  let s := s.modSlot i (fun v => { v with wait := none })
  let finish := fun (s : State) (x : Word) => s.modSlot i (fun v =>
    let u := (v.setX rd x).retire
    if rd = 0 then u else { u with marks := withMark u.marks rd m })
  if s.isReplaying r.ctx then
    match s.replayNext i with
    | some e =>
      if e.kind ≠ kind ∨ e.value ≠ w then
        s.fault i { cause := 0x70, info := if e.value.toNat < 2 ^ 32 then e.value.setWidth 32 else 0 }
      else finish (s.replayPop i) w
    | none => finish s w
  else finish (s.log i kind w) w

/-- A blocked slot's reply that has come and whose log entry finds no room: it waits for the drain (R147). -/
def State.replyHeld (s : State) (r : Req) : Bool :=
  (s.slot r.src).wait == some (.reply r.id) && !s.stagingRoom r.src && (match r.state with
    | .replied _ _ => true
    | _ => false)

/-- The reply of an atomic (R109, R147, R247, R248): the result reaches its register; without a register a mark is a deferred fault. -/
def State.amoReply (s : State) (r : Req) : State :=
  match r.state with
  | .replied w m =>
    let i := r.src
    let v := s.slot i
    let held := s.replyHeld r
    let (here, s) := s.landed r
    let s := if held ∨ !here then s else s.dropReq r.id
    if held ∨ !here then s
    else if v.wait = some (.reply r.id) then s.resumeWith r 0x05 w m
    else match r.rd with
      | some rd => (s.fillLog i.tile r.id w).modSlot i (fun v => v.replyX rd r.id w m)
      | none =>
        let who : FaultRec := { tile := i.tile, core := i.core, slot := i.slot, entry := r.entry, tindex := r.tindex }
        match m with
        | .none => s
        | .poison => s.deferred r.ctx 0x35 who
        | .indet => s.deferred r.ctx 0x36 who
  | _ => s

/-- WAITGE_RETRY (R248): 1 µs after a not-parked answer the wait is sent again with a new sequence number. -/
def execWaitgeRetry (i : SlotId) (s : State) : Out := .next (
  match (s.slot i).wait with
  | some (.reply id) => match s.req? id with
    | some r =>
      if r.state = .notParked ∧ r.age ≥ 1000 then
        let v := s.slot i
        let n := s.nextId
        let s := { s with nextId := n + 1 }.sendAgain r (fun q => { q with id := n, seq := v.aseq, replay := false, resends := 0 })
        s.setSlot i { v with aseq := v.aseq + 1, wait := some (.reply n) }
      else s
    | none => s
  | _ => s)

end Sys2Proof.Machine
end

