-- ==== Sys2Proof/Machine/Walk.lean ====
section
/-! DEFINITION. Page-table entries and the walk of an address (R96 to R98, R100). -/

namespace Sys2Proof.Machine

/-- Sizes of leaves, and the level each is allowed at (R97, R98). -/
def leafBytes (size : Nat) : Nat :=
  2 ^ (match size with
    | 0 => 12 | 1 => 16 | 2 => 19 | 3 => 21 | 4 => 25 | 5 => 29 | 6 => 30 | _ => 34)
def leafLevel (size : Nat) : Nat :=
  match size with
  | 0 | 1 | 2 => 0
  | 3 | 4 | 5 => 1
  | _ => 2

/-- The index of an address at a level (R97). -/
def levelIndex (level va : Nat) : Nat := va / 2 ^ (12 + 9 * level) % (if level = 4 then 256 else 512)

def pteV (w : Word) : Bool := w.getLsbD 63
def pteSize (w : Word) : Nat := bits w 62 60
def pteMode (w : Word) : BitVec 2 := w.extractLsb' 58 2
def ptePeer (w : Word) : BitVec 10 := w.extractLsb' 48 10
def pteAddr (w : Word) : Nat := bits w 47 12 * 4096
def pteLeaf (w : Word) : Bool := w.getLsbD 7

/-- A page-table entry as it lies in HBM, and whether its granule is poisoned or uncorrectable (R106). Page tables are Iluson's; they carry no
domain. [log 38 DEDUCED] -/
def State.pteAt (s : State) (pa : Nat) : Option (Word × Bool) :=
  match s.hbm.nowPlace (pa / 4096) with
  | some (x, o) => some (leWord (s.bytes (hbmKey x o (pa % 4096)) 8), (s.unit (hbmKey x o (pa % 4096))).bad)
  | none => none
/-- A page-table entry is written. [log 38 DEDUCED] -/
def State.setPte (s : State) (pa : Nat) (w : Word) : State :=
  match s.hbm.nowPlace (pa / 4096) with
  | some (x, o) => s.store (hbmKey x o (pa % 4096)) (leBytes 8 w.toNat)
  | none => s

/-- The TLB entry of a leaf. -/
def tlbOf (c : BitVec 8) (va : Nat) (w : Word) (pa : Nat) (pending : Bool) : TlbEntry :=
  let n := leafBytes (pteSize w)
  { ctx := c, va := va / n * n, size := n, pa := pteAddr w, mode := pteMode w, peer := ptePeer w, thr := w.extractLsb' 8 4
    rp := w.getLsbD 5, wp := w.getLsbD 4, xp := w.getLsbD 3, leaf := pa, aPending := pending }

/-- Whether a leaf is malformed at a level (R98). -/
def leafBad (level : Nat) (w : Word) : Bool :=
  leafLevel (pteSize w) != level || pteAddr w % leafBytes (pteSize w) != 0 ||
  ((pteMode w == 1 || pteMode w == 2) && ptePeer w == 0x3FF) || pteMode w == 3 || bits w 2 0 != 0

/-- The end of a walk: a leaf with its address, or a cause. -/
inductive WalkEnd where
  | leaf (w : Word) (pa : Nat)
  | cause (c : BitVec 7)
  deriving DecidableEq, Repr

/-- How an entry is read: its word and whether its granule is bad, or what keeps it from being read. -/
abbrev PteRead := State → Nat → Res (Word × Bool × State)

/-- Firmware reads an entry where it lies. -/
def firmwareRead : PteRead := fun s pa => match s.pteAt pa with
  | some (w, bad) => .ok (w, bad, s)
  | none => raise 0x3B

/-- The page walker on a die reads an entry by a request, on its own context's budget (R100, R360). [log 71 DEDUCED] -/
def walkerRead (a : Asker) (d : BitVec 10) : PteRead := fun s pa => do
  let (k, s) ← s.request a d pa
  .ok (leWord (s.bytes k 8), s.hbmPoison k 8, s.eccCount k 8)

/-- The walk from a table on, `level` levels above the last: the leaf and its address (R97, R98, R100). -/
def walkFrom (read : PteRead) (va : Nat) : Nat → Nat → State → Res (Word × Nat × State)
  | level, table, s => do
    let pa := table + 8 * levelIndex level va
    let (w, bad, s) ← read s pa
    if bad then .error (.trap { cause := 0x3C, hbm := some s.hbm })
    else if !pteV w then raise 0x30
    else if pteLeaf w then (if leafBad level w then raise 0x32 else .ok (w, pa, s))
    else if bits w 2 0 ≠ 0 then raise 0x32
    else match level with
      | 0 => raise 0x32
      | n + 1 => walkFrom read va n (pteAddr w) s

/-- The walk of an address of a context (R96, R97). -/
def State.walkWith (s : State) (read : PteRead) (c : BitVec 8) (va : Nat) : Res (Word × Nat × State) :=
  if (s.ctx c).en then walkFrom read va 4 ((s.ctx c).top.toNat * 4096) s else raise 0x30

/-- The walk that a page walker on die a makes. [log 38 DEDUCED] -/
def State.walkBy (s : State) (a : Asker) (c : BitVec 8) (va : Nat) : Res (Word × Nat × State) :=
  s.walkWith (walkerRead a (s.ctx c).domain) c va

/-- What firmware finds at an address of a context. [log 38 DEDUCED] -/
def State.walk (s : State) (c : BitVec 8) (va : Nat) : WalkEnd :=
  match s.walkWith firmwareRead c va with
  | .ok (w, pa, _) => .leaf w pa
  | .error (.trap x) => .cause x.cause
  | .error (.wait _) => .cause 0x3B

end Sys2Proof.Machine
end

