-- ==== Sys2Proof/Machine/Pool.lean ====
section
/-! DEFINITION. The priority pool: its instructions (R323 to R330), its shards and rounds (R313 to R322). -/

namespace Sys2Proof.Machine

/-! ### Elements and shards -/

/-- The order of elements (R310): the pair (KEY, STAMP) as one number. -/
def pairOf (key stamp : Word) : Nat := key.toNat * 2 ^ 64 + stamp.toNat
def Elem.pair (e : Elem) : Nat := pairOf e.key e.stamp

/-- T_n as a number: none is +∞. -/
def Shard.limit (h : Shard) : Option Nat := h.t.map (fun p => pairOf p.1 p.2)
/-- Servable (R314): the pair is at most T_n. -/
def Shard.servable (h : Shard) (e : Elem) : Bool := match h.limit with
  | some t => e.pair ≤ t
  | none => true

/-- The first element of a list that is least under f. -/
def least (f : Elem → Nat) : List Elem → Option Elem
  | [] => none
  | e :: es => match least f es with
    | none => some e
    | some b => if f b < f e then some b else some e

/-- R315's rules 1 and 2 over a list of elements. -/
def Shard.choose (h : Shard) (es : List Elem) : Option Elem :=
  match least (fun e => e.stamp.toNat) (es.filter Elem.overdue) with
  | some e => some e
  | none => least Elem.pair (es.filter h.servable)
def Shard.pick (h : Shard) : Option Elem := h.choose h.elems

/-- The n elements of a list with the largest pairs, largest first. -/
def largest : Nat → List Elem → List Elem
  | 0, _ => []
  | n + 1, es => match least (fun e => 2 ^ 128 - e.pair) es with
    | none => []
    | some e => e :: largest n (es.filter (fun x => x != e))
def smallest : Nat → List Elem → List Elem
  | 0, _ => []
  | n + 1, es => match least Elem.pair es with
    | none => []
    | some e => e :: smallest n (es.filter (fun x => x != e))
/-- The oldest n elements. -/
def oldest : Nat → List Elem → List Elem
  | 0, _ => []
  | n + 1, es => match least (fun e => e.stamp.toNat) es with
    | none => []
    | some e => e :: oldest n (es.filter (fun x => x != e))

/-- An element that lies in the backing storage (R322). -/
def Elem.spilled (e : Elem) : Bool := e.place.isSome

def Shard.onChip (h : Shard) : Nat := (h.elems.filter (fun e => !e.spilled)).length
def Shard.spilledCount (h : Shard) : Nat := (h.elems.filter Elem.spilled).length

/-- The fields of the configuration word (R312). -/
def cfgPagemax (w : Word) : Nat := bits w 63 48
def cfgRound (w : Word) : Nat := bits w 47 32
def cfgBeta (w : Word) : Nat := bits w 23 16
def cfgAlpha (w : Word) : Nat := bits w 11 0 + 1
def cfgOk (w : Word) : Bool := cfgPagemax w != 0 && cfgRound w ≥ 2 && bits w 31 30 == 0 && bits w 15 12 == 0
/-- The word as `PSTAT` reads it: with POOLNO. -/
def cfgWord (w : Word) (p : BitVec 6) : Word := (w &&& ~~~(0x3F000000#64)) ||| (p.setWidth 64 <<< 24)

/-- Records of the backing storage that one shard owns (R322). -/
def Pool.backing (p : Pool) : Nat := p.title.len.toNat

/-- An insert is blind where its key lies below the key of T_n (R316). -/
def Shard.blindKey (h : Shard) (key : Word) : Bool := match h.t with
  | some t => key.toNat < t.1.toNat
  | none => key.toNat < 2 ^ 64 - 1

/-- The stamp of the next insert (R310). -/
def Shard.stamp (h : Shard) (die : BitVec 3) : Word := BitVec.ofNat 64 (h.round * 2 ^ 16 + die.toNat * 2 ^ 13 + h.inserts)

/-- An insert is performed (R310, R316). -/
def Shard.perform (h : Shard) (die : BitVec 3) (key value : Word) (title : Option Title) : Shard :=
  { h with
    elems := h.elems ++ [{ key := key, value := value, title := title, stamp := h.stamp die }]
    blind := if h.blindKey key then h.blind + 1 else h.blind
    inserts := h.inserts + 1 }

/-! ### The backing storage (R322) -/

/-- The address of record n of shard d: the d-th eighth of the backing storage, in records of 32 bytes. -/
def Pool.recordAddr (q : Pool) (d : BitVec 3) (n : Nat) : Nat := q.title.base.toNat + 32 * (d.toNat * q.backing + n)

/-- The record of an element: KEY, VALUE, STAMP and the flags double word, in which the model puts OVERDUE at bit 4 and TITLE at bit 5.
[log 70 DESIGN CHOICE] [log 70 DESIGN CHOICE] -/
def Elem.bytes (e : Elem) : List Byte :=
  wordsBytes [e.key, e.value, e.stamp, BitVec.ofNat 64 (16 * b2n e.overdue + 32 * b2n e.title.isSome)]

/-- The pool engine of die d reaches its backing storage by a walk of its own and a request under the pool's domain (R134, R322, R360): the
key of the location, and its physical address. [log 71 DEDUCED] -/
def State.poolAccess (s : State) (q : Pool) (d : BitVec 3) (va : Nat) (write : Bool) : Res (Nat × Nat × State) := do
  let (w, at_, s) ← s.walkBy { die := d } q.title.ctx va
  if ptePeer w ≠ 0x3FF ∨ !w.getLsbD (if write then 4 else 5) then raise 0x31
  let pa := pteAddr w + va % leafBytes (pteSize w)
  let (k, s) ← (s.setPte at_ (w ||| 0x40)).request { die := d } q.title.domain pa
  .ok (k, pa, s)

/-- Who a pool engine works for: the slot of the request it serves; of its own accord, its die's first slot. [log 70 DESIGN CHOICE] -/
def dieSlot (d : BitVec 3) : SlotId := ⟨d ++ (0 : BitVec 7), false, 0⟩

/-- A pool engine's own walk has ended in 0x30 (R134, R141): its work pauses until the retry record is answered. -/
def State.pausePool (s : State) (p : BitVec 6) (d : BitVec 3) (who : SlotId) (va : Nat) : State :=
  let q := s.pool p
  let s' := (s.modShard p d (fun h => { h with paused := some s.rings.retrySeq })).modCtx q.ctx (fun c => { c with tfCount := c.tfCount + 1 })
  s'.deliver { typ := 0, cause := 0x30, ctx := q.ctx, tile := who.tile, core := who.core, slot := who.slot, retry := true, addrKind := 1
               addr := BitVec.ofNat 56 va, tindex := q.title.index, tgen := q.title.gen, time := s.time }

/-- An element leaves a shard. -/
def Shard.without (h : Shard) (e : Elem) : Shard := { h with elems := h.elems.filter (fun x => x.stamp != e.stamp) }

/-- A record that is lost: the element is discarded, its title stays pooled, and the cause is recorded against the pool's context (R322). A
cause other than 0x30 in the engine's own access, for which R322 names nothing, loses the record alike. [log 70 DESIGN CHOICE] -/
def State.loseElem (s : State) (p : BitVec 6) (d : BitVec 3) (e : Elem) (cause : BitVec 7) : State :=
  (s.modShard p d (fun h => h.without e)).deferred (s.pool p).ctx cause {}

/-- One element is spilled into a record, by a masked write (R107, R322). -/
def State.spillOne (s : State) (p : BitVec 6) (d : BitVec 3) (e : Elem) (n : Nat) : Res State := do
  let q := s.pool p
  let (k, pa, s) ← s.poolAccess q d (q.recordAddr d n) true
  let o := k % 64
  let (s, done) := s.hbmMasked (k - o) q.title.domain (List.replicate o 0 ++ e.bytes) (fun i => o ≤ i && i < o + 32)
  let s := if done then s
    else s.deferred q.ctx 0x34 { addrKind := 2, addr := BitVec.ofNat 56 pa, tindex := q.title.index, tgen := q.title.gen }
  .ok (s.modShard p d (fun h => { h with elems := h.elems.map (fun x => if x.stamp == e.stamp then { x with place := some n } else x) }))

/-- One spilled element comes back on chip; one whose record is read back uncorrectable is discarded, with 0x66 (R322). -/
def State.refillOne (s : State) (p : BitVec 6) (d : BitVec 3) (e : Elem) (lost : Bool) : Res State := do
  let q := s.pool p
  let (k, _, s) ← s.poolAccess q d (q.recordAddr d (e.place.getD 0)) false
  let (_, bad, s) := s.hbmLoad q.title.domain k 32
  if bad || lost then .ok (s.loseElem p d e 0x66)
  else .ok (s.modShard p d (fun h => { h with elems := h.elems.map (fun x => if x.stamp == e.stamp then { x with place := none } else x) }))

/-- What an access of a pool engine for element e leads to: whether the engine goes on, and its state. -/
def State.poolStep (s : State) (p : BitVec 6) (d : BitVec 3) (who : SlotId) (e : Elem) (va : Nat) (r : Res State) : Bool × State :=
  match r with
  | .ok s => (true, s)
  | .error (.wait s) => (false, s)
  | .error (.trap x) => if x.cause = 0x30 then (false, s.pausePool p d who va) else (true, s.loseElem p d e x.cause)

/-- The lowest free record of a shard's storage of `room` records. -/
def Shard.freeRecord (h : Shard) (room : Nat) : Option Nat :=
  ((List.range (h.elems.length + 1)).find? (fun n => !h.elems.any (fun e => e.place == some n))).filter (fun n => n < room)

/-- The shard's largest elements move to the backing storage, one after another, until it has room on chip for n more within its quota, or
the storage is full (R322); not all have moved where memory keeps one waiting. [log 59 DEDUCED] -/
def State.spillFor (s : State) (p : BitVec 6) (d : BitVec 3) (who : SlotId) (n : Nat) : Nat → Bool × State
  | 0 => (true, s)
  | f + 1 =>
    let q := s.pool p
    let h := q.shard d
    if h.onChip + n ≤ q.quota then (true, s)
    else if h.paused.isSome then (false, s)
    else match largest 1 (h.elems.filter (fun e => !e.spilled)), h.freeRecord q.backing with
      | e :: _, some k => match s.poolStep p d who e (q.recordAddr d k) (s.spillOne p d e k) with
        | (true, s) => State.spillFor s p d who n f
        | r => r
      | _, _ => (true, s)
def State.makeRoom (s : State) (p : BitVec 6) (d : BitVec 3) (who : SlotId) (n : Nat) : Bool × State :=
  s.spillFor p d who n (s.shard p d).elems.length

/-- Spilled elements come back in turn; `lost` are the positions of records found uncorrectable. -/
def State.refillAll (s : State) (p : BitVec 6) (d : BitVec 3) (who : SlotId) (lost : List Nat) : Nat → List Elem → Bool × State
  | _, [] => (true, s)
  | n, e :: es =>
    if (s.shard p d).paused.isSome then (false, s)
    else match s.poolStep p d who e ((s.pool p).recordAddr d (e.place.getD 0)) (s.refillOne p d e (lost.contains n)) with
      | (true, s) => State.refillAll s p d who lost (n + 1) es
      | r => r

/-- The request of an insert is acknowledged (R325). -/
def State.ackInsert (s : State) (id : Nat) : State := s.modReq id (fun r => { r with state := .replied 0 .none })

/-- Shard store and backing storage are full (R322). -/
def Shard.full (h : Shard) (q : Pool) : Bool := h.onChip ≥ q.quota && h.spilledCount ≥ q.backing

/-- A result joins the replay filter of its source at the shard (R324). -/
def State.keepPool (s : State) (p : BitVec 6) (d : BitVec 3) (id : Nat) : State := match s.req? id with
  | some r => s.setHome ((s.home (.shard p d)).keep (SlotId_num r.src) r.seq 0 .none)
  | none => s

/-- The slot that a request came from. -/
def State.askerOf (s : State) (id : Nat) (d : BitVec 3) : SlotId := ((s.req? id).map Req.src).getD (dieSlot d)

/-- An insert is performed and acknowledged, or refused where the shard is full; a shard at its quota spills before (R322), and the insert is
not performed yet where that must wait. -/
def State.performInsert (s : State) (p : BitVec 6) (d : BitVec 3) (id : Nat) (key value : Word) (title : Option Title) : Bool × State :=
  let q := s.pool p
  if (q.shard d).full q then (true, s.modReq id (fun x => { x with state := .notParked, sinceOffer := 0 }))
  else match s.makeRoom p d (s.askerOf id d) 1 with
    | (false, s) => (false, s)
    | (true, s) => (true, ((s.keepPool p d id).modShard p d (fun h => h.perform d key value title)).ackInsert id)

/-- An insert under the round's rules: performed, or held for the next cut or, beyond the stamps of the round, for the turn
(R310, R316); false where it must wait. -/
def State.placeInsert (s : State) (p : BitVec 6) (d : BitVec 3) (id : Nat) (key value : Word) (title : Option Title) : Bool × State :=
  let q := s.pool p
  let h := q.shard d
  if (h.blindKey key && h.blind ≥ cfgBeta q.word) || h.inserts ≥ 8191 then
    (true, (s.modShard p d (fun h => { h with held := h.held ++
      [{ id := id, key := key, value := value, title := title, afterCut := false }] })).modReq id (fun r => { r with state := .parked }))
  else s.performInsert p d id key value title

/-! ### Issue -/

/-- The pool that a title names (R309), where it is configured. -/
def State.poolOf (s : State) (t : Title) : Option (BitVec 6) :=
  (s.pools.find? (fun e => e.2.configured && e.2.ctx == t.ctx && e.2.title.index == t.index)).map (fun e => BitVec.ofNat 6 e.1)

/-- The capacity check of a pool's backing storage (R366), then the world of the region that holds it and what the pool engine admits
(R87, R88, R324). -/
def State.poolWorld (s : State) (t : Title) : Res Unit :=
  match s.walk t.ctx t.base.toNat with
  | .leaf w _ => do
    let pa := pteAddr w + t.base.toNat % leafBytes (pteSize w)
    needT (!(ptePeer w == 0x3FF && s.hbm.liveCap.toNat ≤ pa && pa < hbmEnd)) 0x3B t
    needT (s.unitAdmits (.pool (dieOf s.cur.tile)) t.world) 0x1A t
    needT (ptePeer w != 0x3FF || s.regionWorld pa == t.world) 0x1A t
  | .cause _ => needT (s.unitAdmits (.pool (dieOf s.cur.tile)) t.world) 0x1A t

/-- The round in which a pool refuses every request (R310). -/
def lastRound : Nat := 2 ^ 48 - 1

/-- The checks of R324, in its order, with the capacity check of R366 before the world check. -/
def State.poolCheck (s : State) (kp : KReg) : Res (BitVec 6 × Title) := do
  let t ← s.me.title kp
  needT (t.kind == 5 || (t.kind == 4 && (s.tte t).kind == 5)) 0x11 t
  needT (t.has rAMO) 0x12 t
  match s.poolOf t with
  | none => raiseT 0x64 t
  | some p =>
    s.poolWorld t
    let h := (s.pool p).shard (dieOf s.cur.tile)
    needT (h.round < lastRound) 0x65 t
    .ok (p, t)

def Req.poolNo (r : Req) : Option (BitVec 6) := match r.kind with
  | .insert p _ _ _ => some p
  | .take p _ _ => some p
  | .takeM p _ _ => some p
  | _ => none

/-- The pool that a request was issued to is still configured (R324, R330). [log 59 DEDUCED] -/
def State.poolLives (s : State) (r : Req) : Bool := match r.poolNo with
  | some p => (s.pool p).configured && (s.pool p).serial == r.serial
  | none => false

/-- Requests of slot i that hold one of its 16 outstanding places (R247, R324). -/
def State.outstanding (s : State) (i : SlotId) : List Req :=
  s.reqs.filter (fun r => r.src == i && ((r.isAmo && r.state != .refused) || r.holdsPlace))

/-- A free place, and no atomic with `.ORD` outstanding (R116, R331). -/
def State.placeFree (s : State) (i : SlotId) : Bool := (s.outstanding i).length < 16 && !(s.outstanding i).any Req.ord

/-- A pool request of slot i is sent to its local shard (R309, R324). -/
def State.sendPool (s : State) (i : SlotId) (p : BitVec 6) (k : ReqKind) (ti : BitVec 20) : State :=
  let seq := (s.slot i).aseq
  (s.sendReq i (.shard p (dieOf i.tile)) k none false ti seq (serial := (s.pool p).serial)).modSlot i (fun v => { v with aseq := v.aseq + 1 })

def execPins (kp : KReg) (rs1 rs2 : XReg) (s : State) : Out := .next (insn .none [rs1, rs2] (fun s => do
  let i := s.cur
  let (p, _) ← s.poolCheck kp
  let key := s.me.xr rs1
  need (key != BitVec.allOnes 64) 0x66
  waitUnless (s.placeFree i) s
  .ok (s.sendPool i p (.insert p key (s.me.xr rs2) none) 0).retire) s)

def execPinsK (kp : KReg) (rs : XReg) (kv : KReg) (s : State) : Out := .next (insn .none [rs] (fun s => do
  let i := s.cur
  let (p, _) ← s.poolCheck kp
  let key := s.me.xr rs
  need (key != BitVec.allOnes 64) 0x66
  let t ← s.me.title kv
  needT (t.kind == 1 || t.kind == 3) 0x11 t
  needT (t.has rSEND) 0x1D t
  needT (t.kind != 1 || (s.tte t).carved == 0) 0x15 t
  needT ((s.tte t).shares == 0) 0x17 t
  needT (!s.openUnder i t) 0x3D t
  waitUnless (s.placeFree i) s
  let d : Dest := { peer := 0x3FF, tile := i.tile, chan := 0, ctx := t.ctx }
  let (t, s) ← s.titleOut i kv d true
  let s := s.setTteState t 5
  .ok (s.sendPool i p (.insert p key 0 (some t)) 0).retire) s)

/-- A take waits for the answer of its request (R326); its replayed check is made at the reply. -/
def execPtakeNb (kd kp : KReg) (rs : XReg) (s : State) : Out := .next (insn .ends [rs] (fun s => do
  let i := s.cur
  let (p, _) ← s.poolCheck kp
  let a := s.me.xr rs
  let _ ← ownBlock i a 32
  s.me.needFree kd
  waitUnless (s.placeFree i) s
  waitUnless (!(s.isRecording s.me.ctx && (s.tile i.tile).staging.length + 8 > 1024)) s
  let id := s.nextId
  .ok ((s.sendPool i p (.take p a kd) 0).modSlot i (fun v => { v with wait := some (.reply id) }))) s)

def execPtakeM (kp : KReg) (rs : XReg) (s : State) : Out := .next (insn .none [rs] (fun s => do
  let i := s.cur
  let (p, _) ← s.poolCheck kp
  let w := s.me.xr rs
  let c : BitVec 6 := w.setWidth 6
  needInfo (w.toNat < 64) 0x58 (chanInfo c i.tile)
  need ((s.tile i.tile).entries.any (fun e => e.2.valid && e.2.ctx == s.me.ctx && (e.1 == c.toNat || e.2.sec == some c))) 0x5A
  waitUnless (s.placeFree i) s
  needBuffer s i
  let (b, s) := s.takeBuffer i { forJob := true, departed := false }
  .ok (s.sendPool i p (.takeM p c b) 0).retire) s)

/-- The lowest free pool number (R309). -/
def State.freePool (s : State) : Option (BitVec 6) :=
  ((List.range 64).map (BitVec.ofNat 6)).find? (fun p => !(s.pool p).configured)
def State.poolsOf (s : State) (c : BitVec 8) : Nat := (s.pools.filter (fun e => e.2.configured && e.2.ctx == c)).length
def State.poolCount (s : State) : Nat := (s.pools.filter (fun e => e.2.configured)).length

/-- `PCFG` (R312, R328). [log 10 DEDUCED] -/
def execPcfg (kp : KReg) (rs : XReg) (s : State) : Out := .next (insn .none [rs] (fun s => do
  let i := s.cur
  let t ← s.me.title kp
  let w := s.me.xr rs
  if t.kind = 5 then
    let (p, _) ← s.poolCheck kp
    need (cfgOk w) 0x65
    .ok (s.modPool p (fun q => { q with next := w })).retire
  else
    needT (t.kind == 1 && !t.has rARENA) 0x11 t
    needT (t.has rRD && t.has rWR && t.has rSEND) 0x12 t
    needT (t.loc == 2) 0x65 t
    needT ((s.tte t).shares == 0 && (s.tte t).carved == 0) 0x17 t
    needT (t.len.toNat % 8 == 0) 0x65 t
    need (cfgOk w) 0x65
    let grant := (s.ctx t.ctx).poolGrant
    if s.poolsOf t.ctx ≥ grant then raiseInfo 0x65 (BitVec.ofNat 32 grant)
    match s.freePool with
    | none => raise 0x65
    | some p =>
      Res.under t (s.titleProbe i t 0 .write)
      s.poolWorld t
      waitUnless (!s.busyUnder i t) s
      let s ← s.scanWB (clusterOf i.tile) t.ctx t.index
      let t' : Title := { t with kind := 5, rights := 0b00110 }
      let s := s.modTte t.ctx t.index (fun e => { e with kind := 5, rights := 0b00110 })
      let shards := (List.range 8).map (fun d => (d, ({ early := true } : Shard)))
      let q : Pool := { configured := true, serial := s.nextId, ctx := t.ctx, title := t', word := w, next := w, shards := shards
                        quota := 131072 / (s.poolCount + 1) }
      .ok ((s.fresh.modPool p (fun _ => q)).modSlot i (fun v => v.setK kp { img := t' })).retire) s)

/-- `PSTAT`'s item n at the local shard (R329). -/
def State.pstat (s : State) (p : BitVec 6) (d : BitVec 3) (n : BitVec 3) : Word :=
  let q := s.pool p
  let h := q.shard d
  match n.toNat with
  | 0 => cfgWord q.next p
  | 1 => BitVec.ofNat 64 h.round
  | 2 => BitVec.ofNat 64 q.lastTotal
  | 3 => match h.t with
    | some t => t.1
    | none => BitVec.allOnes 64
  | 4 => BitVec.ofNat 64 h.elems.length
  | 5 => BitVec.ofNat 64 (h.elems.filter Elem.overdue).length
  | 6 => BitVec.ofNat 64 h.blind
  | _ => BitVec.ofNat 64 h.spilledCount

/-- Earlier requests of slot i to a pool that its shard has not performed or held (R331). -/
def State.poolBefore (s : State) (i : SlotId) (p : BitVec 6) (id : Nat) : Bool :=
  s.reqs.any (fun r => r.src == i && r.poolNo == some p && r.id < id && (r.state == .sent || r.state == .notParked))

def execPstat (rd : XReg) (kp : KReg) (n : BitVec 3) (s : State) : Out := .next (insn .none [] (fun s => do
  let i := s.cur
  let (p, _) ← s.poolCheck kp
  waitUnless (s.placeFree i && !s.poolBefore i p s.nextId) s
  let (w, s) ← s.rerun i 0x0F false (s.pstat p (dieOf i.tile) n)
  .ok (s.retireX rd w)) s)

/-! ### Answers -/

/-- Double word 0 of a take's record (R326). -/
def recordWord (round : Nat) (e : Option Elem) (status : Nat) : Word :=
  match e with
  | none => BitVec.ofNat 64 (round * 2 ^ 16 + status)
  | some e => BitVec.ofNat 64 (round * 2 ^ 16 + Nat.min 255 (round - e.stamp.toNat / 2 ^ 16) * 256 + b2n e.title.isSome * 32 +
      b2n e.overdue * 16 + status)
def takeRecord (round : Nat) (e : Option Elem) (status : Nat) : List Word :=
  match e with
  | none => [recordWord round none status, 0, 0, 0]
  | some e => [recordWord round (some e) status, e.key, if e.title.isSome then 0 else e.value, e.stamp]

/-- A message answers a `PTAKE.M` in the buffer held since issue (R327). -/
def State.answerM (s : State) (r : Req) (p : BitVec 6) (c : BitVec 6) (b : Nat) (ws : List Word) (e : Option Elem) : State :=
  let i := r.src
  let ts := (e.bind Elem.title).toList
  let s := ts.foldl (fun s t => s.setTteState t 2) s
  let (q, s) := s.nextSeq i { peer := 0x3FF, tile := i.tile, chan := c, ctx := r.ctx }
  let x := s.ctx r.ctx
  let h := header 2 c i.tile 0x3FF 4 (BitVec.ofNat 2 ts.length) x.key q
  let m : Msg := { hdr := h, titles := ts, payload := ws, src := some i, ctx := r.ctx, world := x.world, host := true }
  let o : OutBuf := { msg := m, copies := [{ tile := i.tile, hdr := h }], ord := s.nextId, element := e.map (fun e => (p, r.serial, e)), res := (s.tile i.tile).bufRes b }
  ((s.modTile i.tile (fun t => { t with outbox := put t.outbox b o })).fresh).dropReq r.id

/-- A take is answered: a record for `PTAKE.NB`, a message for `PTAKE.M`; an element returned leaves its shard (R311, R326). -/
def State.answerTake (s : State) (r : Req) (d : BitVec 3) (e : Option Elem) (status : Nat) : State :=
  match r.poolNo with
  | none => s
  | some p =>
    let round := (s.shard p d).round
    let s := (s.keepPool p d r.id).modShard p d (fun h => { h with
      elems := match e with
        | some e => h.elems.filter (fun x => x != e)
        | none => h.elems
      parked := h.parked.filter (fun id => id != r.id), queue := h.queue.filter (fun id => id != r.id) })
    match r.kind with
    | .takeM _ c b => s.answerM r p c b (takeRecord round e status) e
    | _ => s.modReq r.id (fun q => { q with record := takeRecord round e status, gotTitle := e.bind Elem.title, state := .replied 0 .none })

/-- Parked takes are served in arrival order while elements are there (R327). -/
def State.serveParked (s : State) (p : BitVec 6) (d : BitVec 3) : Nat → State
  | 0 => s
  | f + 1 =>
    let h := s.shard p d
    match h.phase, h.parked, h.pick with
    | .normal, id :: _, some e =>
      if e.spilled then s
      else match s.req? id with
        | some r => State.serveParked (s.answerTake r d (some e) 0) p d f
        | none => State.serveParked (s.modShard p d (fun h => { h with parked := h.parked.filter (fun x => x != id) })) p d f
    | _, _, _ => s

/-- An element comes back to its pool with its stamp unchanged (R326, R327), or its title is released where the pool is gone. -/
def State.returnElem (s : State) (cl : BitVec 6) (p : BitVec 6) (serial : Nat) (d : BitVec 3) (e : Elem) : State :=
  if (s.pool p).configured ∧ (s.pool p).serial = serial then
    let s := match e.title with
      | some t => s.setTteState t 5
      | none => s
    (s.modShard p d (fun h => { h with elems := h.elems ++ [{ e with place := none }] })).serveParked p d 1024
  else s.releaseBack cl e.title.toList

/-- The element that a record names. -/
def Req.element (r : Req) : Option Elem :=
  match r.record with
  | [w, k, v, st] => if bits w 1 0 = 0 then
      some { key := k, value := v, title := r.gotTitle, stamp := st, overdue := w.getLsbD 4 } else none
  | _ => none

/-- What the log has of a take: the entries of its record and, where the record says so, of its title (R145, R332). [log 20 DEDUCED] -/
def loggedTake (es : List LogEntry) : List LogEntry := es.take (if ((es.map LogEntry.value).getD 0 0).getLsbD 5 then 8 else 4)

/-- The logged take is the one performed: its KINDs, its record and its title (R148, R332). [log 20 DEDUCED] -/
def takeMatches (es : List LogEntry) (r : Req) : Bool :=
  let ws := es.map LogEntry.value
  (es.take 4).all (fun e => e.kind == 0x06) && (es.drop 4).all (fun e => e.kind == 0x04) && ws.take 4 == r.record &&
    (match r.gotTitle with
     | some t => titleFields (ws.drop 4) == titleFields t.dwords
     | none => ws.length == 4)

/-- The element that an answered `PTAKE.NB` has removed goes back to its pool (R326). -/
def State.takeBack (s : State) (r : Req) : State := match r.element, r.poolNo with
  | some e, some p => s.returnElem (clusterOf r.src.tile) p r.serial (dieOf r.src.tile) e
  | _, _ => s

/-- A take retires with a record and a title, which kd acquires (R75, R326). -/
def State.endTake (s : State) (i : SlotId) (a : Word) (kd : KReg) (ws : List Word) (t : Option Title) : Option State :=
  let s := s.store (coreKey i.tile i.core a.toNat) (wordsBytes ws)
  match t with
  | none => some (s.modSlot i Slot.retire)
  | some t => (s.acquire i t).map (fun (t', s) => s.modSlot i (fun v => (v.setK kd { img := t' }).retire))

/-- The answer of a `PTAKE.NB` reaches its slot (R326, R332), or its element goes back where the slot no longer waits. In replay the answer
is checked, and what `RESUME` repeats takes the logged record, with a title that firmware supplies, while the element performed goes back
(R148, R149). [log 20 DEDUCED] -/
def State.takeReply (s : State) (r : Req) (a : Word) (kd : KReg) : State :=
  let i := r.src
  if (s.slot i).wait ≠ some (.reply r.id) then (s.dropReq r.id).takeBack r
  else
    let s0 := (s.dropReq r.id).modSlot i (fun v => { v with wait := none })
    let s := if s0.isReplaying r.ctx && (s0.streamOf i).isEmpty then
        s0.logEnd r.ctx { tile := i.tile, core := i.core, slot := i.slot, entry := (s.slot i).entry } else s0
    let noRoom := fun (t : Option Title) =>
      (s0.takeBack r).fault i { cause := 0x1B, tindex := (t.map Title.index).getD 0, tgen := (t.map Title.gen).getD 0 }
    if s.isReplaying r.ctx then
      let es := loggedTake (s.streamOf i)
      let ws := es.map LogEntry.value
      let same := takeMatches es r
      if !same && !(s.slot i).skipCheck then
        let w := ws.getD 0 0
        (s.takeBack r).fault i { cause := 0x70, info := if w.toNat < 2 ^ 32 then w.setWidth 32 else 0 }
      else
        let s := (s.dropLogged r.ctx i es.length).modSlot i (fun v => { v with skipCheck := false })
        if same then (s.endTake i a kd r.record r.gotTitle).getD (noRoom r.gotTitle)
        else
          let s := s.takeBack r
          let (t, s) := if ws.length = 8 then (let (t, s) := s.supplyTitle r.ctx (ws.drop 4); (some t, s)) else (none, s)
          (s.endTake i a kd (ws.take 4) t).getD (noRoom t)
    else
      let images := match r.gotTitle with
        | some t => t.dwords
        | none => []
      let s := s.logAll i (r.record.map (fun w => ((0x06 : Byte), w)) ++ images.map (fun w => ((0x04 : Byte), w)))
      (s.endTake i a kd r.record r.gotTitle).getD (noRoom r.gotTitle)

/-- The reply of a pool request (R325, R326). -/
def State.poolReply (s : State) (r : Req) : State :=
  match r.kind, r.state with
  | .take _ a kd, .replied _ _ => s.takeReply r a kd
  | .insert .., .replied _ m =>
    let s := s.dropReq r.id
    if m = .indet then s.deferred r.ctx 0x36 { tile := r.src.tile, core := r.src.core, slot := r.src.slot, entry := r.entry } else s
  | _, _ => s

/-! ### Arrivals at a shard -/

/-- A request that its pool refuses when it arrives or while it waits (R310): an insert and a `PTAKE.M` leave a deferred cause, the title
of an insert goes back, and a `PTAKE.NB` raises the cause at its slot. [log 59 DEDUCED] -/
def State.refusePool (s : State) (r : Req) (c : BitVec 7) : State :=
  let i := r.src
  let who : FaultRec := { tile := i.tile, core := i.core, slot := i.slot, entry := r.entry }
  match r.kind with
  | .insert _ _ _ title => ((s.dropReq r.id).releaseBack (clusterOf i.tile) title.toList).deferred r.ctx c who
  | .takeM _ _ b => ((s.dropReq r.id).freeBuffer i.tile b).deferred r.ctx c who
  | _ => if (s.slot i).wait = some (.reply r.id) then ((s.dropReq r.id).modSlot i (fun v => { v with wait := none })).fault i { cause := c }
    else s.dropReq r.id

/-- An insert reaches its shard (R310, R316, R322, R324): the replay filter answers it first, whatever has become of its pool. -/
def execPoolInsertArrive (id : Nat) (s : State) : Out := .next (
  match s.req? id with
  | none => s
  | some r => match r.kind with
    | .insert p key value title =>
      let d := dieOf r.src.tile
      let q := s.pool p
      let h := q.shard d
      let home : Home := .shard p d
      if r.state ≠ .sent ∨ s.poolBefore r.src p id then s
      else match (s.home home).stored (SlotId_num r.src) r.seq with
        | some _ => s.ackInsert id
        | none =>
          if !s.poolLives r then s.refusePool r 0x64
          else if r.replay then s.modReq id (fun x => { x with state := .replied 0 .indet })
          else if h.round ≥ lastRound then s.refusePool r 0x65
          else if h.full q then s.modReq id (fun x => { x with state := .notParked, sinceOffer := 0 })
          else
            let s := s.modShard p d (fun h => { h with sinceCut := true })
            if h.phase = .cut then
              (s.modShard p d (fun h => { h with held := h.held ++
                [{ id := id, key := key, value := value, title := title, afterCut := true }] })).modReq id (fun x => { x with state := .parked })
            else match s.placeInsert p d id key value title with
              | (true, s) => s.serveParked p d 1024
              | (false, s) => s
    | _ => s)

/-- POOL_INSERT_REOFFER (R322): a refused insert is offered again every 256 cycles. -/
def execPoolInsertReoffer (id : Nat) (s : State) : Out := .next (
  match s.req? id with
  | some r => match r.kind with
    | .insert .. => if r.state = .notParked ∧ r.sinceOffer ≥ 256 then s.modReq id (fun x => { x with state := .sent, sinceOffer := 0, age := 0, resends := 0 }) else s
    | _ => s
  | none => s)

/-- POOL_INSERT_DISCARD (R322): after 2,000,000 cycles a refused insert is discarded, with deferred 0x66. -/
def execPoolInsertDiscard (id : Nat) (s : State) : Out := .next (
  match s.req? id with
  | some r => match r.kind with
    | .insert _ _ _ title =>
      if r.state = .notParked ∧ r.sinceRefusal ≥ 2000000 then
        ((s.dropReq id).releaseBack (clusterOf r.src.tile) title.toList).deferred r.ctx 0x66
          { tile := r.src.tile, core := r.src.core, slot := r.src.slot, entry := r.entry }
      else s
    | _ => s
  | none => s)

/-- The die a stealing take asks next (R317): in decreasing servable count at the last cut, the lower die first. -/
def nextVictim (h : Shard) (d : BitVec 3) (asked : List (BitVec 3)) : Option (BitVec 3) :=
  let dies := ((List.range 8).map (BitVec.ofNat 3)).filter (fun v => v != d && !asked.contains v)
  dies.foldl (fun (best : Option (BitVec 3)) v => match best with
    | none => some v
    | some b => if h.counts.getD v.toNat 0 > h.counts.getD b.toNat 0 then some v else some b) none

/-- Whether a `PTAKE.NB` that finds nothing reads EMPTY (R321). [log 59 DEDUCED] -/
def State.seesEmpty (s : State) (r : Req) (p : BitVec 6) (d : BitVec 3) : Bool :=
  let q := s.pool p
  let h := q.shard d
  h.round != 0 && q.lastTotal == 0 && !h.sinceCut && !(s.reqs.any (fun x => x.src == r.src && x.poolNo == some p && (match x.kind with
    | .insert .. => true
    | _ => false)))

/-- A take reaches its shard, or goes on there (R313, R315, R317, R321, R326, R327); one resent after its answer is answered with the same
record (R324). -/
def execPoolTakeArrive (id : Nat) (s : State) : Out := .next (
  match s.req? id with
  | none => s
  | some r => match r.poolNo with
    | none => s
    | some p =>
      let d := dieOf r.src.tile
      let isM := match r.kind with
        | .takeM .. => true
        | _ => false
      let isTake := isM || (match r.kind with
        | .take .. => true
        | _ => false)
      if !isTake ∨ r.state ≠ .sent ∨ s.poolBefore r.src p id then s
      else if !r.record.isEmpty then s.modReq id (fun x => { x with state := .replied 0 .none })
      else if !s.poolLives r then s.refusePool r 0x64
      else if (s.shard p d).round ≥ lastRound then s.refusePool r 0x65
      else if (s.shard p d).phase ≠ .normal ∨ (s.pool p).moving.any (fun t => t.for_ == some id) then s
      else
        let s := s.serveParked p d 1024
        let h := s.shard p d
        match h.pick with
        | some e => if e.spilled then s else s.answerTake r d (some e) 0
        | none =>
          if (nextVictim h d r.asked).isSome then
            if h.queue.contains id then s else s.modShard p d (fun h => { h with queue := h.queue ++ [id] })
          else
            let empty := s.seesEmpty r p d
            if isM then
              if h.parked.length < 1024 then
                (s.modShard p d (fun h => { h with parked := h.parked ++ [id], queue := h.queue.filter (fun x => x != id) })).modReq id
                  (fun x => { x with state := .parked, asked := [] })
              else (s.answerTake r d none 2).modShard p d (fun h => { h with early := true })
            else
              let s := s.answerTake r d none (if empty then 1 else 2)
              if empty then s else s.modShard p d (fun h => { h with early := true }))

/-- What a victim sends (R317): half of its overdue and servable elements, at most 32. -/
def Shard.stealBatch (v : Shard) : List Elem :=
  let late := v.elems.filter Elem.overdue
  let serv := v.elems.filter (fun e => !e.overdue && v.servable e)
  let n := Nat.min 32 ((late.length + serv.length + 1) / 2)
  oldest n late ++ largest (n - late.length) serv

/-- STEAL_REQUEST (R317): the victim sends its batch, or declines; the spilled elements among it are read back first, and the request waits
where memory keeps one. -/
def execStealRequest (id : Nat) (victim : BitVec 3) (s : State) : Out := .next (
  match s.req? id with
  | none => s
  | some r => match r.poolNo with
    | none => s
    | some p =>
      let d := dieOf r.src.tile
      let h := s.shard p d
      let v := s.shard p victim
      if !h.queue.contains id ∨ h.phase ≠ .normal ∨ v.phase ≠ .normal ∨ nextVictim h d r.asked ≠ some victim ∨
          (s.pool p).moving.any (fun t => t.for_ == some id) then s
      else match s.refillAll p victim r.src [] 0 (v.stealBatch.filter Elem.spilled) with
        | (false, s) => s
        | (true, s) =>
          let batch := (s.shard p victim).stealBatch.filter (fun e => !e.spilled)
          let s := (s.modReq id (fun x => { x with asked := x.asked ++ [victim] })).exchange d victim id
          if batch.isEmpty then s
          else
            let s := s.modShard p victim (fun x => { x with elems := x.elems.filter (fun e => !batch.contains e) })
            s.modPool p (fun q => { q with moving := q.moving ++ [{ src := victim, dst := d, elems := batch, for_ := some id }] }))

/-- Elements land at a shard, on chip, once it has room for them there (R317, R318, R322). -/
def State.land (s : State) (p : BitVec 6) (d : BitVec 3) (es : List Elem) : Bool × State :=
  match s.makeRoom p d (dieSlot d) es.length with
  | (false, s) => (false, s)
  | (true, s) => (true, s.modShard p d (fun h => { h with elems := h.elems ++ es }))

/-- The pool in which a batch travels for request id. -/
def State.batchPool (s : State) (id : Nat) : Option (BitVec 6) :=
  (s.pools.find? (fun e => e.2.moving.any (fun t => t.for_ == some id))).map (fun e => BitVec.ofNat 6 e.1)

/-- STEAL_BATCH (R315, R317, R327): the batch lands, whatever has become of its take; unless a turn has begun the parked takes are
served, and then the waiting take is performed over all that its shard holds. [log 59 DEDUCED] -/
def execStealBatch (id : Nat) (s : State) : Out := .next (
  match s.batchPool id with
  | none => s
  | some p => match (s.pool p).moving.find? (fun t => t.for_ == some id) with
    | none => s
    | some t =>
      match s.land p t.dst t.elems with
      | (false, s) => s
      | (true, s) =>
        let s := s.modPool p (fun q => { q with moving := removeFirst (fun x => x.for_ == some id) q.moving })
        let s := s.serveParked p t.dst 1024
        let h := s.shard p t.dst
        match s.req? id, h.pick with
        | some r, some e => if h.phase ≠ .normal ∨ r.state ≠ .sent ∨ e.spilled then s else s.answerTake r t.dst (some e) 0
        | _, _ => s)

/-- REBALANCE_TRANSFER (R318): elements sent by rebalancing arrive. -/
def execRebalanceTransfer (p : BitVec 6) (i : Nat) (s : State) : Out := .next (
  match (s.pool p).moving[i]? with
  | some t => if t.for_.isSome then s
    else
      match s.land p t.dst t.elems with
      | (false, s) => s
      | (true, s) => (s.modPool p (fun q => { q with moving := q.moving.eraseIdx i })).serveParked p t.dst 1024
  | none => s)

/-- REFILL_COMPLETE (R322): a shard that holds its quota spills; below three quarters of it the smallest spilled elements come back, up to
the quota, and a spilled element that a take waits for comes back in any case. Records at the positions `lost` of that batch are found
uncorrectable. [log 59 DEDUCED] -/
def execRefillComplete (p : BitVec 6) (d : BitVec 3) (lost : List Nat) (s : State) : Out := .next (
  let q := s.pool p
  let h := q.shard d
  let due := h.pick.toList.filter Elem.spilled
  if !q.configured ∨ h.paused.isSome then s
  else if h.onChip ≥ q.quota then (s.makeRoom p d (dieSlot d) 1).2
  else
    let back := due ++ (if h.onChip ≥ 3 * q.quota / 4 then []
      else smallest (q.quota - 1 - h.onChip - due.length) (h.elems.filter (fun e => e.spilled && !due.contains e)))
    (s.refillAll p d (dieSlot d) lost 0 back).2.serveParked p d 1024)

/-- The shard whose engine awaits the answer to a retry record (R141). -/
def State.pausedShard (s : State) (seq : BitVec 16) : Option (BitVec 6 × BitVec 3) :=
  s.pools.findSome? (fun e => (e.2.shards.find? (fun h => h.2.paused == some seq)).map (fun h => (BitVec.ofNat 6 e.1, BitVec.ofNat 3 h.1)))

/-- A refused retry record of a pool engine (R141): its work ends, and the requests that wait on it at the shard raise 0x30. [log 71 DEDUCED] -/
def State.refuseShard (s : State) (p : BitVec 6) (d : BitVec 3) : State :=
  let s := s.modShard p d (fun h => { h with paused := none })
  (s.reqs.filter (fun r => r.poolNo == some p && dieOf r.src.tile == d && r.state == .sent && s.poolLives r)).foldl
    (fun s r => s.refusePool r 0x30) s

/-! ### Turns -/

def dies : List (BitVec 3) := (List.range 8).map (BitVec.ofNat 3)

/-- A shard requests an early turn (R310, R313). -/
def Shard.wantsTurn (h : Shard) : Bool := h.early || !h.held.isEmpty || !h.parked.isEmpty || h.inserts ≥ 8191

/-- Whether Etesian starts a turn (R313); the round numbers end at 2^48 − 1 (R310). [log 12 DESIGN CHOICE] -/
def Pool.turnDue (q : Pool) : Bool :=
  q.configured && !q.turning && dies.all (fun d => (q.shard d).phase == .normal && (q.shard d).round < lastRound) &&
    (q.sinceCut ≥ 256 * cfgRound q.word || (q.sinceCut ≥ 512 && dies.any (fun d => (q.shard d).wantsTurn)))

def Pool.mapShards (q : Pool) (f : BitVec 3 → Shard → Shard) : Pool :=
  { q with shards := dies.map (fun d => (d.toNat, f d (q.shard d))) }

/-- POOL_TURN: every shard receives TURN. -/
def execPoolTurn (p : BitVec 6) (s : State) : Out := .next (
  if (s.pool p).turnDue then s.modPool p (fun q => { q.mapShards (fun _ h => { h with phase := .turned }) with turning := true }) else s)

/-- POOL_READY: a shard without transfers is READY; with the eighth, CUT is sent and the new configuration applies (R313, R328). [log 10 DEDUCED] -/
def execPoolReady (p : BitVec 6) (d : BitVec 3) (s : State) : Out := .next (
  let q := s.pool p
  if (q.shard d).phase ≠ .turned ∨ q.moving.any (fun t => t.src == d || t.dst == d) then s
  else
    let s := s.modShard p d (fun h => { h with phase := .ready })
    if dies.all (fun x => ((s.pool p).shard x).phase == .ready) then
      s.modPool p (fun q => { q with word := q.next, sinceCut := 0, quota := 131072 / Nat.max 1 s.poolCount })
    else s)

/-- The held inserts are performed at the cut point in their order, or, beyond the stamps of the round, put off to adoption (R310, R316);
false where one must wait for a spill. -/
def State.cutHeld (s : State) (p : BitVec 6) (d : BitVec 3) : Nat → Bool × State
  | 0 => (true, s)
  | f + 1 =>
    let h := s.shard p d
    match h.held.find? (fun x => !x.afterCut) with
    | none => (true, s)
    | some x =>
      if h.inserts ≥ 8191 then
        State.cutHeld (s.modShard p d (fun h => { h with held := h.held.map (fun y => if y.id == x.id then { y with afterCut := true } else y) })) p d f
      else match s.performInsert p d x.id x.key x.value x.title with
        | (true, s) => State.cutHeld (s.modShard p d (fun h => { h with held := h.held.filter (fun y => y.id != x.id) })) p d f
        | r => r

/-- POOL_CUT (R313, R320): held inserts, overdue flags, and the report to every shard. [log 11 DEDUCED] -/
def execPoolCut (p : BitVec 6) (d : BitVec 3) (s : State) : Out := .next (
  let q := s.pool p
  if (q.shard d).phase ≠ .ready ∨ !dies.all (fun x => (q.shard x).phase == .ready || (q.shard x).phase == .cut) then s
  else match s.cutHeld p d ((q.shard d).held.length + 1) with
    | (false, s) => s
    | (true, s) =>
      let s := s.modShard p d (fun h => { h with
        elems := h.elems.map (fun e => if h.round - e.stamp.toNat / 2 ^ 16 > cfgPagemax q.word then { e with overdue := true } else e)
        sinceCut := false, phase := .cut })
      let h := s.shard p d
      let rep := (d, h.elems.length, (smallest (cfgAlpha q.word) h.elems).map (fun e => (e.key, e.stamp)))
      let s := dies.foldl (fun (s : State) x => s.exchange d x (cfgAlpha q.word)) s
      s.modPool p (fun q => q.mapShards (fun _ h => { h with reports := h.reports ++ [rep] })))

/-- The α-th smallest pair of the reports (R314). -/
def thresholdOf (alpha : Nat) (pairs : List (Word × Word)) : Option (Word × Word) :=
  let es : List Elem := pairs.map (fun x => { key := x.1, value := 0, title := none, stamp := x.2 })
  let sorted := smallest alpha es
  if sorted.length < alpha then none else sorted.getLast?.map (fun e => (e.key, e.stamp))

/-- Inserts held between a shard's cut point and its adoption are performed or held under the new round (R316); the shard has made room for
all of them before. -/
def State.placeHeld (s : State) (p : BitVec 6) (d : BitVec 3) : List Held → State
  | [] => s
  | x :: xs => State.placeHeld (s.placeInsert p d x.id x.key x.value x.title).2 p d xs

/-- In the last round a shard refuses what it holds and has parked (R310). [log 59 DEDUCED] -/
def State.closeShard (s : State) (p : BitVec 6) (d : BitVec 3) (later : List Held) : State :=
  let h := s.shard p d
  let ids := (h.held ++ later).map Held.id ++ h.parked
  let s := s.modShard p d (fun h => { h with held := [], parked := [], queue := [] })
  ids.foldl (fun s id => match s.req? id with
    | some r => s.refusePool r 0x65
    | none => s) s

/-- Rebalancing of one kind of elements (R318): the shards above the mean send their largest, in die order, to those below; spilled ones are
read back first, and those that memory keeps waiting stay. [log 11 DEDUCED] -/
def State.rebalance (s0 : State) (p : BitVec 6) (counts : List Nat) (kind : Shard → Elem → Bool) : State :=
  let mean := (counts.sum + 7) / 8
  let surplus := fun (s : State) (d : BitVec 3) =>
    let h := s.shard p d
    largest (counts.getD d.toNat 0 - mean) (h.elems.filter (kind h))
  let s := dies.foldl (fun (s : State) d => (s.refillAll p d (dieSlot d) [] 0 ((surplus s d).filter Elem.spilled)).2) s0
  let give : List (BitVec 3 × Elem) := dies.flatMap (fun d => ((surplus s d).filter (fun e => !e.spilled)).map (fun e => (d, e)))
  let fill := dies.foldl (fun (a : List (BitVec 3 × Elem) × List Transfer) d =>
    let n := mean - counts.getD d.toNat 0
    (a.1.drop n, a.2 ++ (a.1.take n).map (fun x => { src := x.1, dst := d, elems := [x.2], for_ := none }))) (give, [])
  let gone := fill.2.flatMap Transfer.elems
  let s := fill.2.foldl (fun (s : State) t => s.exchange t.src t.dst t.elems.length) s
  s.modPool p (fun q => { q.mapShards (fun _ h => { h with elems := h.elems.filter (fun e => !gone.contains e) }) with
    moving := q.moving ++ fill.2 })

/-- POOL_REPORT (R313, R314, R318): with all eight reports a shard adopts T_{n+1}, and what its parked takes may steal is asked for anew
(R315); with the last adoption the turn is over, and elements are spread. [log 11 DEDUCED, 59 DEDUCED] -/
def execPoolReport (p : BitVec 6) (d : BitVec 3) (s : State) : Out := .next (
  let q := s.pool p
  let h := q.shard d
  if h.phase ≠ .cut ∨ h.reports.length < 8 then s
  else match s.makeRoom p d (dieSlot d) (h.held.filter Held.afterCut).length with
  | (false, s) => s
  | (true, s) =>
    let t := thresholdOf (cfgAlpha q.word) (h.reports.flatMap (fun r => r.2.2))
    let total := (h.reports.map (fun r => r.2.1)).sum
    let below := fun (x : Word × Word) => match t with
      | some m => pairOf x.1 x.2 ≤ pairOf m.1 m.2
      | none => true
    let counts := dies.map (fun x => ((h.reports.filter (fun r => r.1 == x)).flatMap (fun r => r.2.2.filter below)).length)
    let later := h.held.filter Held.afterCut
    let s := (h.queue ++ h.parked).foldl (fun (s : State) id => s.modReq id (fun r => { r with asked := [] })) s
    let s := s.modShard p d (fun h => { h with
      held := h.held.filter (fun x => !x.afterCut), round := h.round + 1, t := t, blind := 0, inserts := 0, phase := .normal
      reports := [], early := false, counts := counts, queue := h.parked })
    let s := s.modPool p (fun q => { q with lastTotal := total })
    let s := if h.round + 1 ≥ lastRound then s.closeShard p d later else s.placeHeld p d later
    let s := if dies.all (fun x => ((s.pool p).shard x).phase == .normal) then
        let s := s.modPool p (fun q => { q with turning := false })
        let s := s.rebalance p counts (fun h e => !e.overdue && h.servable e)
        s.rebalance p (dies.map (fun x => ((s.shard p x).elems.filter Elem.overdue).length)) (fun _ e => e.overdue)
      else s
    s.serveParked p d 1024)

/-! ### Draining -/

/-- A pool is drained and unconfigured (R330, R309); the number of elements removed. -/
def State.drainPool (s : State) (cl : BitVec 6) (p : BitVec 6) : Nat × State :=
  let q := s.pool p
  let hs := dies.map q.shard
  let es := hs.flatMap Shard.elems ++ q.moving.flatMap Transfer.elems
  let held := hs.flatMap Shard.held
  let parked := dies.flatMap (fun d => (q.shard d).parked.map (fun id => (d, id)))
  let s := s.releaseBack cl (es.filterMap Elem.title ++ held.filterMap Held.title)
  let s := (dies.flatMap (fun d => (q.shard d).held.map (fun x => (d, x.id)))).foldl (fun (s : State) x => (s.keepPool p x.1 x.2).ackInsert x.2) s
  let s := parked.foldl (fun (s : State) x => match s.req? x.2 with
    | some r => s.answerTake r x.1 none 3
    | none => s) s
  (es.length + held.length, { s with pools := drop s.pools p.toNat })

def execPdrain (rd rs : XReg) (s : State) : Out := .next (insn .none [rs] (fun s => do
  need ((s.ctxOf s.cur).func == 0) 0x01
  let p : BitVec 6 := (s.me.xr rs).setWidth 6
  if (s.pool p).configured then
    let (n, s) := s.drainPool (clusterOf s.cur.tile) p
    .ok (s.retireX rd (BitVec.ofNat 64 n))
  else .ok (s.retireX rd 0)) s)

/-- ATOMIC_RESEND (R119): 50 µs without a reply; a reply on its way is lost then. After 8 resends the request is given up. A remote
write without its acknowledgement is resent and given up alike; the element of a take that was answered goes back to its pool (R326). [log 44 DEDUCED, 49 DEDUCED] -/
def execAtomicResend (id : Nat) (s : State) : Out := .next (
  match s.req? id with
  | none => s
  | some r =>
    let open_ := match r.state with
      | .sent | .replied _ _ => true
      | _ => false
    if !(r.isAmo || r.isPool || r.isRemote) ∨ !open_ ∨ r.age < 50000 ∨ s.replyHeld r then s
    else if r.resends ≥ 8 then (s.giveUp r).takeBack r
    else s.sendAgain r (fun q => { q with replay := true, resends := q.resends + 1 }))

/-- ATOMIC_REPLY (R109, R247, R248, R325, R326): the reply of an atomic or of a pool request reaches its slot. -/
def execAtomicReply (id : Nat) (s : State) : Out := .next (
  match s.req? id with
  | none => s
  | some r => if r.isAmo then s.amoReply r else s.poolReply r)

end Sys2Proof.Machine
end

