-- ==== Sys2Proof/Machine/Sha3.lean ====
section
/-! DEFINITION. SHA3-256, the hash of the measurement registers (R35, R36). -/

namespace Sys2Proof.Machine

/-- The sponge's 1600 bits as 25 words, of which word 5 r + c is the one in column c of row r. -/
structure Sponge where
  words : List (BitVec 64)

def Sponge.word (a : Sponge) (c r : Nat) : BitVec 64 := a.words.getD (5 * (r % 5) + c % 5) 0

/-- The words given row by row. -/
def Sponge.fill (f : Nat → Nat → BitVec 64) : Sponge := ⟨(List.range 5).flatMap (fun r => (List.range 5).map (fun c => f c r))⟩

/-- Columns summed bit by bit, and what a column takes from its neighbours. -/
def Sponge.sums (a : Sponge) : List (BitVec 64) := (List.range 5).map (fun c => (List.range 5).foldl (fun w r => w ^^^ a.word c r) 0)
def Sponge.mixOf (sums : List (BitVec 64)) (c : Nat) : BitVec 64 :=
  sums.getD ((c + 4) % 5) 0 ^^^ (sums.getD ((c + 1) % 5) 0).rotateLeft 1

/-- How far the words are turned: word by word along the path (c, r), (r, 2c + 3r), … from (1, 0), the n-th by the n-th triangular number. -/
def turnsFrom : Nat → Nat → Nat → Nat → List (Nat × Nat)
  | 0, _, _, _ => []
  | f + 1, n, c, r => (5 * r + c, (n * (n + 1) / 2) % 64) :: turnsFrom f (n + 1) r ((2 * c + 3 * r) % 5)
def turnOf (turns : List (Nat × Nat)) (c r : Nat) : Nat := (turns.lookup (5 * r + c)).getD 0

/-- Steps θ, ρ and π of FIPS 202: each word is mixed with its neighbour columns, turned, and moved. -/
def Sponge.spread (turns : List (Nat × Nat)) (a : Sponge) : Sponge :=
  let s := a.sums
  let from_ := fun (c r : Nat) => (a.word c r ^^^ Sponge.mixOf s c).rotateLeft (turnOf turns c r)
  Sponge.fill (fun c r => from_ ((c + 3 * r) % 5) c)

/-- Steps χ and ι: the rows, and the round's constant in word 0. -/
def Sponge.rows (a : Sponge) (k : BitVec 64) : Sponge :=
  Sponge.fill (fun c r => (a.word c r ^^^ (a.word (c + 2) r &&& ~~~(a.word (c + 1) r))) ^^^ (if c = 0 ∧ r = 0 then k else 0))

/-- The shift register that gives the rounds their constants: its output bit is bit 0. -/
def lfsrNext (q : Byte) : Byte := if q.getLsbD 7 then (q <<< 1) ^^^ 0x71 else q <<< 1

/-- Seven outputs of the register stand at bits 0, 1, 3, 7, 15, 31 and 63 of a round's constant. -/
def roundWord : Nat → Nat → Byte → BitVec 64 × Byte
  | 0, _, q => (0, q)
  | f + 1, j, q =>
    let (k, q') := roundWord f (j + 1) (lfsrNext q)
    ((if q.getLsbD 0 then k ||| (1#64 <<< (2 ^ j - 1)) else k), q')

def Sponge.rounds (turns : List (Nat × Nat)) : Nat → Byte → Sponge → Sponge
  | 0, _, a => a
  | f + 1, q, a =>
    let (k, q') := roundWord 7 0 q
    Sponge.rounds turns f q' ((a.spread turns).rows k)

/-- The 24 rounds. -/
def Sponge.permute (a : Sponge) : Sponge := Sponge.rounds (turnsFrom 24 1 1 0) 24 1 a

/-- Eight bytes as a word, the first the least significant. -/
def wordOf : List Byte → BitVec 64
  | [] => 0
  | b :: bs => (wordOf bs <<< 8) ||| b.setWidth 64

/-- A block of 136 bytes is added to the first 17 words, and the sponge permuted. -/
def Sponge.absorb (a : Sponge) (bs : List Byte) : Sponge :=
  Sponge.permute (Sponge.fill (fun c r => a.word c r ^^^ (if 5 * r + c < 17 then wordOf ((bs.drop (8 * (5 * r + c))).take 8) else 0)))

/-- The message filled up to whole blocks: 0x06, zeros, and the top bit of the last byte. -/
def sha3Pad (bs : List Byte) : List Byte :=
  let n := 136 - bs.length % 136
  bs ++ if n = 1 then [0x86] else 0x06 :: (List.replicate (n - 2) 0 ++ [0x80])

def Sponge.absorbAll : Nat → Sponge → List Byte → Sponge
  | 0, a, _ => a
  | n + 1, a, bs => Sponge.absorbAll n (a.absorb (bs.take 136)) (bs.drop 136)

/-- SHA3-256 of a message; byte 0 of the digest is bits [7:0] of the result. [log 5 DESIGN CHOICE] -/
def sha3 (bs : List Byte) : BitVec 256 :=
  let p := sha3Pad bs
  let a := Sponge.absorbAll (p.length / 136) ⟨[]⟩ p
  a.word 3 0 ++ a.word 2 0 ++ a.word 1 0 ++ a.word 0 0

end Sys2Proof.Machine
end

