-- ==== Sys2Proof/Machine/Spdm.lean ====
section
/-! DEFINITION. The responses of SPDM 1.3 (R37). R37 names the version, the messages and the algorithms; the layouts are those of the
standard, DSP0274. -/

namespace Sys2Proof.Machine

/-- A message: version, code, two parameters, the rest. [log 72 PRESUMED] -/
def spdmMessage (version code p1 p2 : Byte) (rest : List Byte) : List Byte := version :: code :: p1 :: p2 :: rest

/-- A response of version 1.3. -/
def spdm13 (code p1 p2 : Byte) (rest : List Byte) : List Byte := spdmMessage 0x13 code p1 p2 rest

/-- ERROR, unexpected request. [log 72 PRESUMED] -/
def errorBody : List Byte := spdm13 0x7F 0x04 0 []

/-- VERSION, which SPDM sends under version 1.0: one entry, 1.3. [log 72 PRESUMED] -/
def versionBody : List Byte := spdmMessage 0x10 0x04 0 0 ([0, 1] ++ leBytes 2 0x1300)

/-- CAPABILITIES: certificates, challenges and signed measurements, which are what R37's messages need. [log 72 PRESUMED] -/
def capabilitiesBody : List Byte :=
  spdm13 0x61 0 0 ([0, Config.spdmTime, 0, 0] ++ leBytes 4 0x16 ++ leBytes 4 Config.spdmTransfer ++ leBytes 4 Config.spdmSize)

/-- ALGORITHMS: SHA3-256 as the base hash and the hash of measurements, ML-DSA-44 as the signature, an extended algorithm for which
version 1.3 has no number of its own. [log 72 PRESUMED] -/
def algorithmsBody : List Byte :=
  spdm13 0x63 0 0 (leBytes 2 40 ++ [1, 0] ++ leBytes 4 0x10 ++ leBytes 4 0 ++ leBytes 4 0x08 ++ List.replicate 12 0 ++ [1, 0, 0, 0] ++
    leBytes 4 Config.mlDsa44)

/-- DIGESTS: that of the chain, in slot 0. [log 72 PRESUMED] -/
def digestsBody : List Byte := spdm13 0x01 1 1 (leBytes 32 (sha3 Config.certificateChain).toNat)

/-- CERTIFICATE: a portion of the chain, and how much is left. [log 72 PRESUMED] -/
def certificateBody (offset length : Nat) : List Byte :=
  let portion := (Config.certificateChain.drop offset).take length
  spdm13 0x02 0 0 (leBytes 2 portion.length ++ leBytes 2 (Config.certificateChain.length - offset - portion.length) ++ portion)

/-- A measurement block: its index, the value's type with its size, and the value. [log 72 PRESUMED] -/
def blockOf (index kind : Byte) (value : List Byte) : List Byte :=
  [index, 1] ++ leBytes 2 (3 + value.length) ++ [kind] ++ leBytes 2 value.length ++ value

/-- A body with the responder's nonce, no opaque data, the requester's context, which the request event does not carry, and the
signature. [log 72 PRESUMED] -/
def signedBody (asked : List Byte) (nonce : BitVec 256) (code p1 p2 : Byte) (head : List Byte) (tail : List Byte) : List Byte :=
  let body := spdm13 code p1 p2 (head ++ leBytes 32 nonce.toNat ++ tail ++ leBytes 2 0 ++ List.replicate 8 0)
  body ++ Config.deviceSign (asked ++ body)

/-- CHALLENGE_AUTH: the digest of the chain, the nonce, and the digest of all measurement blocks, signed with the requester's nonce. [log 72 PRESUMED] -/
def challengeBody (asked : BitVec 256) (nonce : BitVec 256) (blocks : List Byte) : List Byte :=
  signedBody (leBytes 32 asked.toNat) nonce 0x03 0 1 (leBytes 32 (sha3 Config.certificateChain).toNat) (leBytes 32 (sha3 blocks).toNat)

/-- MEASUREMENTS: n blocks, signed. [log 72 PRESUMED] -/
def measurementsBody (nonce : BitVec 256) (n : Nat) (blocks : List Byte) : List Byte :=
  signedBody [] nonce 0x60 0 0 ([BitVec.ofNat 8 n] ++ leBytes 3 blocks.length ++ blocks) []

end Sys2Proof.Machine
end

