-- ==== Sys2Proof/Machine/Fabric.lean ====
section
/-! DEFINITION. The events of the Zonda fabric (R18 to R22), boot, measurement and attestation (R33, R35 to R38), power and telemetry
(R39 to R41). -/

namespace Sys2Proof.Machine

/-! ### Zonda links -/

/-- A flit with a right CRC arrives: it is put in link-sequence order, what is delivered is acknowledged, and the packets that end in
it are home or go on (R18, R22). -/
def State.flitArrives (s : State) (src dst : BitVec 3) (lsn : Nat) (payload : List Byte) : State :=
  let l := ((s.link src dst).modFlit lsn (fun x => { x with flying := false })).receive lsn true payload
  let home := (l.replay.filter (fun x => (s.link src dst).expected ≤ x.lsn && x.lsn < l.expected)).filterMap Flit.ends
  home.foldl (fun s p => s.packetAt dst p) (s.modLink src dst (fun _ => l.acked))

/-- ZONDA_FLIT_RECEIVE (R18, R19): the beats of a flit arrive on the lanes of a group that carries traffic; `lsn` is the sequence number
of its header, `crcOk` whether its CRC is found right. [log 55 DEDUCED] -/
def execZondaFlitReceive (src dst : BitVec 3) (group : BitVec 6) (lsn : Nat) (crcOk : Bool) (beats : List (BitVec 128)) (s : State) : Out :=
  .next (
  let l := s.link src dst
  let g := l.group group
  if l.state.toNat ≥ 2 ∨ !g.carries then s
  else if crcOk then s.flitArrives src dst lsn (flitPayload (destripe g.mask beats))
  else s.modLink src dst (fun l => l.failed group lsn))

/-- LANE_REMOVAL (R20): after more than 64 CRC failures within 1 ms the group stops for a retraining that removes the faulted lane, and
its flits go to the other groups. -/
def execLaneRemoval (src dst : BitVec 3) (group : BitVec 6) (lane : BitVec 4) (s : State) : Out := .next (
  let g := (s.link src dst).group group
  if g.training ∨ !g.mask.getLsbD lane.toNat ∨ !g.faulty then s
  else s.modLink src dst (fun l => (l.setGroup group { g with
    training := true, next := g.mask &&& ~~~(1#16 <<< lane.toNat)
    retrains := if g.retrains = 255 then 255 else g.retrains + 1 }).reassign))

/-- Requests between dies that no longer reach each other are given up at their sender (R22). [log 43 DEDUCED] -/
def State.dropUnreachable (s : State) : State :=
  (s.reqs.filter (fun r => match r.home.die with
    | some d => !s.reach (dieOf r.src.tile) d
    | none => false)).foldl (fun s r => s.giveUp r) s

/-- A link fails or is withdrawn, in both directions (R22): the packets that entered it and were not acknowledged are sent again on
the detour, in their order. [log 43 DEDUCED] -/
def State.failLink (s : State) (a b : BitVec 3) (st : BitVec 2) : State :=
  let f := fun (l : Link28) => { l with state := st, held := [], resend := [], replay := [] }
  let there := (s.link a b).unacked
  let back := (s.link b a).unacked
  let s := (s.modLink a b f).modLink b a f
  (back.foldl (fun s p => s.sendPacket b p) (there.foldl (fun s p => s.sendPacket a p) s)).dropUnreachable

/-- RETRAIN_DONE (R20, R22): both ends adopt the lane mask; a link whose last group is dead fails. A full link counts as degraded
(R21) once a group of it has been retrained. [log 66 DESIGN CHOICE] -/
def execRetrainDone (src dst : BitVec 3) (group : BitVec 6) (s : State) : Out := .next (
  let g := (s.link src dst).group group
  if !g.training then s
  else
    let s := s.modLink src dst (fun l => Link28.reassign
      { (l.setGroup group { g with training := false, mask := g.next, lanes := BitVec.ofNat 5 (popcount16 g.next) }) with
        state := if l.state = 0 then 1 else l.state })
    if (s.link src dst).live = 0 ∧ (s.link src dst).state.toNat < 2 then s.failLink src dst 2 else s)

/-- LINK_FAILURE (R22): firmware withdraws the link, or its last group is dead. -/
def execLinkFailure (src dst : BitVec 3) (withdrawn : Bool) (s : State) : Out := .next (
  if src = dst then s
  else if withdrawn then s.failLink src dst 3
  else if (s.link src dst).live = 0 then s.failLink src dst 2 else s)

/-! ### Boot, measurement, attestation -/

/-- m ← SHA3-256(m ‖ digest) (R36). -/
def extend256 (m d : BitVec 256) : BitVec 256 := sha3 (leBytes 32 m.toNat ++ leBytes 32 d.toNat)

def Board.extendReg (b : Board) (n : Nat) (d : BitVec 256) : Board :=
  if h : n < 8 then { b with measures := b.measures.set n (extend256 b.measures[n] d) } else b

/-- Every tile as firmware and the monitor leave it (R35, R38): in service unless the image says otherwise, with its world. -/
def bootTiles (image : BootImage) : Map Tile :=
  (List.range 1024).map (fun n => (n, ({ inService := !image.outOfService.contains (BitVec.ofNat 10 n)
                                         world := image.secureClusters.contains (clusterOf (BitVec.ofNat 10 n)) } : Tile)))
def bootClusters (image : BootImage) : Map Cluster :=
  (List.range 64).map (fun n => (n, ({ world := image.secureClusters.contains (BitVec.ofNat 6 n) } : Cluster)))

/-- What the package is left with: the host's and the peers' memory, and the model's own fields. [log 56 DEDUCED] -/
def State.powerCycle (s : State) : State :=
  { State.reset with mem := s.mem.filter (fun c => c.1 ≥ 2 ^ 70), remote := s.remote, agenda := s.agenda, ticks := s.ticks, nextId := s.nextId }

/-- The boot halts at a step, and function 0 reports it (R35). -/
def Board.halt (b : Board) (step : Nat) : Board := { b with step := step, halted := true, failed := some step }

/-- Register n is extended with a component's digest, and its measurement reports the component's security version (R36, R37). -/
def Board.measure (b : Board) (n : Nat) (c : Component) : Board :=
  let b := b.extendReg n c.digest
  if h : n < 8 then { b with versions := b.versions.set n c.version } else b

/-- Steps 1 to 4 of a start (R35): the image and the monitor are verified and measured, the image's configuration is applied. [log 33 DEDUCED, 56 DEDUCED] -/
def State.bootImage (s : State) (image : BootImage) : State :=
  let s := s.powerCycle
  if !image.firmwareSigned then { s with board := s.board.halt 2 }
  else
    let b := s.board.measure 0 image.firmware
    if !image.monitorSigned then { s with board := b.halt 4 }
    else
      let live := (liveOf image.liveMask).length
      let s := { s with
        board := { b.measure 1 image.monitor with
          step := 4, image := some image, regions := image.regions, unitsSecure := image.secureUnits, hostVisible := image.hostVisible }
        hbm := { s.hbm with liveMask := image.liveMask, liveCap := BitVec.ofNat 40 (live * 48 * 2 ^ 30)
                            shrinkTimeoutMs := image.shrinkTimeoutMs, errorLimit := image.errorLimit } }
      image.withdrawnLinks.foldl (fun s l => s.failLink l.1 l.2 3) s

/-- Step 5 (R35, R38): the tiles are released and function 0's ready bit is set; the accelerator id is the image's, or what function 0
has set in its place. [log 56 DEDUCED] -/
def State.bootRelease (s : State) : State :=
  let b := s.board
  match b.image with
  | some image => { s with
      board := { b with step := 5, ready := true, image := none, accelId := b.accelOver.getD image.accelId }
      tiles := bootTiles image
      clusters := bootClusters image }
  | none => s

/-- POWER_GOOD (R35, R38). [log 8 DESIGN CHOICE] -/
def execPowerGood (phase : BootPhase) (s : State) : Out := .next (match phase with
  | .start image => s.bootImage image
  | .release => s.bootRelease)

/-- ACCEL_ID_OVERRIDE (R38): between power-good and step 5. -/
def execAccelIdOverride (id : BitVec 10) (s : State) : Out := .next (
  if s.board.image.isSome then { s with board := { s.board with accelOver := some id } } else s)

/-- SIGNED_COMPONENT_LOAD (R36): registers 2 to 7 in load order; a component after the one in register 7 finds no register and is not
measured. [log 66 DESIGN CHOICE] -/
def execSignedComponentLoad (component : Component) (signed : Bool) (s : State) : Out := .next (
  let b := s.board
  if !signed ∨ !b.ready ∨ b.nextMeasure > 7 then s
  else { s with board := { b.measure b.nextMeasure component with nextMeasure := b.nextMeasure + 1 } })

/-- An SPDM response (R37): the connection has come to `state`. -/
def State.respond (s : State) (state : Nat) (body : List Byte) : State :=
  { s with board := { s.board with spdm := state, response := body } }

/-- A request that comes before those it needs gets the error response. [log 5 DESIGN CHOICE] -/
def State.spdm (s : State) (needs : Nat) (next : Nat) (body : List Byte) : State :=
  if !s.board.ready then s
  else if s.board.spdm < needs then s.respond s.board.spdm errorBody
  else s.respond next body

def execGetVersion (s : State) : Out := .next (s.spdm 0 1 versionBody)
def execGetCapabilities (s : State) : Out := .next (s.spdm 1 2 capabilitiesBody)
def execNegotiateAlgorithms (s : State) : Out := .next (s.spdm 2 3 algorithmsBody)
/-- GET_DIGESTS: the SHA3-256 digest of the certificate chain. -/
def execGetDigests (s : State) : Out := .next (s.spdm 3 3 digestsBody)
def execGetCertificate (offset length : Nat) (s : State) : Out := .next (s.spdm 3 3 (certificateBody offset length))

/-- The measurement in register n: a block with the register, and one with the security version of its component (R37). [log 5 DESIGN CHOICE, 72 PRESUMED] -/
def Board.measureOne (b : Board) (n : Fin 8) : List Byte :=
  blockOf (BitVec.ofNat 8 (n.val + 1)) 0x01 (leBytes 32 b.measures[n].toNat) ++
    blockOf (BitVec.ofNat 8 (n.val + 9)) 0x87 (leBytes 8 b.versions[n].toNat)

/-- One measurement, or all for any other index. [log 5 DESIGN CHOICE] -/
def Board.measureBytes (b : Board) (n : Nat) : List Byte :=
  if h : n < 8 then b.measureOne ⟨n, h⟩ else (List.finRange 8).flatMap b.measureOne

/-- CHALLENGE: nonce, chain digest and measurements, signed with the device identity key. -/
def execChallenge (nonce : BitVec 256) (s : State) : Out := .next (
  let s' := s.spdm 3 3 (challengeBody nonce (Config.spdmNonce s.ticks) (s.board.measureBytes 8))
  if s.board.ready ∧ s.board.spdm ≥ 3 then { s' with board := { s'.board with nonce := nonce } } else s')

/-- GET_MEASUREMENTS: one register by its number, or all for any other index. -/
def execGetMeasurements (index : Nat) (s : State) : Out := .next (
  s.spdm 3 3 (measurementsBody (Config.spdmNonce s.ticks) (if index < 8 then 2 else 16) (s.board.measureBytes index)))

/-! ### Power, cooling, telemetry -/

def State.clock (s : State) (d : BitVec 3) : Nat := s.board.clocks[d.toNat]

/-- 1 ms has passed since the clock of a die last stepped (R40). -/
def State.clockDue (s : State) (d : BitVec 3) : Bool := s.board.sinceClock[d.toNat] ≥ 1000000

/-- The clock of a die steps to a new frequency. [log 56 DEDUCED] -/
def State.setClock (s : State) (d : BitVec 3) (mhz : Nat) : State :=
  { s with board := { s.board with clocks := s.board.clocks.set d.toNat mhz, sinceClock := s.board.sinceClock.set d.toNat 0 } }

/-- A clock falls by 125 MHz once its 1 ms is over. -/
def State.clockDown (s : State) (d : BitVec 3) : State := if s.clockDue d then s.setClock d (s.clock d - 125) else s

/-- CLOCK_STEP_DOWN (R40): over the power limit the clocks of all dies fall, at 100 °C that of the die. [log 56 DEDUCED] -/
def execClockStepDown (die : BitVec 3) (temp watts : Nat) (s : State) : Out := .next (
  let s : State := { s with board := { s.board with overPower := watts > s.board.powerLimit } }
  if s.board.overPower then ((List.range 8).map (BitVec.ofNat 3)).foldl State.clockDown s
  else if temp ≥ 100 then s.clockDown die else s)

/-- CLOCK_STEP_UP (R40): below 95 °C, and while the module's power was last not above its limit. -/
def execClockStepUp (die : BitVec 3) (temp : Nat) (s : State) : Out := .next (
  if temp < 95 ∧ !s.board.overPower ∧ s.clockDue die then s.setClock die (Nat.min 2000 (s.clock die + 125)) else s)

/-- THERMAL_STOP (R40): no step follows. [log 56 DEDUCED] -/
def execThermalStop (_die : BitVec 3) (temp : Nat) (s : State) : Out := .next (
  if temp ≥ 110 then { s with board := { s.board with stopped := true } } else s)

/-- POWER_LIMIT_SET (R40). -/
def execPowerLimitSet (watts : Nat) (s : State) : Out := .next (
  if 1600 ≤ watts ∧ watts ≤ 3200 then { s with board := { s.board with powerLimit := watts } } else s)

/-- The ordered pairs of different dies. -/
def diePairs : List (BitVec 3 × BitVec 3) :=
  (List.range 64).filterMap (fun n => if n / 8 = n % 8 then none else some (BitVec.ofNat 3 (n / 8), BitVec.ofNat 3 (n % 8)))

/-- TELEMETRY_REPORT (R41): once per millisecond, temperatures and power as measured, correctable-error counts, ZLINK and ZGS, LIVECAP,
and the other migration registers, which function 0 reads through telemetry (R339). -/
def execTelemetryReport (r : Readings) (s : State) : Out := .next (
  if s.board.sinceReport < 1000000 then s
  else
  let corrected := (List.range 16).map (fun n => find 0 s.hbm.corrected n)
  let links := diePairs.flatMap (fun (a, b) => (s.link a b |>.zlink b).toNat ::
    (List.range 52).map (fun g => ((s.link a b).group (BitVec.ofNat 6 g)).zgs.toNat))
  { s with board := { s.board with
      report := r.dieTemp ++ r.diePower ++ [r.modulePower, r.coolantInlet] ++ r.stackTemp ++ corrected ++ links ++ [s.hbm.liveCap.toNat, s.hbm.liveMask.toNat,
        (s.hbm.reg 1).toNat, s.hbm.wmark.toNat]
      overPower := r.modulePower > s.board.powerLimit, sinceReport := 0 } })

end Sys2Proof.Machine
end

