-- ==== Sys2Proof/Machine/Bar.lean ====
section
/-! DEFINITION. BAR0 of a host function (R25): the registers of its launch window (R26) and of its fault ring (R135), by offset. -/

namespace Sys2Proof.Machine

/-- A rejection (R28, R29). -/
def Func.reject (v : Func) (code : Byte) : Func :=
  { v with lastErr := code, rejects := if v.rejects = 0xFFFFFFFF then v.rejects else v.rejects + 1 }

/-- A ring size, stored as the nearest limit (R26, R135). -/
def clampLog (w : Word) (lo hi : Nat) : BitVec 5 :=
  let n := bits w 4 0
  BitVec.ofNat 5 (if n < lo then lo else if n > hi then hi else n)

/-- A word of two 32-bit fields' worth: the low half. -/
def lowWord (w : BitVec 32) : Word := w.setWidth 64

/-- What a read of BAR0 of a function answers at an offset: the launch window from 0x000 on, the fault ring's registers from 0x100 on;
reserved bits, CLRERR and every other offset read 0. -/
def Func.barRead (v : Func) (offset : BitVec 12) : Word :=
  match offset.toNat with
  | 0x000 => (v.lwLog.setWidth 64 <<< 8) ||| (BitVec.ofBool v.lwEn).setWidth 64
  | 0x008 => v.lwBase
  | 0x010 => lowWord v.lwHead
  | 0x018 => lowWord v.lwTail
  | 0x020 => (lowWord v.rejects <<< 16) ||| v.lastErr.setWidth 64
  | 0x028 => v.lwKey.setWidth 64
  | 0x100 => (v.frLog.setWidth 64 <<< 8) ||| (BitVec.ofBool v.frEn).setWidth 64
  | 0x108 => v.frBase
  | 0x110 => lowWord v.frHead
  | 0x118 => lowWord v.frTail
  | 0x120 => lowWord v.drops
  | _ => 0

/-- EN of the launch window (R26): a change from 0 to 1 sets LWHEAD and LWTAIL to 0. -/
def Func.setLwEn (v : Func) (en : Bool) : Func :=
  if en && !v.lwEn then { v with lwEn := true, lwHead := 0, lwTail := 0 } else { v with lwEn := en }
def Func.setLwLog (v : Func) (w : Word) : Func := if v.lwEn then v else { v with lwLog := clampLog w 4 16 }
def Func.setLwBase (v : Func) (w : Word) : Func := if v.lwEn then v else { v with lwBase := w &&& ~~~(0x3F#64) }
def Func.clearErr (v : Func) : Func := { v with rejects := 0, lastErr := 0 }
/-- TAIL (R29): a tail beyond the ring is refused with 0x08. -/
def Func.setTail (v : Func) (tail : BitVec 32) : Func :=
  if (tail - v.lwHead).toNat > 2 ^ v.lwLog.toNat then v.reject 0x08 else { v with lwTail := tail }
/-- EN of the fault ring (R135): a change from 0 to 1 sets FRHEAD and FRTAIL to 0. -/
def Func.setFrEn (v : Func) (en : Bool) : Func :=
  if en && !v.frEn then { v with frEn := true, frHead := 0, frTail := 0 } else { v with frEn := en }
def Func.setFrLog (v : Func) (w : Word) : Func := if v.frEn then v else { v with frLog := clampLog w 4 16 }
def Func.setFrBase (v : Func) (w : Word) : Func := if v.frEn then v else { v with frBase := w &&& ~~~(0x3F#64) }

/-- A write of BAR0 at an offset: each field stores or acts as R26 and R135 say, read-only registers (LWKEY among them) ignore it. In a
control register the size is stored, if EN was 0, before EN changes. [log 64 DEDUCED] -/
def Func.barWrite (v : Func) (offset : BitVec 12) (w : Word) : Func :=
  match offset.toNat with
  | 0x000 =>
    let v := (v.setLwLog (w >>> 8)).setLwEn (w.getLsbD 0)
    if w.getLsbD 1 then v.clearErr else v
  | 0x008 => v.setLwBase w
  | 0x018 => v.setTail (w.setWidth 32)
  | 0x100 => (v.setFrLog (w >>> 8)).setFrEn (w.getLsbD 0)
  | 0x108 => v.setFrBase w
  | 0x110 => { v with frHead := w.setWidth 32 }
  | 0x120 => { v with drops := 0 }
  | _ => v

end Sys2Proof.Machine
end

