-- ==== Sys2Proof/Machine/HostPort.lean ====
section
/-! DEFINITION. The host port: launch windows (R25, R26), descriptors (R27 to R30), the launch store (R375), registers without
behaviour of their own (R4), CXL.mem (R24). -/

namespace Sys2Proof.Machine

/-- Bytes that the host wrote into its memory. -/
def State.hostWrites (s : State) (ws : List (Word × List Byte)) : State :=
  ws.foldl (fun s w => s.store (hostKey w.1.toNat) w.2) s

/-- A launch descriptor (R27). -/
structure Descriptor where
  tile : BitVec 10
  ctx : BitVec 8
  inl : Bool
  hdr : Word
  addr : Word
  reservedOk : Bool
  words : List Word

def descriptorOf (ws : List Word) : Descriptor :=
  let d := fun n => ws.getD n 0
  { tile := (d 0).extractLsb' 54 10, ctx := (d 0).extractLsb' 46 8, inl := (d 0).getLsbD 45, hdr := d 1, addr := d 2
    reservedOk := bits (d 0) 44 0 == 0 && d 3 == 0, words := ws.drop 4 }

/-- The payload of a descriptor: inline, or read from the host. -/
def State.launchPayload (s : State) (d : Descriptor) : List Word :=
  let n := (hdrLen d.hdr).toNat
  if d.inl then d.words.take n else dwords n (s.bytes (hostKey d.addr.toNat) (8 * n))

/-- The first failing check of R29, 0 where none fails. A spawn launch without payload has no first word; it counts as 0, which lies
outside the bounds. [log 17 DEDUCED, 64 DEDUCED, 66 DESIGN CHOICE] -/
def State.launchCode (s : State) (f : BitVec 5) (d : Descriptor) (readError : Bool) : Byte :=
  let t := s.tile d.tile
  let c := s.ctx d.ctx
  if !d.reservedOk || (!d.inl && d.addr.toNat % 8 != 0) then 0x01
  else if hdrKind d.hdr ≥ 2 then 0x02
  else if (hdrLen d.hdr).toNat > 32 || (d.inl && (hdrLen d.hdr).toNat > 4) then 0x03
  else match t.owner (hdrChan d.hdr) with
    | none => 0x04
    | some e =>
      if !t.inService then 0x04
      else if c.state == 0 || c.func != f || e.ctx != d.ctx || c.rerun == 2 then 0x05
      else if !d.inl && readError then 0x07
      else if hdrKind d.hdr == 1 && !e.holds ((s.launchPayload d).getD 0 0) then 0x06
      else 0x00

/-- Whether a launch before place n of a store waits for the same (tile, channel) (R375). -/
def blockedAt (st : List Stored) (n : Nat) (tile : BitVec 10) (chan : BitVec 6) : Bool :=
  (st.take n).any (fun x => x.tile == tile && hdrChan x.msg.hdr == chan)

/-- A launch is delivered, or enters the store (R28, R375). [log 35 DEDUCED] -/
def State.launch (s : State) (f : BitVec 5) (tile : BitVec 10) (m : Msg) : State :=
  let keep := fun (r : Bool) => s.modFunc f (fun v => { v with store := v.store ++ [{ tile := tile, msg := m, refused := r }] })
  if blockedAt (s.func f).store (s.func f).store.length tile (hdrChan m.hdr) then keep false
  else match s.arriveAt tile m with
    | .accepted s' => s'
    | .gone s' => s'
    | .refused => keep true

/-- DESCRIPTOR_CONSUME (R28): the descriptor at HEAD is checked and delivered or rejected; a full launch store holds it back. [log 64 DEDUCED] -/
def execDescriptorConsume (f : BitVec 5) (readError : Bool) (s : State) : Out := .next (
  let v := s.func f
  if !v.lwEn ∨ v.lwTail = v.lwHead ∨ v.store.length ≥ 64 then s
  else
    let place := v.lwBase.toNat + v.lwHead.toNat % 2 ^ v.lwLog.toNat * 64
    let d := descriptorOf (dwords 8 (s.bytes (hostKey place) 64))
    let code := s.launchCode f d readError
    let s := s.modFunc f (fun v => { v with lwHead := v.lwHead + 1 })
    if code ≠ 0 then s.modFunc f (fun v => v.reject code)
    else
      let ch := hdrChan d.hdr
      let k := seqKey 0x3FF d.tile ch
      let q := find 0 v.seqs k
      let h := header (hdrKind d.hdr) ch d.tile 0x3FF (hdrLen d.hdr) 0 v.lwKey q
      let m : Msg := { hdr := h, payload := s.launchPayload d, ctx := d.ctx, world := (s.ctx d.ctx).world, host := true }
      (s.modFunc f (fun v => { v with seqs := put v.seqs k (q + 1) })).launch f d.tile m)

/-- LAUNCH_REOFFER (R375): every 256 cycles, unless an earlier launch to the same channel waits. -/
def execLaunchReoffer (f : BitVec 5) (i : Nat) (s : State) : Out := .next (
  let st := (s.func f).store
  match st[i]? with
  | none => s
  | some x =>
    if x.sinceOffer < 256 ∨ blockedAt st i x.tile (hdrChan x.msg.hdr) then s
    else
      let gone := fun (s : State) => s.modFunc f (fun v => { v with store := v.store.eraseIdx i })
      match s.arriveAt x.tile x.msg with
      | .accepted s' => gone s'
      | .gone s' => gone s'
      | .refused => s.modFunc f (fun v => { v with store := v.store.modify i (fun y => { y with sinceOffer := 0, refused := true }) }))

/-- LAUNCH_DISCARD (R375): 0x50 against the receiving context. [log 26 DEDUCED] -/
def execLaunchDiscard (f : BitVec 5) (i : Nat) (s : State) : Out := .next (
  match (s.func f).store[i]? with
  | none => s
  | some x =>
    if x.sinceRefusal < 2000000 then s
    else
      let ch := hdrChan x.msg.hdr
      let c := match (s.tile x.tile).owner ch with
        | some e => e.ctx
        | none => x.msg.ctx
      (s.modFunc f (fun v => { v with store := v.store.eraseIdx i })).deferred c 0x50 { tile := x.tile, info := chanInfo ch x.tile })

/-- LWCTL.EN (R26). -/
def execLwctlEn (f : BitVec 5) (en : Bool) (s : State) : Out := .next (s.modFunc f (fun v => v.setLwEn en))

/-- LWCTL.CLRERR (R26). -/
def execLwctlClrerr (f : BitVec 5) (s : State) : Out := .next (s.modFunc f Func.clearErr)

/-- LWTAIL (R29, R30): the host has written its descriptors, then TAIL. [log 64 DEDUCED] -/
def execLwtail (f : BitVec 5) (tail : BitVec 32) (wrote : List (Word × List Byte)) (s : State) : Out := .next (
  (s.hostWrites wrote).modFunc f (fun v => v.setTail tail))

/-- No firing of an entry stands in a slot (R46). -/
def State.entryIdle (s : State) (t : BitVec 10) (e : BitVec 6) : Bool :=
  (slotsOf t).all (fun i => !((s.slot i).busy && (s.slot i).entry == e))

/-- REGISTER_WRITE (R4, R24, R26, R32, R45, R46, R111, R135): the field stores what is written, under its register's own conditions. [log 36 DEDUCED] -/
def execRegisterWrite (r : PlainReg) (value : Word) (s : State) : Out := .next (
  match r with
  | .bar f off => s.modFunc f (fun v => v.barWrite off value)
  | .lwctlLogsize f => s.modFunc f (fun v => v.setLwLog value)
  | .lwbase f => s.modFunc f (fun v => v.setLwBase value)
  | .lwkey f => s.modFunc f (fun v => { v with lwKey := value.setWidth 8 })
  | .frctlLogsize f => s.modFunc f (fun v => v.setFrLog value)
  | .frbase f => s.modFunc f (fun v => v.setFrBase value)
  | .frhead f => s.modFunc f (fun v => { v with frHead := value.setWidth 32 })
  | .budget d => s.modDomain d (fun v => { v with actRate := value.extractLsb' 32 16, actBurst := value.extractLsb' 16 16, rfmCost := value.extractLsb' 8 8 })
  | .gkey t e => if (s.ctx (s.entry t e).ctx).gateAdmitted && s.entryIdle t e then s.modEntry t e (fun v => { v with gkey := value.setWidth 8 }) else s
  | .wdog t e => if bits value 31 0 ≥ 1024 ∧ s.entryIdle t e then s.modEntry t e (fun v => { v with wdog := value.setWidth 32 }) else s
  | .rfmThreshold => { s with hbm := { s.hbm with rfmThreshold := value.toNat } }
  | .hostMark lo hi =>
    let rest := s.board.hostVisible.filter (fun x => x != (lo.toNat, hi.toNat))
    { s with board := { s.board with hostVisible := if value.getLsbD 0 then (lo.toNat, hi.toNat) :: rest else rest } }
  | .ideKey n => { s with board := { s.board with ideKey := s.board.ideKey.set n.toNat value } }
  | .ualinkKey p n => { s with board := { s.board with
      ualinkKeys := put s.board.ualinkKeys p.toNat ((find (Vector.replicate 4 0) s.board.ualinkKeys p.toNat).set n.toNat value) } }
  | .termTaken => { s with rings := { s.rings with term := s.rings.term.drop value.toNat } }
  | .other n => { s with board := { s.board with regs := put s.board.regs n value } })

/-! ### CXL.mem (R24) -/

/-- Whether firmware has marked an address outside HBM host-visible (R24, R337). [log 40 DEDUCED] -/
def State.hostVisible (s : State) (pa : Nat) : Bool := pa ≥ hbmEnd && s.board.hostVisible.any (fun r => r.1 ≤ pa && pa < r.2)

/-- CXL_MEM_REQUEST (R24): the host reads or writes a host-visible region, all of it or nothing; a read's answer is the bytes. [log 40 DEDUCED] -/
def execCxlMemRequest (write : Bool) (pa : BitVec 48) (bytes : List Byte) (s : State) : Out := .next (
  let pas := (List.range bytes.length).map (pa.toNat + ·)
  if !pas.all s.hostVisible then s
  else if write then s.paStore pa.toNat bytes
  else { s with board := { s.board with hostData := (s.paLoad pa.toNat bytes.length).1, hostBad := (s.paLoad pa.toNat bytes.length).2 } })

end Sys2Proof.Machine
end

