-- ==== Sys2Proof/Machine/Flags.lean ====
section
/-! DEFINITION. The KX4 keeps no flag register (R156). The codes and marks that stand in for flags: relation and class codes
(R267, R270), the masks of `VSETM` and the predicate modes (R257, R268), integer saturation with its bit (R168), FULL and
COUNT of an outlier list (R164, R165). -/

namespace Sys2Proof.Machine

/-- The relation code of two floating values (R267). -/
def relCode (a b : Num) : Nat :=
  if a.isNaN || b.isNaN then 8 else if a.lt b then 1 else if b.lt a then 4 else 2

/-- The class code of an element (R270). -/
def classCode (f : Fmt) (code : Nat) : Nat :=
  match f.value code with
  | .nan => 8
  | .inf neg => if neg then 0 else 7
  | .fin neg _ _ =>
    let mag := code % 2 ^ f.magBits
    if mag = 0 then (if neg then 3 else 4)
    else if mag / 2 ^ (f.p - 1) = 0 then (if neg then 2 else 5)
    else (if neg then 1 else 6)

/-- The bits of a byte string, lowest first. -/
def bitsOf (bs : List Byte) : List Bool := bs.flatMap (fun b => (List.range 8).map b.getLsbD)

/-- The bytes that hold a list of bits. -/
def bytesOfBits : Nat → List Bool → List Byte
  | 0, _ => []
  | n + 1, bs => ((List.range 8).foldl (fun (b : Byte) i => if bs.getD i false then b ||| (1#8 <<< i) else b) 0) :: bytesOfBits n (bs.drop 8)

/-- Which lanes a mode makes active, from the bits of v0 (R180, R257). -/
def activeLane (p : VMode) (bit : Bool) : Bool :=
  match p with
  | .all => true
  | .m1 | .m1z => bit
  | .m0 | .m0z => !bit

/-- Inactive lanes keep the destination (R257). -/
def keepsLane (p : VMode) : Bool := p == .m1 || p == .m0

/-- The mask bit of a lane that holds a relation code (R268). -/
def condBit (code : Nat) (cond : BitVec 4) : Bool := (BitVec.ofNat 4 code &&& cond) != 0

/-- A sum saturated to the i32 range, and whether it saturated (R168). -/
def satAdd (a b : Int) : Int × Bool :=
  let x := a + b
  if x > 2 ^ 31 - 1 then (2 ^ 31 - 1, true) else if x < -(2 ^ 31) then (-(2 ^ 31), true) else (x, false)

/-- An outlier list while an instruction appends to it: COUNT, CAP, whether FULL is to be set, and the records appended, as
(VALUE, INDEX) (R165). -/
structure Outl where
  count : Nat := 0
  cap : Nat := 0
  full : Bool := false
  recs : List (Nat × Nat) := []
  deriving DecidableEq, Repr

/-- One element of a conversion of x under scale byte s (R160 to R165): its code, and the list after it. -/
def deliver (f : Fmt) (r : Rnd) (ovf : BitVec 2) (x : Num) (s index : Nat) (o : Outl) : Nat × Outl :=
  let c := f.convert r ovf (x.scale2 (127 - (s : Int)))
  if c.record then
    if o.count < o.cap then (0, { o with count := o.count + 1, recs := o.recs ++ [(recordValue f r x, index)] })
    else (c.code, { o with full := true })
  else (c.code, o)

/-- L as the rounding of one element finds it: stepped first where the mode is stochastic (R161). -/
def stepFor (sr : Bool) (l : BitVec 16) : BitVec 16 := if sr then lfsrStep l else l
def rndFor (sr : Bool) (l : BitVec 16) : Rnd := if sr then .sr l else .ne

/-- n steps of L. -/
def lfsrSteps : Nat → BitVec 16 → BitVec 16
  | 0, l => l
  | n + 1, l => lfsrSteps n (lfsrStep l)

/-- The elements of a destination in increasing index (R260, R301): each with its exact value and scale byte where it is
active, and the code it has otherwise. -/
def deliverAll (f : Fmt) (sr : Bool) (ovf : BitVec 2) : Nat → BitVec 16 → List (Option (Num × Nat) × Nat) → Outl → List Nat × Outl
  | _, _, [], o => ([], o)
  | index, l, (x?, old) :: xs, o =>
    let l := stepFor sr l
    let (c, o) := match x? with
      | some (x, s) => deliver f (rndFor sr l) ovf x s index o
      | none => (old, o)
    let (cs, o) := deliverAll f sr ovf (index + 1) l xs o
    (c :: cs, o)

/-- Element codes of w bits packed in bytes, lowest first (R152). -/
def unpack (w : Nat) (bs : List Byte) : List Nat :=
  if w = 4 then bs.flatMap (fun b => [b.toNat % 16, b.toNat / 16])
  else (List.range (bs.length * 8 / w)).map (fun i => (bs.drop (i * (w / 8))).take (w / 8) |>.foldr (fun b n => b.toNat + 256 * n) 0)

def packNibbles : List Nat → List Byte
  | a :: b :: l => BitVec.ofNat 8 (a % 16 + 16 * (b % 16)) :: packNibbles l
  | [a] => [BitVec.ofNat 8 (a % 16)]
  | [] => []

def codeBytes : Nat → Nat → List Byte
  | 0, _ => []
  | n + 1, v => BitVec.ofNat 8 v :: codeBytes n (v / 256)

def pack (w : Nat) (cs : List Nat) : List Byte := if w = 4 then packNibbles cs else cs.flatMap (codeBytes (w / 8))

end Sys2Proof.Machine
end

