-- ==== Sys2Proof/Machine/Lists.lean ====
section
/-! DEFINITION. Outlier lists in memory (R164 to R166, R259): opening one with its checks, its records, appending. -/

namespace Sys2Proof.Machine

def OutList.count (o : OutList) : Nat := bits o.d0 31 0
def OutList.cap (o : OutList) : Nat := bits o.d1 31 0
/-- The region of the whole list. -/
def OutList.region (o : OutList) : Region := o.title.region o.off (16 + 8 * o.cap)

/-- The header of a list (R164). [log 58 DEDUCED] -/
def State.listHeader (s : State) (i : SlotId) (t : Title) (off : Nat) : Res (OutList × State) := do
  let (bs, s) ← Res.under t (s.titleLoad i t off 16)
  .ok ({ title := t, off := off, d0 := leWord bs, d1 := leWord (bs.drop 8) }, s)

/-- The translation that an access of slot i under t at address a takes, with the checks of the access (R99, R124). Where no TLB entry
covers the address the tables are walked; a walk that fails is the line cache's own, and ends as any does (R101). -/
def State.listLeaf (s : State) (i : SlotId) (t : Title) (a : Nat) (kind : AccKind) : Res (TlbEntry × State) := do
  let cl := clusterOf i.tile
  let p := s.purpose i t (s.walkerOf i)
  let through := fun (e : TlbEntry) (s : State) => do
    match ← s.throughLeaf cl p a kind e with
    | .here _ _ => Except.ok (e, s)
    | .peer q _ _ => if s.livePorts = [] then .error (.trap { cause := 0x59, peer := q }) else .ok (e, s)
  match (s.cluster cl).tlbFind p.ctx a with
  | some e => do
    let s ← s.setAccessed cl e true
    through e s
  | none => match s.walkBy { die := dieOfCluster cl } p.ctx a with
    | .ok (w, pa, s) => through (tlbOf p.ctx a w pa false) (s.setPte pa (w ||| 0x40))
    | .error (.wait s') => waitIn s'
    | .error (.trap _) => do
      let _ ← s.translate cl p a kind
      waitIn s

/-- The translations of a list, page by page (R259, R291). -/
def State.listPages (s : State) (i : SlotId) (t : Title) (kind : AccKind) : List (Nat × Nat) → Res (List TlbEntry × State)
  | [] => .ok ([], s)
  | (o, _) :: ps => do
    let (e, s) ← Res.under t (s.listLeaf i t (t.base.toNat + o) kind)
    let (es, s) ← State.listPages s i t kind ps
    .ok (e :: es, s)

/-- The 4 KiB pieces of [o, o + n) under a title. -/
def pagePieces : Nat → Nat → Nat → Nat → List (Nat × Nat)
  | 0, _, _, _ => []
  | f + 1, base, o, n =>
    if n = 0 then []
    else
      let k := Nat.min n (4096 - (base + o) % 4096)
      (o, k) :: pagePieces f base (o + k) (n - k)

/-- A list is opened for appending, or for reading (R166, R259, R278): the title with R73, a header outside it being 0x63;
translation and world; poison; the header's own rules. It waits for earlier operations on the same bytes (R112, R113). [log 21 DEDUCED, 58 DEDUCED] -/
def State.listOpen (s : State) (i : SlotId) (vw : View) (write : Bool) : Res (OutList × State) := do
  let t ← (s.slot i).title vw.olk
  needT t.isData 0x11 t
  let off := 256 * vw.olOff
  s.checkRange t (if write then rWR else rRD) off 16 0x63
  s.edges i [t.region off 16] (if write then [t.region off 16] else [])
  if write then Res.under t (s.titleProbe i t off .write)
  let (o, s) ← s.listHeader i t off
  needT (o.cap != 0 && o.cap ≤ (t.bytes - off - 16) / 8 && o.count ≤ o.cap) 0x63 t
  s.edges i [o.region] (if write then [o.region] else [])
  if t.loc.toNat ≥ 2 then
    let (es, s) ← s.listPages i t (if write then .write else .read) (pagePieces ((16 + 8 * o.cap) / 4096 + 2) t.base.toNat off (16 + 8 * o.cap))
    .ok ({ o with pages := es }, s)
  else .ok (o, s)

/-- Record n of a list: INDEX and VALUE (R164). -/
def State.listRecord (s : State) (i : SlotId) (o : OutList) (n : Nat) : Res ((BitVec 32 × BitVec 32) × State) := do
  let (bs, s) ← Res.under o.title (s.titleLoad i o.title (o.off + 16 + 8 * n) 8)
  let w := leWord bs
  .ok ((w.setWidth 32, w.extractLsb' 32 32), s)

/-- Records n to n + k - 1, those that the list holds. -/
def State.listRecords (s : State) (i : SlotId) (o : OutList) (n : Nat) : Nat → Res (List (BitVec 32 × BitVec 32) × State)
  | 0 => .ok ([], s)
  | k + 1 => do
    if n < o.count then
      let (r, s) ← s.listRecord i o n
      let (rs, s) ← State.listRecords s i o (n + 1) k
      .ok (r :: rs, s)
    else .ok ([], s)

/-- Bytes of a list are written at o from its start, through the translation taken when it was opened (R291). -/
def State.listPut (s : State) (i : SlotId) (c : BitVec 8) (l : OutList) (o : Nat) (bs : List Byte) : Res State :=
  let t := l.title
  let a := t.base.toNat + l.off + o
  if t.loc = 0 then .ok (s.store (tileKey t.place a) bs)
  else if t.loc = 1 then .ok (s.store (clusterKey (t.place.extractLsb' 4 6) a) bs)
  else match l.pages.find? (fun e => e.va ≤ a && a < e.va + e.size) with
    | some e => s.titlePut i c t a bs (e.phys a)
    | none => .ok s

def State.storeRecords (s : State) (i : SlotId) (c : BitVec 8) (o : OutList) (n : Nat) : List (Nat × Nat) → Res State
  | [] => .ok s
  | (v, x) :: rs => do
    let s ← s.listPut i c o (16 + 8 * n) (leBytes 4 x ++ leBytes 4 v)
    State.storeRecords s i c o (n + 1) rs

/-- An instruction's appends are written: records, COUNT and FULL (R165). -/
def State.listAppend (s : State) (i : SlotId) (c : BitVec 8) (o : OutList) (a : Outl) : Res State := do
  if a.recs.isEmpty && !a.full then .ok s
  else
    let s ← s.storeRecords i c o o.count a.recs
    let full : Word := if a.full then 0x8000000000000000 else 0
    let d0 := (o.d0 &&& 0xFFFFFFFF00000000) ||| full ||| BitVec.ofNat 64 a.count
    s.listPut i c o 0 (leBytes 8 d0.toNat)

def OutList.start (o : OutList) : Outl := { count := o.count, cap := o.cap }

end Sys2Proof.Machine
end

