-- ==== Sys2Proof/Machine/Vector.lean ====
section
/-! DEFINITION. custom-2: vector instructions (R252 to R281): the checks at issue (R258, R259), the results of each (R263 to
R278), VECTOR_START and VECTOR_COMPLETE (R261, R262). -/

namespace Sys2Proof.Machine

/-- The Class column of R253. -/
inductive VClass where
  | f | i | fi | any
  deriving DecidableEq, Repr

def VClass.admits (c : VClass) (f : Fmt) : Bool :=
  match c with
  | .f => f.isF
  | .i => f.isI
  | .fi | .any => true

/-- The Scaled column of R253. -/
inductive VScal where
  | no | yes | fOnly
  deriving DecidableEq, Repr

/-- What a vector instruction names (R253, R255): class, scaling, mode, source views, its destination group, whether it converts,
whether into a view that may be block-scaled, whether it reads v0 under mode 000, and its x registers. `fd` is the destination format, `lanes` the destination lanes. -/
structure VShape where
  cls : VClass
  scal : VScal := .no
  mode : VMode := .all
  srcs : List Nat := []
  dst : Option Nat := none
  group : Nat := 1
  conv : Bool := false
  ds : Bool := false
  v0 : Bool := false
  rd : Option XReg := none
  reads : List XReg := []
  fd : Fmt
  srcGroup : Nat := 1
  deriving DecidableEq, Repr

/-- Instructions of the forms `vd, vs1, vs2` and `vd, vs1`. -/
def shape2 (c : VClass) (sc : VScal) (conv : Bool) (f : Fmt) (p : VMode) (vd : VReg) (vs : List VReg) : VShape :=
  { cls := c, scal := sc, mode := p, srcs := vs.map BitVec.toNat, dst := some vd.toNat, conv := conv, ds := conv, fd := f }

/-- R253's columns for each instruction; f is the format of vw0. -/
def vshape (f : Fmt) : Instr → Option VShape
  | .vfadd p vd a b => some (shape2 .f .yes true f p vd [a, b])
  | .vfsub p vd a b => some (shape2 .f .yes true f p vd [a, b])
  | .vfmul p vd a b => some (shape2 .f .yes true f p vd [a, b])
  | .vfmax p vd a b => some (shape2 .f .yes true f p vd [a, b])
  | .vfmin p vd a b => some (shape2 .f .yes true f p vd [a, b])
  | .vfma p vd a b => some (shape2 .f .yes true f p vd [a, b, vd])
  | .vfms p vd a b => some (shape2 .f .yes true f p vd [a, b, vd])
  | .vfabs p vd a => some (shape2 .f .yes true f p vd [a])
  | .vfneg p vd a => some (shape2 .f .yes true f p vd [a])
  | .vfrcp p vd a => some (shape2 .f .yes true f p vd [a])
  | .vfrsq p vd a => some (shape2 .f .yes true f p vd [a])
  | .vfexp2 p vd a => some (shape2 .f .yes true f p vd [a])
  | .vflog2 p vd a => some (shape2 .f .yes true f p vd [a])
  | .vfsig p vd a => some (shape2 .f .yes true f p vd [a])
  | .vfgelu p vd a => some (shape2 .f .yes true f p vd [a])
  | .viadd p vd a b => some (shape2 .i .no true f p vd [a, b])
  | .visub p vd a b => some (shape2 .i .no true f p vd [a, b])
  | .vimul p vd a b => some (shape2 .i .no true f p vd [a, b])
  | .vimax p vd a b => some (shape2 .i .no false f p vd [a, b])
  | .vimin p vd a b => some (shape2 .i .no false f p vd [a, b])
  | .vshl p vd a b => some (shape2 .i .no false f p vd [a, b])
  | .vshr p vd a b => some (shape2 .i .no false f p vd [a, b])
  | .vand p vd a b => some (shape2 .any .no false f p vd [a, b])
  | .vor p vd a b => some (shape2 .any .no false f p vd [a, b])
  | .vxor p vd a b => some (shape2 .any .no false f p vd [a, b])
  | .vcmp p vd a b => some (shape2 .fi .no false f p vd [a, b])
  | .vsel vd a b => some { shape2 .any .no false f .all vd [a, b] with v0 := true }
  | .vredf p rd a _ => some { cls := .f, scal := .yes, mode := p, srcs := [a.toNat], rd := some rd, fd := f }
  | .vredi p rd a _ => some { cls := .i, mode := p, srcs := [a.toNat], rd := some rd, fd := f }
  | .vscan p vd a _ => some (shape2 .fi .fOnly true f p vd [a])
  | .vperm vd a b => some (shape2 .any .no false f .all vd [a, b])
  | .vbcast vd a r => some { shape2 .any .no false f .all vd [a] with reads := [r] }
  | .vslide vd a r => some { shape2 .any .no false f .all vd [a] with reads := [r] }
  | .vzip vd a b => some { shape2 .any .no false f .all vd [a, b] with group := 2 }
  | .vunz vd a b => some { shape2 .any .no false f .all vd [a, b] with group := 2 }
  | .vdot p rd a b => some { cls := .f, scal := .yes, mode := p, srcs := [a.toNat, b.toNat], rd := some rd, fd := f }
  | .vmovx rd a r => some { cls := .fi, scal := .fOnly, srcs := [a.toNat], rd := some rd, reads := [r], fd := f }
  | .vsetm vd a _ => some (shape2 .any .no false f .all vd [a])
  | .vfclass p vd a => some (shape2 .f .no false f p vd [a])
  | .vsplat p vd r => some { shape2 .fi .fOnly true f p vd [] with reads := [r] }
  | .voutl vd r => some { shape2 .any .no false f .all vd [] with reads := [r] }
  | .vcvt tag p vd a => match fmtOf tag with
    | none => none
    | some fd =>
      let n := Nat.max f.lanes fd.lanes
      some { cls := .any, scal := .yes, mode := p, srcs := (List.range (n / f.lanes)).map (fun j => a.toNat + j), dst := some vd.toNat,
             group := n / fd.lanes, conv := true, fd := fd, srcGroup := n / f.lanes }
  | _ => none

/-- The x registers that a vector instruction reads, known before its format is. -/
def vreads : Instr → List XReg
  | .vbcast _ _ r | .vslide _ _ r | .vmovx _ _ r | .vsplat _ _ r | .voutl _ r => [r]
  | _ => []

/-- The x register that a vector instruction writes. -/
def vrd : Instr → Option XReg
  | .vredf _ rd _ _ | .vredi _ rd _ _ | .vdot _ rd _ _ | .vmovx rd _ _ => some rd
  | _ => none

/-- The last view of a group that starts at n: none passes v30, and vin stands alone (R255, R256, R258). -/
def groupOk (n g : Nat) : Bool := if g = 1 then n ≤ 31 else n + g ≤ 31

/-- R258. -/
def VShape.viewOk (h : VShape) (f : Fmt) (vw : View) : Bool :=
  vw.rnd.toNat < 2 && vw.ovf != 3 && vw.stride != 0 && h.cls.admits f &&
  (!vw.scaled || ((h.scal == .yes || (h.scal == .fOnly && f.isF)) && f.mayScale && !keepsLane h.mode)) &&
  (match h.srcs with
    | a :: _ => groupOk a h.srcGroup
    | [] => true) &&
  (match h.dst with
    | some d => d + h.group ≤ 31
    | none => true) &&
  !(vw.scaled && h.srcs.contains 31)

/-- Place and number of the scale bytes of view n (R214). -/
def View.scaleAt (v : View) (f : Fmt) (n : Nat) : Nat := v.scaleOff + n * (f.lanes / 32)

/-- Regions of n views or of their scale bytes (R259). -/
def State.slabRegions (s : State) (i : SlotId) (n : Nat) : List Nat → Res (List Region)
  | [] => .ok []
  | o :: os => do
    let r ← s.slabRegion i o n
    let rs ← State.slabRegions s i n os
    .ok (r :: rs)

/-- Whether the mask is read as a source (R257, R269). -/
def VShape.readsMask (h : VShape) : Bool := h.mode != .all || h.v0

/-- Views of the destination group. -/
def VShape.dsts (h : VShape) : List Nat := match h.dst with
  | some d => (List.range h.group).map (fun j => d + j)
  | none => []

/-- Whether records may be appended (R259). -/
def VShape.appends (h : VShape) (vw : View) : Bool := h.conv && vw.ovf == 0 && h.fd != fmtF && h.fd != fmtI32

/-- The slab regions read and written (R261). -/
def State.vregions (s : State) (i : SlotId) (h : VShape) (f : Fmt) (vw : View) : Res (List Region × List Region) := do
  let at_ := fun n => vw.base + 256 * vw.stride * n
  let srcs := h.srcs.filter (fun n => n != 31)
  let rs ← s.slabRegions i 256 (srcs.map at_)
  let ws ← s.slabRegions i 256 (h.dsts.map at_)
  let ms ← if h.readsMask then s.slabRegions i 256 [at_ 0] else .ok []
  let sr ← if vw.scaled then s.slabRegions i (f.lanes / 32) (srcs.map (vw.scaleAt f)) else .ok []
  let sw ← if vw.scaled && h.ds then s.slabRegions i (f.lanes / 32) (h.dsts.map (vw.scaleAt f)) else .ok []
  .ok (rs ++ ms ++ sr ++ (if keepsLane h.mode then ws else []), ws ++ sw)

/-- Records of a list: INDEX and VALUE (R164). -/
abbrev Records := List (BitVec 32 × BitVec 32)

/-- The list that an instruction opens (R259), and the records that `VOUTL` reads, where it meets poison (R278). -/
def State.vlist (s : State) (i : SlotId) (ins : Instr) (h : VShape) (vw : View) : Res ((Option OutList × Records) × State) := do
  match ins with
  | .voutl _ r =>
    let (o, s) ← s.listOpen i vw false
    let (rs, s) ← s.listRecords i o (((s.slot i).xr r).toNat % 2 ^ 32) 32
    .ok ((some o, rs), s)
  | _ =>
    if h.appends vw then do
      let (o, s) ← s.listOpen i vw true
      .ok ((some o, []), s)
    else .ok ((none, []), s)

/-- The turn of slot i at the VXU (R252, R262): a core presents one instruction, which stalls until VECTOR_START takes it up. [log 21 DEDUCED] -/
def State.vturn (s : State) (i : SlotId) : Res Unit :=
  let u := (s.tile i.tile).vxu
  if u.granted = some (i.core, i.slot) then .ok ()
  else if u.presented.any (fun p => p.1 == i.core) || u.granted.any (fun p => p.1 == i.core) then waitIn s
  else waitIn (s.modTile i.tile (fun t => { t with vxu := { t.vxu with presented := t.vxu.presented ++ [(i.core, i.slot)] } }))

/-- A vector instruction issues (R252, R257 to R261): its checks in the order of R259, the edges of R113, its turn at the VXU
(R262); then vin is popped, L moves past its steps, and the operation occupies the unit with what it captures (R118, R257). [log 21 DEDUCED] -/
def vectorBody (ins : Instr) (s0 : State) : Res State := do
  let i := s0.cur
  let v := s0.me
  let vw := v.vwr 0
  match fmtOf vw.fmt with
  | none => raise 0x05
  | some f => match vshape f ins with
    | none => raise 0x00
    | some h =>
      need (h.viewOk f vw) 0x05
      let (rs, ws) ← s0.vregions i h f vw
      let useVin := h.srcs.contains 31
      let msg ← if useVin then s0.vinTake i else .ok []
      s0.edges i rs ws
      let ((o?, recs), s) ← s0.vlist i ins h vw
      let lr := match o? with
        | some o => [o.region]
        | none => []
      let lw := if h.appends vw then lr else []
      s.vturn i
      let s := if useVin then s.vinPop i else s
      let v := s.slot i
      let (b, l) := s.slabOf i
      let ord := s.nextId
      let rd := (vrd ins).getD 0
      let op : UnitOp := {
        ord := ord, core := i.core, slot := i.slot, ctx := v.ctx, insn := ins, vw := v.vw, slabBase := b, slabLen := l,
        sx := ((vreads ins).map v.xr).getD 0 0, lfsr := v.lfsr, vinBytes := if useVin then some msg else none,
        mask := if h.readsMask then s.bytes (slabKey i.tile (b + vw.base)) 256 else [], list := o?, recs := recs, rd := rd }
      let ts := match o? with
        | some o => [(o.title.ctx, o.title.index)]
        | none => []
      let s := s.fresh.modTile i.tile (fun t => { t with
        vxu := { t.vxu with granted := none, running := some op, lastCore := i.core }
        flight := t.flight ++ [{ ord := ord, core := i.core, slot := i.slot, vm := true, reads := rs ++ lr, writes := ws ++ lw,
                                 titles := ts }] })
      let steps := if h.conv && vw.rnd == 1 then h.group * h.fd.lanes else 0
      .ok (s.setMe ({ v with lfsr := lfsrSteps steps v.lfsr }.bindX rd ord).retire)

/-- A vector instruction as its core issues it. -/
def vectorInsn (ins : Instr) (s : State) : State :=
  insn .none (vreads ins) (vectorBody ins) s

/-! ### Results -/

/-- What an operation computes from: vw0, the vw0 format, L, the bytes of views, mask and scale bytes as read, the scalar operand,
and the list. -/
structure VEnv where
  vw : View
  f : Fmt
  l : BitVec 16
  view : Nat → List Byte
  mask : List Byte
  scale : Nat → List Byte
  sx : Word
  list : Outl
  recs : Records

/-- What an operation leaves: destination bytes, the scale bytes of its views, an x result, the list. -/
structure VResult where
  bytes : List Byte := []
  scales : List Byte := []
  x : Option Word := none
  list : Outl := {}
  deriving DecidableEq, Repr

def VEnv.codes (e : VEnv) (n : Nat) : List Nat := unpack e.f.width (e.view n)

/-- The values of a view: exact, or under its scales rounded to binary32 (R158, R260). -/
def VEnv.vals (e : VEnv) (n : Nat) : List Num :=
  let vs := (e.codes n).map e.f.value
  if e.vw.scaled then
    let sc := e.scale n
    vs.zipIdx.map (fun (x, i) => roundF32 (scaled x (sc.getD (i / 32) 0).toNat))
  else vs

/-- Which of n lanes are active (R257). -/
def VEnv.active (e : VEnv) (p : VMode) (n : Nat) : List Bool :=
  if p = .all then List.replicate n true else ((bitsOf e.mask).take n).map (activeLane p)

/-- The scale byte of each block of 32 lanes of a block-scaled destination (R159, R260). -/
def blockScales (f : Fmt) : Nat → List (Option Num) → List Nat
  | 0, _ => []
  | n + 1, xs => chooseScale f ((xs.take 32).filterMap id) :: blockScales f n (xs.drop 32)

/-- A converting instruction's write (R260): the exact values of its lanes into views of format fd. -/
def VEnv.convert (e : VEnv) (h : VShape) (xs : List Num) : VResult :=
  let n := xs.length
  let act := e.active h.mode n
  let xs' : List (Option Num) := (xs.zip act).map (fun (x, a) => if a then some x else none)
  let ss := if e.vw.scaled && h.ds then blockScales h.fd (n / 32) xs' else []
  let old : List Nat := if keepsLane h.mode then h.dsts.flatMap (fun d => unpack h.fd.width (e.view d)) else []
  let ls := xs'.zipIdx.map (fun (x, i) => (x.map (fun y => (y, ss.getD (i / 32) 127)), old.getD i 0))
  let (cs, o) := deliverAll h.fd (e.vw.rnd == 1) e.vw.ovf 0 e.l ls e.list
  { bytes := pack h.fd.width cs, scales := ss.map (BitVec.ofNat 8), list := o }

/-- A write of raw lane codes, inactive lanes by the mode (R257). -/
def VEnv.raw (e : VEnv) (h : VShape) (cs : List Nat) : VResult :=
  let act := e.active h.mode cs.length
  let old : List Nat := if keepsLane h.mode then h.dsts.flatMap (fun d => unpack e.f.width (e.view d)) else []
  { bytes := pack e.f.width (((cs.zip act).zipIdx).map (fun ((c, a), i) => if a then c else old.getD i 0)) }

/-- Integer of a lane. -/
def Fmt.int (f : Fmt) (c : Nat) : Int :=
  if f.signed && c / 2 ^ (f.width - 1) % 2 == 1 then (c : Int) - 2 ^ f.width else c

/-- One level of the tree of R170. -/
def pairUp (op : Num → Num → Num) : List Num → List Num
  | a :: b :: l => op a b :: pairUp op l
  | l => l
def treeOf (op : Num → Num → Num) : Nat → List Num → Num
  | 0, l => l.headD .zero
  | n + 1, l => match l with
    | [x] => x
    | l => treeOf op n (pairUp op l)

/-- One step of a reduction, rounded to binary32 (R170, R276). -/
def redStep : RedOp → Num → Num → Num
  | .sum, a, b => roundF32 (a.add b)
  | .max, a, b => a.maxN b
  | .min, a, b => a.minN b
/-- What an inactive lane contributes (R275, R276). -/
def redIdentity : RedOp → Num
  | .sum => .zero
  | .max => .inf true
  | .min => .inf false
/-- The same for integer lanes (R275, R276). -/
def redIdentityInt (f : Fmt) : RedOp → Int
  | .sum => 0
  | .max => if f.signed then -(2 ^ (f.width - 1)) else 0
  | .min => f.maxMag
def redStepInt : RedOp → Int → Int → Int
  | .sum, a, b => a + b
  | .max, a, b => if a < b then b else a
  | .min, a, b => if b < a then b else a

def clampI32 (x : Int) : Int := (satAdd x 0).1

/-- Running values in increasing lane order (R276). -/
def runFrom {α : Type} (op : α → α → α) (p : α) : List α → List α
  | [] => []
  | x :: xs => let q := op p x; q :: runFrom op q xs
def running {α : Type} (op : α → α → α) : List α → List α
  | [] => []
  | x :: xs => x :: runFrom op x xs

/-- The binary32 bits of a value as an x result (R273, R274). -/
def xF32 (x : Num) : Word := BitVec.ofNat 64 (toF32 x)
def xInt (x : Int) : Word := BitVec.ofInt 64 x

def interleave : List Nat → List Nat → List Nat
  | a :: as, b :: bs => a :: b :: interleave as bs
  | as, [] => as
  | [], bs => bs
def evens : List Nat → List Nat
  | a :: _ :: l => a :: evens l
  | l => l
def odds : List Nat → List Nat
  | _ :: b :: l => b :: odds l
  | _ => []

/-- The amount of a shift, lane by lane (R266). -/
def shiftAmount (f : Fmt) (c : Nat) : Nat := if f.width = 32 then c % 32 else c % 8

def VEnv.map1 (e : VEnv) (h : VShape) (a : VReg) (g : Num → Num) : VResult := e.convert h ((e.vals a.toNat).map g)
def VEnv.map2 (e : VEnv) (h : VShape) (a b : VReg) (g : Num → Num → Num) : VResult :=
  e.convert h (List.zipWith g (e.vals a.toNat) (e.vals b.toNat))
def VEnv.map3 (e : VEnv) (h : VShape) (a b d : VReg) (g : Num → Num → Num → Num) : VResult :=
  e.convert h (List.zipWith (fun (x : Num × Num) y => g x.1 x.2 y) ((e.vals a.toNat).zip (e.vals b.toNat)) (e.vals d.toNat))
def VEnv.raw2 (e : VEnv) (h : VShape) (a b : VReg) (g : Nat → Nat → Nat) : VResult :=
  e.raw h (List.zipWith g (e.codes a.toNat) (e.codes b.toNat))

/-- The values of the active lanes, the others replaced. -/
def VEnv.masked {α : Type} (e : VEnv) (p : VMode) (xs : List α) (z : α) : List α :=
  List.zipWith (fun a x => if a then x else z) (e.active p xs.length) xs

/-- `VOUTL`'s destination (R278). -/
def outlBytes (rs : List (BitVec 32 × BitVec 32)) : List Byte :=
  (List.range 32).flatMap (fun i => leBytes 4 ((rs.map Prod.snd).getD i 0).toNat) ++
  (List.range 32).flatMap (fun i => leBytes 4 ((rs.map Prod.fst).getD i 0xFFFFFFFF).toNat)

/-- The lane of vs1 that a scalar chooses (R273, R277). -/
def VEnv.lane (e : VEnv) : Nat := e.sx.toNat % e.f.lanes

/-- The result of each vector instruction (R263 to R278). -/
def VEnv.result (e : VEnv) (h : VShape) (ins : Instr) : VResult :=
  let intv := fun (n : VReg) => (e.codes n.toNat).map e.f.int
  match ins with
  | .vfadd _ _ a b => e.map2 h a b Num.add
  | .vfsub _ _ a b => e.map2 h a b Num.sub
  | .vfmul _ _ a b => e.map2 h a b Num.mul
  | .vfma _ d a b => e.map3 h a b d (fun x y z => (x.mul y).add z)
  | .vfms _ d a b => e.map3 h a b d (fun x y z => (x.mul y).sub z)
  | .vfmax _ _ a b => e.map2 h a b Num.maxN
  | .vfmin _ _ a b => e.map2 h a b Num.minN
  | .vfabs _ _ a => e.map1 h a Num.abs
  | .vfneg _ _ a => e.map1 h a Num.neg
  | .vfrcp _ _ a => e.map1 h a Num.rcp
  | .vfrsq _ _ a => e.map1 h a Num.rsq
  | .vfexp2 _ _ a => e.map1 h a Num.exp2
  | .vflog2 _ _ a => e.map1 h a Num.log2
  | .vfsig _ _ a => e.map1 h a Num.sig
  | .vfgelu _ _ a => e.map1 h a Num.gelu
  | .viadd _ _ a b => e.map2 h a b Num.add
  | .visub _ _ a b => e.map2 h a b Num.sub
  | .vimul _ _ a b => e.map2 h a b Num.mul
  | .vimax _ _ a b => e.raw2 h a b (fun x y => if e.f.int x < e.f.int y then y else x)
  | .vimin _ _ a b => e.raw2 h a b (fun x y => if e.f.int y < e.f.int x then y else x)
  | .vand _ _ a b => e.raw2 h a b (fun x y => x &&& y)
  | .vor _ _ a b => e.raw2 h a b (fun x y => x ||| y)
  | .vxor _ _ a b => e.raw2 h a b (fun x y => x ^^^ y)
  | .vshl _ _ a b => e.raw2 h a b (fun x y => (x <<< shiftAmount e.f y) % 2 ^ e.f.width)
  | .vshr _ _ a b => e.raw2 h a b (fun x y => ((e.f.int x / 2 ^ shiftAmount e.f y) % 2 ^ e.f.width).toNat)
  | .vcmp _ _ a b => e.raw2 h a b (fun x y => relCode (e.f.value x) (e.f.value y))
  | .vsel _ a b => e.raw h (List.zipWith (fun m (x : Nat × Nat) => if m then x.1 else x.2) (bitsOf e.mask)
      ((e.codes a.toNat).zip (e.codes b.toNat)))
  | .vredf p _ a op => { x := some (xF32 (treeOf (redStep op) 10 (e.masked p (e.vals a.toNat) (redIdentity op)))) }
  | .vredi p _ a op =>
    { x := some (xInt (clampI32 ((e.masked p (intv a) (redIdentityInt e.f op)).foldl (redStepInt op) (redIdentityInt e.f op)))) }
  | .vdot p _ a b =>
    let ps := e.masked p (List.zipWith Num.mul (e.vals a.toNat) (e.vals b.toNat)) .zero
    { x := some (xF32 (treeOf (redStep .sum) 10 (pairUp (redStep .sum) ps))) }
  | .vscan p _ a op =>
    if e.f.isF then e.convert h (running (redStep op) (e.masked p (e.vals a.toNat) (redIdentity op)))
    else e.convert h ((running (redStepInt op) (e.masked p (intv a) (redIdentityInt e.f op))).map Num.ofInt)
  | .vperm _ a b => { bytes := (e.view b.toNat).map (fun i => (e.view a.toNat).getD i.toNat 0) }
  | .vbcast _ a _ => e.raw h (List.replicate e.f.lanes ((e.codes a.toNat).getD e.lane 0))
  | .vslide _ a _ => e.raw h ((List.range e.f.lanes).map (fun (i : Nat) =>
      let j : Int := (i : Int) + e.sx.toInt
      if 0 ≤ j then (e.codes a.toNat).getD j.toNat 0 else 0))
  | .vzip _ a b => e.raw h (interleave (e.codes a.toNat) (e.codes b.toNat))
  | .vunz _ a b =>
    let c := e.codes a.toNat ++ e.codes b.toNat
    e.raw h (evens c ++ odds c)
  | .vmovx _ a _ =>
    if e.f.isF then { x := some (xF32 ((e.vals a.toNat).getD e.lane .zero)) }
    else { x := some (xInt ((intv a).getD e.lane 0)) }
  | .vsetm _ a cond => { bytes := bytesOfBits 256 ((e.codes a.toNat).map (fun c => condBit (c % 16) cond)) }
  | .vfclass _ _ a => e.raw h ((e.codes a.toNat).map (classCode e.f))
  | .vsplat _ _ _ =>
    let x := if e.f.isF then fmtF.value (e.sx.toNat % 2 ^ 32) else Num.ofInt e.sx.toInt
    e.convert h (List.replicate e.f.lanes x)
  | .voutl _ _ => { bytes := outlBytes e.recs }
  | .vcvt _ _ _ _ => e.convert h (h.srcs.flatMap e.vals)
  | _ => {}

/-! ### The unit -/

/-- Bytes of the slab as an operation captured its place (R118, R214). -/
def UnitOp.slab (o : UnitOp) (s : State) (t : BitVec 10) (off n : Nat) : List Byte := s.bytes (slabKey t (o.slabBase + off)) n
def UnitOp.who (o : UnitOp) (t : BitVec 10) : SlotId := ⟨t, o.core, o.slot⟩

/-- The bytes of view n under vw0; vin is the message taken. -/
def UnitOp.vview (o : UnitOp) (s : State) (t : BitVec 10) (n : Nat) : List Byte :=
  let vw := o.vw[0]
  if n = 31 then o.vinBytes.getD (List.replicate 256 0) else o.slab s t (vw.base + 256 * vw.stride * n) 256

/-- The results of an operation are written: views, scale bytes, list, x register (R260, R261). -/
def UnitOp.write (o : UnitOp) (t : BitVec 10) (h : VShape) (f : Fmt) (r : VResult) (s : State) : Res State := do
  let vw := o.vw[0]
  let put := fun (s : State) (off : Nat) (bs : List Byte) => s.store (slabKey t (o.slabBase + off)) bs
  let s ← match o.list with
    | some l => if h.conv then s.listAppend (o.who t) o.ctx l r.list else .ok s
    | none => .ok s
  let s := h.dsts.zipIdx.foldl (fun s (d, j) => put s (vw.base + 256 * vw.stride * d) ((r.bytes.drop (256 * j)).take 256)) s
  let s := match h.dst with
    | some d => if r.scales.isEmpty then s else put s (vw.scaleAt f d) r.scales
    | none => s
  .ok (match r.x with
    | some w => s.modSlot (o.who t) (fun v => v.replyX o.rd o.ord w .none)
    | none => s)

/-- One operation is carried out (R255 to R278). -/
def UnitOp.perform (o : UnitOp) (t : BitVec 10) (s : State) : Res State := do
  let vw := o.vw[0]
  match fmtOf vw.fmt with
  | none => .ok s
  | some f => match vshape f o.insn with
    | none => .ok s
    | some h =>
      let e : VEnv := {
        vw := vw, f := f, l := o.lfsr, view := o.vview s t, mask := o.mask, scale := fun n => o.slab s t (vw.scaleAt f n) (f.lanes / 32)
        sx := o.sx, list := (o.list.map OutList.start).getD {}, recs := o.recs }
      o.write t h f (e.result h o.insn) s

/-- The operation leaves the unit (R261). -/
def State.vectorGone (s : State) (t : BitVec 10) (ord : Nat) : State :=
  s.modTile t (fun v => { v with vxu := { v.vxu with running := none }, flight := v.flight.filter (fun f => f.ord != ord) })

/-- The instruction whose turn it is: that of the core which did not start the last one (R262). -/
def Vxu.first (u : Vxu) : Option (Bool × BitVec 2) := match u.presented.find? (fun p => p.1 != u.lastCore) with
  | some p => some p
  | none => u.presented.head?

/-- VECTOR_START (R262): the idle unit takes up one presented instruction, which issues to it at its slot's turn. [log 21 DEDUCED] -/
def execVectorStart (t : BitVec 10) (s : State) : Out := .next (
  let u := (s.tile t).vxu
  match u.running, u.granted, u.first with
  | none, none, some p => s.modTile t (fun v => { v with vxu := { v.vxu with presented := v.vxu.presented.filter (fun x => x != p), granted := some p } })
  | _, _, _ => s)

/-- VECTOR_COMPLETE (R261): without a cause, for every check was made at issue (R259). [log 21 DEDUCED] -/
def execVectorComplete (t : BitVec 10) (s : State) : Out := .next (
  match (s.tile t).vxu.running with
  | none => s
  | some o => match o.perform t s with
    | .ok s' => (s'.vectorGone t o.ord).sweepLate
    | .error (.wait s') => s'
    | .error (.trap _) => (s.vectorGone t o.ord).sweepLate)

def execVfadd (p : VMode) (vd vs1 vs2 : VReg) (s : State) : Out := .next (vectorInsn (.vfadd p vd vs1 vs2) s)
def execVfsub (p : VMode) (vd vs1 vs2 : VReg) (s : State) : Out := .next (vectorInsn (.vfsub p vd vs1 vs2) s)
def execVfmul (p : VMode) (vd vs1 vs2 : VReg) (s : State) : Out := .next (vectorInsn (.vfmul p vd vs1 vs2) s)
def execVfma (p : VMode) (vd vs1 vs2 : VReg) (s : State) : Out := .next (vectorInsn (.vfma p vd vs1 vs2) s)
def execVfms (p : VMode) (vd vs1 vs2 : VReg) (s : State) : Out := .next (vectorInsn (.vfms p vd vs1 vs2) s)
def execVfmax (p : VMode) (vd vs1 vs2 : VReg) (s : State) : Out := .next (vectorInsn (.vfmax p vd vs1 vs2) s)
def execVfmin (p : VMode) (vd vs1 vs2 : VReg) (s : State) : Out := .next (vectorInsn (.vfmin p vd vs1 vs2) s)
def execVfabs (p : VMode) (vd vs1 : VReg) (s : State) : Out := .next (vectorInsn (.vfabs p vd vs1) s)
def execVfneg (p : VMode) (vd vs1 : VReg) (s : State) : Out := .next (vectorInsn (.vfneg p vd vs1) s)
def execVfrcp (p : VMode) (vd vs1 : VReg) (s : State) : Out := .next (vectorInsn (.vfrcp p vd vs1) s)
def execVfrsq (p : VMode) (vd vs1 : VReg) (s : State) : Out := .next (vectorInsn (.vfrsq p vd vs1) s)
def execVfexp2 (p : VMode) (vd vs1 : VReg) (s : State) : Out := .next (vectorInsn (.vfexp2 p vd vs1) s)
def execVflog2 (p : VMode) (vd vs1 : VReg) (s : State) : Out := .next (vectorInsn (.vflog2 p vd vs1) s)
def execVfsig (p : VMode) (vd vs1 : VReg) (s : State) : Out := .next (vectorInsn (.vfsig p vd vs1) s)
def execVfgelu (p : VMode) (vd vs1 : VReg) (s : State) : Out := .next (vectorInsn (.vfgelu p vd vs1) s)
def execViadd (p : VMode) (vd vs1 vs2 : VReg) (s : State) : Out := .next (vectorInsn (.viadd p vd vs1 vs2) s)
def execVisub (p : VMode) (vd vs1 vs2 : VReg) (s : State) : Out := .next (vectorInsn (.visub p vd vs1 vs2) s)
def execVimul (p : VMode) (vd vs1 vs2 : VReg) (s : State) : Out := .next (vectorInsn (.vimul p vd vs1 vs2) s)
def execVimax (p : VMode) (vd vs1 vs2 : VReg) (s : State) : Out := .next (vectorInsn (.vimax p vd vs1 vs2) s)
def execVimin (p : VMode) (vd vs1 vs2 : VReg) (s : State) : Out := .next (vectorInsn (.vimin p vd vs1 vs2) s)
def execVand (p : VMode) (vd vs1 vs2 : VReg) (s : State) : Out := .next (vectorInsn (.vand p vd vs1 vs2) s)
def execVor (p : VMode) (vd vs1 vs2 : VReg) (s : State) : Out := .next (vectorInsn (.vor p vd vs1 vs2) s)
def execVxor (p : VMode) (vd vs1 vs2 : VReg) (s : State) : Out := .next (vectorInsn (.vxor p vd vs1 vs2) s)
def execVshl (p : VMode) (vd vs1 vs2 : VReg) (s : State) : Out := .next (vectorInsn (.vshl p vd vs1 vs2) s)
def execVshr (p : VMode) (vd vs1 vs2 : VReg) (s : State) : Out := .next (vectorInsn (.vshr p vd vs1 vs2) s)
def execVcmp (p : VMode) (vd vs1 vs2 : VReg) (s : State) : Out := .next (vectorInsn (.vcmp p vd vs1 vs2) s)
def execVsel (vd vs1 vs2 : VReg) (s : State) : Out := .next (vectorInsn (.vsel vd vs1 vs2) s)
def execVredf (p : VMode) (rd : XReg) (vs1 : VReg) (op : RedOp) (s : State) : Out := .next (vectorInsn (.vredf p rd vs1 op) s)
def execVredi (p : VMode) (rd : XReg) (vs1 : VReg) (op : RedOp) (s : State) : Out := .next (vectorInsn (.vredi p rd vs1 op) s)
def execVscan (p : VMode) (vd vs1 : VReg) (op : RedOp) (s : State) : Out := .next (vectorInsn (.vscan p vd vs1 op) s)
def execVperm (vd vs1 vs2 : VReg) (s : State) : Out := .next (vectorInsn (.vperm vd vs1 vs2) s)
def execVbcast (vd vs1 : VReg) (rs2 : XReg) (s : State) : Out := .next (vectorInsn (.vbcast vd vs1 rs2) s)
def execVslide (vd vs1 : VReg) (rs2 : XReg) (s : State) : Out := .next (vectorInsn (.vslide vd vs1 rs2) s)
def execVzip (vd vs1 vs2 : VReg) (s : State) : Out := .next (vectorInsn (.vzip vd vs1 vs2) s)
def execVunz (vd vs1 vs2 : VReg) (s : State) : Out := .next (vectorInsn (.vunz vd vs1 vs2) s)
def execVdot (p : VMode) (rd : XReg) (vs1 vs2 : VReg) (s : State) : Out := .next (vectorInsn (.vdot p rd vs1 vs2) s)
def execVmovx (rd : XReg) (vs1 : VReg) (rs2 : XReg) (s : State) : Out := .next (vectorInsn (.vmovx rd vs1 rs2) s)
def execVsetm (vd vs1 : VReg) (cond : BitVec 4) (s : State) : Out := .next (vectorInsn (.vsetm vd vs1 cond) s)
def execVfclass (p : VMode) (vd vs1 : VReg) (s : State) : Out := .next (vectorInsn (.vfclass p vd vs1) s)
def execVsplat (p : VMode) (vd : VReg) (rs1 : XReg) (s : State) : Out := .next (vectorInsn (.vsplat p vd rs1) s)
def execVoutl (vd : VReg) (rs1 : XReg) (s : State) : Out := .next (vectorInsn (.voutl vd rs1) s)
def execVcvt (tag : BitVec 7) (p : VMode) (vd vs1 : VReg) (s : State) : Out := .next (vectorInsn (.vcvt tag p vd vs1) s)

end Sys2Proof.Machine
end

