-- ==== Sys2Proof/Machine/Matrix.lean ====
section
/-! DEFINITION. custom-3: matrix instructions (R285 to R307): the claim (R289), the checks at issue (R287, R291), the queue and
its events (R292), the results (R295 to R304). -/

namespace Sys2Proof.Machine

/-- What a matrix instruction uses (R286, R287, R291): whether its view registers are fit, the slab ranges of its operands and
their scale bytes, those it writes, its list with the view register that names it and whether it appends, whether it steps L. -/
structure MPlan where
  ok : Bool := true
  a : Option (Nat × Nat) := none
  b : Option (Nat × Nat) := none
  sa : Option (Nat × Nat) := none
  sb : Option (Nat × Nat) := none
  w : List (Nat × Nat) := []
  list : Option (BitVec 2 × Bool) := none
  steps : Bool := false

/-- Start of tile view n, and its size in a format (R285). -/
def View.tileAt (v : View) (n : MReg) : Nat := v.base + 256 * v.stride * n.toNat
def Fmt.tileSize (f : Fmt) : Nat := 512 * f.width
/-- The conditions of R213 on a register that interprets elements, but for STRIDE. -/
def View.interprets (v : View) : Bool := v.rnd.toNat < 2 && v.ovf != 3
def View.scalesAt (v : View) (n : MReg) : Option (Nat × Nat) := if v.scaled then some (v.scaleOff + 128 * n.toNat, 128) else none

/-- `MMA` and `MMA.B16`. [log 57 DEDUCED] -/
def planMma (vw : Vector View 4) (ma : MC) (mb : MReg) : MPlan :=
  match fmtOf vw[1].fmt, fmtOf vw[2].fmt with
  | some f1, some f2 =>
    let base : MPlan := {
      ok := vw[1].interprets && vw[2].interprets && f1.mayScale && f2.mayScale && f1.width == f2.width && vw[1].stride != 0
      b := some (vw[1].tileAt mb, f2.tileSize), sb := vw[2].scalesAt mb }
    match ma with
    | .m n => { base with a := some (vw[1].tileAt n, f1.tileSize), sa := vw[1].scalesAt n }
    | .c _ => { base with list := if vw[1].ovf = 0 then some (1, true) else none, steps := vw[1].rnd == 1 }
  | _, _ => { ok := false }

def planMmaO (vw : Vector View 4) (ma : MC) (mb : MReg) : MPlan :=
  let n : BitVec 2 := match ma with
    | .c _ => 1
    | .m _ => 3
  let v := vw[n.toNat]
  match fmtOf vw[2].fmt with
  | some f2 => {
      ok := vw[2].interprets && f2.mayScale && vw[1].stride != 0 && v.interprets && (fmtOf v.fmt).isSome
      b := some (vw[1].tileAt mb, f2.tileSize), sb := vw[2].scalesAt mb, list := some (n, false) }
  | none => { ok := false }

def planMmai (vw : Vector View 4) (ma mb : MReg) : MPlan :=
  let int8 := fun (f : Option Fmt) => f == some fmtI8 || f == some fmtN8
  { ok := int8 (fmtOf vw[1].fmt) && int8 (fmtOf vw[2].fmt) && vw[1].interprets && vw[2].interprets && !vw[1].scaled && !vw[2].scaled &&
      vw[1].stride != 0
    a := some (vw[1].tileAt ma, 4096), b := some (vw[1].tileAt mb, 4096) }

def planMcvt (vw : Vector View 4) (md : MReg) : MPlan :=
  match fmtOf vw[3].fmt with
  | some f => {
      ok := vw[3].interprets && (!vw[3].scaled || f.mayScale) && vw[1].stride != 0
      w := (vw[1].tileAt md, f.tileSize) :: (vw[3].scalesAt md).toList
      list := if vw[3].ovf = 0 ∧ f ≠ fmtF ∧ f ≠ fmtI32 then some (3, true) else none
      steps := vw[3].rnd == 1 }
  | none => { ok := false }

def planMtrn (vw : Vector View 4) (d s : MReg) : MPlan :=
  match fmtOf vw[1].fmt with
  | some f => { ok := vw[1].interprets && vw[1].stride != 0 && !vw[1].scaled, a := some (vw[1].tileAt s, f.tileSize)
                w := [(vw[1].tileAt d, f.tileSize)] }
  | none => { ok := false }

/-- R287 and R291 for each instruction. -/
def mplan (vw : Vector View 4) : Instr → MPlan
  | .mma _ _ ma mb => planMma vw ma mb
  | .mmaB16 _ _ ma mb => planMma vw ma mb
  | .mmaO _ ma mb => planMmaO vw ma mb
  | .mmai _ _ ma mb => planMmai vw ma mb
  | .mcvt _ _ md _ => planMcvt vw md
  | .mldc _ ms => { ok := vw[1].stride != 0, a := some (vw[1].tileAt ms, 16384) }
  | .mstc md _ => { ok := vw[1].stride != 0, w := [(vw[1].tileAt md, 16384)] }
  | .mtrn (.m d) (.m s) => planMtrn vw d s
  | _ => {}

/-- The register that `MSTAT` writes. -/
def mrd : Instr → Option XReg
  | .mstat _ rd _ => some rd
  | _ => none

def State.planRegions (s : State) (i : SlotId) : List (Nat × Nat) → Res (List Region)
  | [] => .ok []
  | (o, n) :: os => do
    let r ← s.slabRegion i o n
    let rs ← State.planRegions s i os
    .ok (r :: rs)

/-- The list of a matrix instruction (R291): for `MMA.O` every record, none with an INDEX beyond the tile (R298). -/
def State.mlist (s : State) (i : SlotId) (v : Slot) (p : MPlan) : Res ((Option OutList × Records) × State) := do
  match p.list with
  | none => .ok ((none, []), s)
  | some (n, write) =>
    let (o, s) ← s.listOpen i (v.vwr n) write
    if write then .ok ((some o, []), s)
    else
      let (rs, s) ← s.listRecords i o 0 o.count
      needT (rs.all (fun r => r.1.toNat < 4096)) 0x63 o.title
      .ok ((some o, rs), s)

/-- The claim (R289): held by the slot, or its wait for it begins. -/
def State.claim (s : State) (i : SlotId) : Res Unit :=
  let m := (s.tile i.tile).mxu
  if m.claim = some i.slot then .ok ()
  else waitIn (s.modTile i.tile (fun t => if t.mxu.waiters.contains i.slot then t
    else { t with mxu := { t.mxu with waiters := t.mxu.waiters ++ [i.slot] } }))

/-- A matrix instruction issues (R289 to R292, R294): its checks, a place in the queue, L moved past its steps. [log 21 DEDUCED, 57 DEDUCED] -/
def matrixBody (ins : Instr) (s0 : State) : Res State := do
  let i := s0.cur
  need i.core 0x00
  s0.claim i
  let v := s0.me
  let p := mplan v.vw ins
  need p.ok 0x05
  let rs ← s0.planRegions i (p.a.toList ++ p.b.toList ++ p.sa.toList ++ p.sb.toList)
  let ws ← s0.planRegions i p.w
  let ((o?, recs), s) ← s0.mlist i v p
  let m := (s.tile i.tile).mxu
  waitUnless (m.queue.length + b2n m.running.isSome < 5) s
  let (b, l) := s.slabOf i
  let ord := s.nextId
  let lr := (o?.map OutList.region).toList
  let lw := match p.list with
    | some (_, true) => lr
    | _ => []
  let op : UnitOp := {
    ord := ord, core := i.core, slot := i.slot, ctx := v.ctx, insn := ins, vw := v.vw, slabBase := b, slabLen := l, sx := 0
    lfsr := v.lfsr, vinBytes := none, list := o?, recs := recs, rd := (mrd ins).getD 0 }
  let s := s.fresh.modTile i.tile (fun t => { t with
    mxu := { t.mxu with queue := t.mxu.queue ++ [op] }
    flight := t.flight ++ [{ ord := ord, core := i.core, slot := i.slot, vm := true, reads := rs ++ lr, writes := ws ++ lw,
                             titles := (o?.map (fun o => (o.title.ctx, o.title.index))).toList }] })
  .ok (s.setMe ({ v with lfsr := lfsrSteps (if p.steps then 4096 else 0) v.lfsr }.bindX ((mrd ins).getD 0) ord).retire)

def matrixInsn (ins : Instr) (s : State) : State :=
  waitingInsn [] (matrixBody ins) s

/-! ### Results -/

/-- The words of an accumulator, row by row (R286, R288). -/
def Mxu.words (m : Mxu) (c : CReg) : List Nat := (List.range 4096).map (fun i => (find 0 m.acc[c.toNat] i).toNat)
def Mxu.setWords (m : Mxu) (c : CReg) (ws : List Nat) : Mxu :=
  { m with acc := m.acc.set c.toNat (ws.zipIdx.filterMap (fun (w, i) => if w % 2 ^ 32 = 0 then none else some (i, BitVec.ofNat 32 w))) }
def Mxu.setSat (m : Mxu) (c : CReg) (b : Bool) : Mxu :=
  { m with sat := if b then m.sat ||| (1#4 <<< c.toNat) else m.sat &&& ~~~(1#4 <<< c.toNat) }

/-- Rows of n elements. -/
def rowsOf {α : Type} (n : Nat) : Nat → List α → List (List α)
  | 0, _ => []
  | k + 1, l => l.take n :: rowsOf n k (l.drop n)
def transposed {α : Type} (n : Nat) (z : α) (rows : List (List α)) : List (List α) :=
  (List.range n).map (fun j => rows.map (fun r => r.getD j z))

/-- The exact values of a tile view's elements, each with its scale (R158, R295). -/
def tileVals (v : View) (bs sc : List Byte) : List Num :=
  match fmtOf v.fmt with
  | none => []
  | some f =>
    let xs := (unpack f.width bs).map f.value
    if v.scaled then xs.zipIdx.map (fun (x, i) => scaled x (sc.getD (i / 32) 0).toNat) else xs

/-- The down-converter (R296): the values of A, and the list after its appends. -/
def downConvert (v : View) (l : BitVec 16) (ws : List Nat) (o : Outl) : List Num × Outl :=
  match fmtOf v.fmt with
  | none => ([], o)
  | some f =>
    let xs := ws.map fmtF.value
    let ss := if v.scaled then blockScales f 128 (xs.map some) else List.replicate 128 127
    let (cs, o) := deliverAll f (v.rnd == 1) v.ovf 0 l (xs.zipIdx.map (fun (x, i) => (some (x, ss.getD (i / 32) 127), 0))) o
    (cs.zipIdx.map (fun (c, i) => scaled (f.value c) (ss.getD (i / 32) 127)), o)

/-- One word of a product: the chunks of its row and column in increasing k, one rounding each (R167). -/
def mmaCell (chunk : Nat) : Nat → Num → List Num → List Num → Num
  | 0, c, _, _ => c
  | n + 1, c, row, col =>
    mmaCell chunk n (roundF32 (c.add (Num.sum (List.zipWith Num.mul (row.take chunk) (col.take chunk))))) (row.drop chunk) (col.drop chunk)

/-- The chunk of R167. -/
def chunkOf (v : View) : Nat := match fmtOf v.fmt with
  | some f => if f.width = 4 then 32 else 16
  | none => 16

/-- A whole product added to cd (R295). -/
def mmaWords (chunk : Nat) (c : List Nat) (a b : List Num) : List Nat :=
  let cols := rowsOf 64 64 b
  (List.zipWith (fun cr ar => List.zipWith (fun w bc => toF32 (mmaCell chunk (64 / chunk) (fmtF.value w) ar bc)) cr cols)
    (rowsOf 64 64 c) (rowsOf 64 64 a)).flatten

/-- The block diagonal (R297). -/
def mmaBlocks (z : Bool) (c : List Nat) (a b : List Num) : List Nat :=
  let cols := rowsOf 64 64 b
  ((List.zip (rowsOf 64 64 c) (rowsOf 64 64 a)).zipIdx.map (fun ((cr, ar), i) =>
    (cr.zip cols).zipIdx.map (fun ((w, bc), j) =>
      if i / 16 = j / 16 then
        toF32 (mmaCell 16 1 (if z then .zero else fmtF.value w) ((ar.drop (16 * (i / 16))).take 16) ((bc.drop (16 * (i / 16))).take 16))
      else w))).flatten

/-- One outlier record applied to cd (R298). -/
def applyRecord (cols : List (List Num)) (c : List (List Nat)) (r : BitVec 32 × BitVec 32) : List (List Nat) :=
  let v := fmtF.value r.2.toNat
  let k := r.1.toNat % 64
  c.modify (r.1.toNat / 64) (fun row => List.zipWith (fun w bc => toF32 ((fmtF.value w).add (v.mul (bc.getD k .zero)))) row cols)

/-- One word of an integer product, with whether it saturated (R299). -/
def mmaiCell : Nat → Int → Bool → List Int → List Int → Int × Bool
  | 0, c, t, _, _ => (c, t)
  | n + 1, c, t, row, col =>
    let (c, u) := satAdd c ((List.zipWith (fun x y => x * y) (row.take 16) (col.take 16)).sum)
    mmaiCell n c (t || u) (row.drop 16) (col.drop 16)

def toI32 (w : Nat) : Int := (BitVec.ofNat 32 w).toInt
def ofI32 (x : Int) : Nat := (BitVec.ofInt 32 x).toNat

def mmaiWords (c : List Nat) (a b : List Int) : List (Nat × Bool) :=
  let cols := rowsOf 64 64 b
  (List.zipWith (fun cr ar => List.zipWith (fun w bc =>
      let (x, t) := mmaiCell 4 (toI32 w) false ar bc
      (ofI32 x, t)) cr cols) (rowsOf 64 64 c) (rowsOf 64 64 a)).flatten

def isNaN32 (w : Nat) : Bool := w % 2 ^ 31 > 0x7F800000
def isInf32 (w : Nat) : Bool := w % 2 ^ 31 == 0x7F800000

/-- What a matrix instruction leaves: accumulators, bytes at its destination with their scale bytes, an x result, its list. -/
structure MResult where
  mxu : Mxu
  bytes : List Byte := []
  scales : List Byte := []
  x : Option Word := none
  list : Outl := {}

/-- A of `MMA` and `MMA.B16` (R295, R296). -/
def factorA (vw : Vector View 4) (l : BitVec 16) (ma : MC) (m : Mxu) (p : Operands) (o : Outl) : List Num × Outl :=
  match ma with
  | .m _ => (tileVals vw[1] p.a p.sa, o)
  | .c c => downConvert vw[1] l (m.words c) o

def intTile (v : View) (bs : List Byte) : List Int := match fmtOf v.fmt with
  | some f => (unpack f.width bs).map f.int
  | none => []

/-- `MCVT` (R301). -/
def mcvtResult (vw : Vector View 4) (l : BitVec 16) (i t : Bool) (cs : CReg) (m : Mxu) (o : Outl) : MResult :=
  match fmtOf vw[3].fmt with
  | none => { mxu := m }
  | some f =>
    let ws := if t then (transposed 64 0 (rowsOf 64 64 (m.words cs))).flatten else m.words cs
    if f = fmtF ∧ !i then { mxu := m, bytes := pack 32 ws, list := o }
    else
      let xs : List Num := ws.map (fun w => if i then Num.ofInt (toI32 w) else fmtF.value w)
      let ss := if vw[3].scaled then blockScales f 128 (xs.map some) else []
      let (cs, o) := deliverAll f (vw[3].rnd == 1) vw[3].ovf 0 l (xs.zipIdx.map (fun (x, i) => (some (x, ss.getD (i / 32) 127), 0))) o
      { mxu := m, bytes := pack f.width cs, scales := ss.map (BitVec.ofNat 8), list := o }

/-- The result of each matrix instruction (R295 to R304). -/
def mresult (vw : Vector View 4) (l : BitVec 16) (m : Mxu) (p : Operands) (o : Outl) (ins : Instr) : MResult :=
  match ins with
  | .mma z cd ma _ =>
    let (a, o) := factorA vw l ma m p o
    let c := if z then List.replicate 4096 0 else m.words cd
    let m := if z then m.setSat cd false else m
    { mxu := m.setWords cd (mmaWords (chunkOf vw[1]) c a (tileVals vw[2] p.b p.sb)), list := o }
  | .mmaB16 z cd ma _ =>
    let (a, o) := factorA vw l ma m p o
    let c := m.words cd
    let m := if z then m.setSat cd false else m
    { mxu := m.setWords cd (mmaBlocks z c a (tileVals vw[2] p.b p.sb)), list := o }
  | .mmaO cd _ _ =>
    let cols := rowsOf 64 64 (tileVals vw[2] p.b p.sb)
    { mxu := m.setWords cd (p.recs.foldl (applyRecord cols) (rowsOf 64 64 (m.words cd))).flatten, list := o }
  | .mmai z cd _ _ =>
    let r := mmaiWords (if z then List.replicate 4096 0 else m.words cd) (intTile vw[1] p.a) (intTile vw[2] p.b)
    let old := !z && m.sat.getLsbD cd.toNat
    { mxu := (m.setWords cd (r.map Prod.fst)).setSat cd (old || r.any Prod.snd) }
  | .mcvt i t _ cs => mcvtResult vw l i t cs m o
  | .mzero cd => { mxu := (m.setWords cd []).setSat cd false }
  | .mldc cd _ => { mxu := (m.setWords cd (unpack 32 p.a)).setSat cd false }
  | .mstc _ cs => { mxu := m, bytes := pack 32 (m.words cs) }
  | .mtrn (.m _) _ => match fmtOf vw[1].fmt with
    | some f => { mxu := m, bytes := pack f.width (transposed 64 0 (rowsOf 64 64 (unpack f.width p.a))).flatten }
    | none => { mxu := m }
  | .mtrn (.c d) (.c c) =>
    { mxu := (m.setWords d (transposed 64 0 (rowsOf 64 64 (m.words c))).flatten).setSat d (m.sat.getLsbD c.toNat) }
  | .macca i cd ca cb =>
    if i then
      let r := List.zipWith (fun x y => satAdd (toI32 x) (toI32 y)) (m.words ca) (m.words cb)
      { mxu := (m.setWords cd (r.map (fun x => ofI32 x.1))).setSat cd
          (m.sat.getLsbD ca.toNat || m.sat.getLsbD cb.toNat || r.any Prod.snd) }
    else { mxu := m.setWords cd (List.zipWith (fun x y => toF32 ((fmtF.value x).add (fmtF.value y))) (m.words ca) (m.words cb)) }
  | .mstat clr _ cs =>
    let ws := m.words cs
    { mxu := if clr then m.setSat cs false else m
      x := some (BitVec.ofNat 64 (4 * b2n (ws.any isNaN32) + 2 * b2n (ws.any isInf32) + b2n (m.sat.getLsbD cs.toNat))) }
  | _ => { mxu := m }

/-! ### The unit -/

/-- A firing of the context of slot w on tile t that a switch has parked holds the claim: another one of that context goes on waiting for it,
since the accumulators belong to one firing at a time (R289). [log 52 DEDUCED] -/
def State.claimParked (s : State) (t : BitVec 10) (w : BitVec 2) : Bool :=
  (s.ctxOf ⟨t, true, w⟩).parked.any (fun p => p.sid.tile == t && p.matrix.isSome)

/-- CLAIM_GRANT (R289): the claim is free, no instruction runs; every word and SAT becomes 0. -/
def execClaimGrant (t : BitVec 10) (s : State) : Out := .next (
  let m := (s.tile t).mxu
  match m.waiters.find? (fun w => !s.claimParked t w) with
  | none => s
  | some w =>
    if m.claim.isNone ∧ m.running.isNone then
      s.modTile t (fun v => { v with mxu := { v.mxu with
        claim := some w, waiters := v.mxu.waiters.erase w, acc := Vector.replicate 4 [], sat := 0 } })
    else s)

/-- MATRIX_START (R292): the oldest queued instruction starts reading once the edges of R113 permit. -/
def execMatrixStart (t : BitVec 10) (s : State) : Out := .next (
  let tl := s.tile t
  match tl.mxu.running, tl.mxu.queue with
  | none, o :: os =>
    match tl.flight.find? (fun f => f.ord == o.ord) with
    | some f => if tl.edgeFree o.core f.reads f.writes o.ord then
        s.modTile t (fun v => { v with mxu := { v.mxu with running := some o, queue := os } })
      else s
    | none => s.modTile t (fun v => { v with mxu := { v.mxu with running := some o, queue := os } })
  | _, _ => s)

/-- The range of an operand, read from the slab. -/
def UnitOp.range (o : UnitOp) (s : State) (t : BitVec 10) (r : Option (Nat × Nat)) : List Byte := match r with
  | some (off, n) => o.slab s t off n
  | none => []

/-- Operands and scale bytes are read (R292); the list records were taken at issue (R291), and the edges of R113 have kept them. -/
def UnitOp.consume (o : UnitOp) (t : BitVec 10) (s : State) : State :=
  let p := mplan o.vw o.insn
  let ops : Operands := { a := o.range s t p.a, b := o.range s t p.b, sa := o.range s t p.sa, sb := o.range s t p.sb, recs := o.recs }
  s.modTile t (fun v => { v with
    mxu := { v.mxu with running := some { o with operands := some ops } }
    flight := v.flight.map (fun f => if f.ord == o.ord then { f with consumed := true } else f) })

def State.matrixGone (s : State) (t : BitVec 10) (ord : Nat) : State :=
  s.modTile t (fun v => { v with mxu := { v.mxu with running := none }, flight := v.flight.filter (fun f => f.ord != ord) })

/-- MATRIX_OPERANDS_CONSUMED (R292). -/
def execMatrixOperandsConsumed (t : BitVec 10) (s : State) : Out := .next (
  match (s.tile t).mxu.running with
  | none => s
  | some o => match o.operands with
    | some _ => s
    | none => o.consume t s)

/-- The results of an operation are written (R292, R294). -/
def UnitOp.finish (o : UnitOp) (p : Operands) (t : BitVec 10) (s : State) : Res State := do
  let plan := mplan o.vw o.insn
  let r := mresult o.vw o.lfsr (s.tile t).mxu p ((o.list.map OutList.start).getD {}) o.insn
  let s ← match o.list, plan.list with
    | some l, some (_, true) => s.listAppend (o.who t) o.ctx l r.list
    | _, _ => .ok s
  let s := s.modTile t (fun v => { v with mxu := r.mxu })
  let s := match plan.w with
    | (off, n) :: _ => s.store (slabKey t (o.slabBase + off)) (r.bytes.take n)
    | [] => s
  let s := match plan.w with
    | [_, (off, _)] => s.store (slabKey t (o.slabBase + off)) r.scales
    | _ => s
  .ok (match r.x with
    | some w => s.modSlot (o.who t) (fun v => v.replyX o.rd o.ord w .none)
    | none => s)

/-- MATRIX_COMPLETE (R292): without a cause, for every check was made at issue (R291). -/
def execMatrixComplete (t : BitVec 10) (s : State) : Out := .next (
  match (s.tile t).mxu.running with
  | none => s
  | some o => match o.operands with
    | none => s
    | some p => match o.finish p t s with
      | .ok s' => (s'.matrixGone t o.ord).sweepLate
      | .error (.wait s') => s'
      | .error (.trap _) => (s.matrixGone t o.ord).sweepLate)

def execMma (z : Bool) (cd : CReg) (ma : MC) (mb : MReg) (s : State) : Out := .next (matrixInsn (.mma z cd ma mb) s)
def execMmaB16 (z : Bool) (cd : CReg) (ma : MC) (mb : MReg) (s : State) : Out := .next (matrixInsn (.mmaB16 z cd ma mb) s)
def execMmaO (cd : CReg) (ma : MC) (mb : MReg) (s : State) : Out := .next (matrixInsn (.mmaO cd ma mb) s)
def execMmai (z : Bool) (cd : CReg) (ma mb : MReg) (s : State) : Out := .next (matrixInsn (.mmai z cd ma mb) s)
def execMcvt (i t : Bool) (md : MReg) (cs : CReg) (s : State) : Out := .next (matrixInsn (.mcvt i t md cs) s)
def execMzero (cd : CReg) (s : State) : Out := .next (matrixInsn (.mzero cd) s)
def execMldc (cd : CReg) (ms : MReg) (s : State) : Out := .next (matrixInsn (.mldc cd ms) s)
def execMstc (md : MReg) (cs : CReg) (s : State) : Out := .next (matrixInsn (.mstc md cs) s)
def execMtrn (d src : MC) (s : State) : Out := .next (matrixInsn (.mtrn d src) s)
def execMacca (i : Bool) (cd ca cb : CReg) (s : State) : Out := .next (matrixInsn (.macca i cd ca cb) s)
def execMstat (clr : Bool) (rd : XReg) (cs : CReg) (s : State) : Out := .next (matrixInsn (.mstat clr rd cs) s)

end Sys2Proof.Machine
end

