-- ==== Sys2Proof/Machine/Integer.lean ====
section
/-! DEFINITION. RV64I, M and the three counters (R172 to R174, R192). -/

namespace Sys2Proof.Machine

def execLui (rd : XReg) (imm : BitVec 20) (s : State) : Out := .next (intInsn [] rd (fun _ => imm20 imm) s)
def execAuipc (rd : XReg) (imm : BitVec 20) (s : State) : Out := .next (intInsn [] rd (fun v => v.pc + imm20 imm) s)
def execJal (rd : XReg) (imm : BitVec 20) (s : State) : Out := .next (jumpInsn [] rd (fun v => some (v.pc + immJ imm)) s)
def execJalr (rd rs1 : XReg) (imm : BitVec 12) (s : State) : Out :=
  .next (jumpInsn [rs1] rd (fun v => some ((v.xr rs1 + imm12 imm) &&& ~~~1)) s)

/-- A conditional branch (R174). -/
def branch (c : Word → Word → Bool) (rs1 rs2 : XReg) (imm : BitVec 12) (s : State) : State :=
  jumpInsn [rs1, rs2] 0 (fun v => if c (v.xr rs1) (v.xr rs2) then some (v.pc + immB imm) else none) s

def execBeq (rs1 rs2 : XReg) (imm : BitVec 12) (s : State) : Out := .next (branch (fun a b => a == b) rs1 rs2 imm s)
def execBne (rs1 rs2 : XReg) (imm : BitVec 12) (s : State) : Out := .next (branch (fun a b => a != b) rs1 rs2 imm s)
def execBlt (rs1 rs2 : XReg) (imm : BitVec 12) (s : State) : Out := .next (branch BitVec.slt rs1 rs2 imm s)
def execBge (rs1 rs2 : XReg) (imm : BitVec 12) (s : State) : Out := .next (branch (fun a b => !a.slt b) rs1 rs2 imm s)
def execBltu (rs1 rs2 : XReg) (imm : BitVec 12) (s : State) : Out := .next (branch BitVec.ult rs1 rs2 imm s)
def execBgeu (rs1 rs2 : XReg) (imm : BitVec 12) (s : State) : Out := .next (branch (fun a b => !a.ult b) rs1 rs2 imm s)

/-- The value of n loaded bytes, sign- or zero-extended (R192, R230). -/
def extend (n : Nat) (signed : Bool) (bs : List Byte) : Word :=
  let v := leNat bs
  if signed ∧ v ≥ 2 ^ (8 * n - 1) then BitVec.ofInt 64 ((v : Int) - 2 ^ (8 * n)) else BitVec.ofNat 64 v

/-- An x-register load (R93, R94). -/
def xload (n : Nat) (signed : Bool) (rd rs1 : XReg) (imm : BitVec 12) (s : State) : State :=
  loadInsn [rs1] rd (fun v s => do
    let (bs, s) ← s.xLoad s.cur (v.xr rs1 + imm12 imm) n
    .ok (extend n signed bs, s)) s

def execLb (rd rs1 : XReg) (imm : BitVec 12) (s : State) : Out := .next (xload 1 true rd rs1 imm s)
def execLh (rd rs1 : XReg) (imm : BitVec 12) (s : State) : Out := .next (xload 2 true rd rs1 imm s)
def execLw (rd rs1 : XReg) (imm : BitVec 12) (s : State) : Out := .next (xload 4 true rd rs1 imm s)
def execLd (rd rs1 : XReg) (imm : BitVec 12) (s : State) : Out := .next (xload 8 true rd rs1 imm s)
def execLbu (rd rs1 : XReg) (imm : BitVec 12) (s : State) : Out := .next (xload 1 false rd rs1 imm s)
def execLhu (rd rs1 : XReg) (imm : BitVec 12) (s : State) : Out := .next (xload 2 false rd rs1 imm s)
def execLwu (rd rs1 : XReg) (imm : BitVec 12) (s : State) : Out := .next (xload 4 false rd rs1 imm s)

/-- An x-register store (R93, R94). -/
def xstore (n : Nat) (rs1 rs2 : XReg) (imm : BitVec 12) (s : State) : State :=
  storeInsn [rs1, rs2] [] (fun _ _ => .ok ()) (fun s => do
    let s ← s.xStore s.cur (s.me.xr rs1 + imm12 imm) (leBytes n (s.me.xr rs2).toNat)
    .ok s.retire) s

def execSb (rs1 rs2 : XReg) (imm : BitVec 12) (s : State) : Out := .next (xstore 1 rs1 rs2 imm s)
def execSh (rs1 rs2 : XReg) (imm : BitVec 12) (s : State) : Out := .next (xstore 2 rs1 rs2 imm s)
def execSw (rs1 rs2 : XReg) (imm : BitVec 12) (s : State) : Out := .next (xstore 4 rs1 rs2 imm s)
def execSd (rs1 rs2 : XReg) (imm : BitVec 12) (s : State) : Out := .next (xstore 8 rs1 rs2 imm s)

/-- rd ← f of rs1. -/
def unary (f : Word → Word) (rd rs1 : XReg) (s : State) : State := intInsn [rs1] rd (fun v => f (v.xr rs1)) s
/-- rd ← f of rs1 and rs2. -/
def binary (f : Word → Word → Word) (rd rs1 rs2 : XReg) (s : State) : State :=
  intInsn [rs1, rs2] rd (fun v => f (v.xr rs1) (v.xr rs2)) s

def boolWord (b : Bool) : Word := if b then 1 else 0

def execAddi (rd rs1 : XReg) (imm : BitVec 12) (s : State) : Out := .next (unary (fun a => a + imm12 imm) rd rs1 s)
def execSlti (rd rs1 : XReg) (imm : BitVec 12) (s : State) : Out :=
  .next (unary (fun a => boolWord (a.slt (imm12 imm))) rd rs1 s)
def execSltiu (rd rs1 : XReg) (imm : BitVec 12) (s : State) : Out :=
  .next (unary (fun a => boolWord (a.ult (imm12 imm))) rd rs1 s)
def execXori (rd rs1 : XReg) (imm : BitVec 12) (s : State) : Out := .next (unary (fun a => a ^^^ imm12 imm) rd rs1 s)
def execOri (rd rs1 : XReg) (imm : BitVec 12) (s : State) : Out := .next (unary (fun a => a ||| imm12 imm) rd rs1 s)
def execAndi (rd rs1 : XReg) (imm : BitVec 12) (s : State) : Out := .next (unary (fun a => a &&& imm12 imm) rd rs1 s)
def execSlli (rd rs1 : XReg) (sh : BitVec 6) (s : State) : Out := .next (unary (fun a => a <<< sh.toNat) rd rs1 s)
def execSrli (rd rs1 : XReg) (sh : BitVec 6) (s : State) : Out := .next (unary (fun a => a >>> sh.toNat) rd rs1 s)
def execSrai (rd rs1 : XReg) (sh : BitVec 6) (s : State) : Out := .next (unary (fun a => a.sshiftRight sh.toNat) rd rs1 s)

def execAdd (rd rs1 rs2 : XReg) (s : State) : Out := .next (binary (fun a b => a + b) rd rs1 rs2 s)
def execSub (rd rs1 rs2 : XReg) (s : State) : Out := .next (binary (fun a b => a - b) rd rs1 rs2 s)
def execSll (rd rs1 rs2 : XReg) (s : State) : Out := .next (binary (fun a b => a <<< (b.toNat % 64)) rd rs1 rs2 s)
def execSlt (rd rs1 rs2 : XReg) (s : State) : Out := .next (binary (fun a b => boolWord (a.slt b)) rd rs1 rs2 s)
def execSltu (rd rs1 rs2 : XReg) (s : State) : Out := .next (binary (fun a b => boolWord (a.ult b)) rd rs1 rs2 s)
def execXor (rd rs1 rs2 : XReg) (s : State) : Out := .next (binary (fun a b => a ^^^ b) rd rs1 rs2 s)
def execSrl (rd rs1 rs2 : XReg) (s : State) : Out := .next (binary (fun a b => a >>> (b.toNat % 64)) rd rs1 rs2 s)
def execSra (rd rs1 rs2 : XReg) (s : State) : Out := .next (binary (fun a b => a.sshiftRight (b.toNat % 64)) rd rs1 rs2 s)
def execOr (rd rs1 rs2 : XReg) (s : State) : Out := .next (binary (fun a b => a ||| b) rd rs1 rs2 s)
def execAnd (rd rs1 rs2 : XReg) (s : State) : Out := .next (binary (fun a b => a &&& b) rd rs1 rs2 s)

/-- The W forms act on the low 32 bits and sign-extend the result (R192). -/
def unaryW (f : BitVec 32 → BitVec 32) (rd rs1 : XReg) (s : State) : State := unary (fun a => sext32 (f (low32 a))) rd rs1 s
def binaryW (f : BitVec 32 → BitVec 32 → BitVec 32) (rd rs1 rs2 : XReg) (s : State) : State :=
  binary (fun a b => sext32 (f (low32 a) (low32 b))) rd rs1 rs2 s

def execAddiw (rd rs1 : XReg) (imm : BitVec 12) (s : State) : Out := .next (unaryW (fun a => a + imm.signExtend 32) rd rs1 s)
def execSlliw (rd rs1 : XReg) (sh : BitVec 5) (s : State) : Out := .next (unaryW (fun a => a <<< sh.toNat) rd rs1 s)
def execSrliw (rd rs1 : XReg) (sh : BitVec 5) (s : State) : Out := .next (unaryW (fun a => a >>> sh.toNat) rd rs1 s)
def execSraiw (rd rs1 : XReg) (sh : BitVec 5) (s : State) : Out := .next (unaryW (fun a => a.sshiftRight sh.toNat) rd rs1 s)
def execAddw (rd rs1 rs2 : XReg) (s : State) : Out := .next (binaryW (fun a b => a + b) rd rs1 rs2 s)
def execSubw (rd rs1 rs2 : XReg) (s : State) : Out := .next (binaryW (fun a b => a - b) rd rs1 rs2 s)
def execSllw (rd rs1 rs2 : XReg) (s : State) : Out := .next (binaryW (fun a b => a <<< (b.toNat % 32)) rd rs1 rs2 s)
def execSrlw (rd rs1 rs2 : XReg) (s : State) : Out := .next (binaryW (fun a b => a >>> (b.toNat % 32)) rd rs1 rs2 s)
def execSraw (rd rs1 rs2 : XReg) (s : State) : Out := .next (binaryW (fun a b => a.sshiftRight (b.toNat % 32)) rd rs1 rs2 s)

/-- The quotient and remainder that RISC-V publishes: a zero divisor gives all ones and the dividend, the one signed overflow
gives the dividend and 0. -/
def quotS {w : Nat} (a b : BitVec w) : BitVec w :=
  if b = 0 then BitVec.allOnes w else BitVec.ofInt w (a.toInt.tdiv b.toInt)
def remS {w : Nat} (a b : BitVec w) : BitVec w :=
  if b = 0 then a else BitVec.ofInt w (a.toInt.tmod b.toInt)
def quotU {w : Nat} (a b : BitVec w) : BitVec w := if b = 0 then BitVec.allOnes w else BitVec.ofNat w (a.toNat / b.toNat)
def remU {w : Nat} (a b : BitVec w) : BitVec w := if b = 0 then a else BitVec.ofNat w (a.toNat % b.toNat)

def execMul (rd rs1 rs2 : XReg) (s : State) : Out := .next (binary (fun a b => a * b) rd rs1 rs2 s)
def execMulh (rd rs1 rs2 : XReg) (s : State) : Out :=
  .next (binary (fun a b => BitVec.ofInt 64 (a.toInt * b.toInt / 2 ^ 64)) rd rs1 rs2 s)
def execMulhsu (rd rs1 rs2 : XReg) (s : State) : Out :=
  .next (binary (fun a b => BitVec.ofInt 64 (a.toInt * b.toNat / 2 ^ 64)) rd rs1 rs2 s)
def execMulhu (rd rs1 rs2 : XReg) (s : State) : Out :=
  .next (binary (fun a b => BitVec.ofNat 64 (a.toNat * b.toNat / 2 ^ 64)) rd rs1 rs2 s)
def execDiv (rd rs1 rs2 : XReg) (s : State) : Out := .next (binary quotS rd rs1 rs2 s)
def execDivu (rd rs1 rs2 : XReg) (s : State) : Out := .next (binary quotU rd rs1 rs2 s)
def execRem (rd rs1 rs2 : XReg) (s : State) : Out := .next (binary remS rd rs1 rs2 s)
def execRemu (rd rs1 rs2 : XReg) (s : State) : Out := .next (binary remU rd rs1 rs2 s)
def execMulw (rd rs1 rs2 : XReg) (s : State) : Out := .next (binaryW (fun a b => a * b) rd rs1 rs2 s)
def execDivw (rd rs1 rs2 : XReg) (s : State) : Out := .next (binaryW quotS rd rs1 rs2 s)
def execDivuw (rd rs1 rs2 : XReg) (s : State) : Out := .next (binaryW quotU rd rs1 rs2 s)
def execRemw (rd rs1 rs2 : XReg) (s : State) : Out := .next (binaryW remS rd rs1 rs2 s)
def execRemuw (rd rs1 rs2 : XReg) (s : State) : Out := .next (binaryW remU rd rs1 rs2 s)

/-- Retires without an effect (R172). -/
def noEffect (s : State) : State := insn .none [] (fun s => .ok s.retire) s

def execFence (_fm _pred _succ : BitVec 4) (_rs1 _rd : XReg) (s : State) : Out := .next (noEffect s)
def execFenceTso (_rs1 _rd : XReg) (s : State) : Out := .next (noEffect s)
def execPause (s : State) : Out := .next (noEffect s)
/-- `FENCE.I` (R192). [log 39 DESIGN CHOICE] -/
def execFenceI (_imm : BitVec 12) (_rs1 _rd : XReg) (s : State) : Out := .next (noEffect s)
def execEcall (s : State) : Out := .next (insn .none [] (fun _ => raise 0x02) s)
def execEbreak (s : State) : Out := .next (insn .none [] (fun _ => raise 0x03) s)

/-- A read of one of the three counters (R173, R145); every form that would write raises 0x00. -/
def csrRead (rd : XReg) (csr : BitVec 12) (writes : Bool) (s : State) : State :=
  insn .none [] (fun s =>
    if writes then raise 0x00
    else if csr = 0xC00 then do
      let (w, s) ← s.rerun s.cur 0x07 false s.cycles[(dieOf s.cur.tile).toNat]
      .ok (s.retireX rd w)
    else if csr = 0xC01 then do
      let (w, s) ← s.rerun s.cur 0x07 false s.time
      .ok (s.retireX rd w)
    else if csr = 0xC02 then .ok (s.retireX rd s.me.instret)
    else raise 0x00) s

def execCsrrw (rd _rs1 : XReg) (csr : BitVec 12) (s : State) : Out := .next (csrRead rd csr true s)
def execCsrrs (rd rs1 : XReg) (csr : BitVec 12) (s : State) : Out := .next (csrRead rd csr (rs1 != 0) s)
def execCsrrc (rd rs1 : XReg) (csr : BitVec 12) (s : State) : Out := .next (csrRead rd csr (rs1 != 0) s)
def execCsrrwi (rd : XReg) (_uimm : BitVec 5) (csr : BitVec 12) (s : State) : Out := .next (csrRead rd csr true s)
def execCsrrsi (rd : XReg) (uimm : BitVec 5) (csr : BitVec 12) (s : State) : Out := .next (csrRead rd csr (uimm != 0) s)
def execCsrrci (rd : XReg) (uimm : BitVec 5) (csr : BitVec 12) (s : State) : Out := .next (csrRead rd csr (uimm != 0) s)

end Sys2Proof.Machine
end

