-- ==== Sys2Proof/Machine/TitleMem.lean ====
section
/-! DEFINITION. custom-1, groups 001 to 011: title loads and stores (R229, R230), vector memory (R231 to R233). -/

namespace Sys2Proof.Machine

/-- The checks of R230 on an access of n bytes at offset o under k: the title and the offset as a number. -/
def State.scalarAt (s : State) (v : Slot) (k : KReg) (right : Nat) (o : Int) (n : Nat) : Res (Title × Nat) := do
  let t ← s.allow v k right o n
  let a := o.toNat
  if (t.base.toNat + a) % n ≠ 0 then Res.under t (raiseVa 0x39 (t.base.toNat + a))
  .ok (t, a)

/-- `LDK` of n bytes (R230). -/
def ldk (n : Nat) (signed : Bool) (rd : XReg) (k : KReg) (reads : List XReg) (off : Slot → Int) (s : State) : State :=
  loadInsn reads rd (fun v s => do
    let (t, o) ← s.scalarAt v k rRD (off v) n
    s.edges s.cur [t.region o n] []
    let (bs, s) ← Res.under t (s.titleLoad s.cur t o n)
    .ok (extend n signed bs, s)) s

def ldkImm (n : Nat) (signed : Bool) (rd : XReg) (k : KReg) (imm : BitVec 10) (s : State) : State :=
  ldk n signed rd k [] (fun _ => imm.toInt * n) s

def execLdkB (rd : XReg) (k : KReg) (imm : BitVec 10) (s : State) : Out := .next (ldkImm 1 true rd k imm s)
def execLdkH (rd : XReg) (k : KReg) (imm : BitVec 10) (s : State) : Out := .next (ldkImm 2 true rd k imm s)
def execLdkW (rd : XReg) (k : KReg) (imm : BitVec 10) (s : State) : Out := .next (ldkImm 4 true rd k imm s)
def execLdkD (rd : XReg) (k : KReg) (imm : BitVec 10) (s : State) : Out := .next (ldkImm 8 true rd k imm s)
def execLdkBN (rd : XReg) (k : KReg) (imm : BitVec 10) (s : State) : Out := .next (ldkImm 1 false rd k imm s)
def execLdkHN (rd : XReg) (k : KReg) (imm : BitVec 10) (s : State) : Out := .next (ldkImm 2 false rd k imm s)
def execLdkWN (rd : XReg) (k : KReg) (imm : BitVec 10) (s : State) : Out := .next (ldkImm 4 false rd k imm s)

def execLdkX (rd : XReg) (k : KReg) (rs : XReg) (size : Size) (zero : Bool) (s : State) : Out :=
  .next (ldk size.bytes (!zero) rd k [rs] (fun v => (v.xr rs).toInt * size.bytes) s)

/-- `STK` of n bytes (R230). -/
def stk (n : Nat) (rs : XReg) (k : KReg) (imm : BitVec 10) (s : State) : State :=
  let off : Int := imm.toInt * n
  storeInsn [rs] []
    (fun v s => do
      let (t, o) ← s.scalarAt v k rWR off n
      s.titleProbe s.cur t o .write)
    (fun s => do
      let (t, o) ← s.scalarAt s.me k rWR off n
      s.edges s.cur [] [t.region o n]
      let s' ← Res.under t (s.titleStore s.cur t o (leBytes n (s.me.xr rs).toNat))
      .ok s'.retire) s

def execStkB (rs : XReg) (k : KReg) (imm : BitVec 10) (s : State) : Out := .next (stk 1 rs k imm s)
def execStkH (rs : XReg) (k : KReg) (imm : BitVec 10) (s : State) : Out := .next (stk 2 rs k imm s)
def execStkW (rs : XReg) (k : KReg) (imm : BitVec 10) (s : State) : Out := .next (stk 4 rs k imm s)
def execStkD (rs : XReg) (k : KReg) (imm : BitVec 10) (s : State) : Out := .next (stk 8 rs k imm s)

/-- The slab region of view n under vw0 (R214, R231): STRIDE 0 raises 0x05, a view outside the slab 0x06. -/
def State.memView (s : State) (v : Slot) (n : VReg) : Res Region := do
  let vw := v.vwr 0
  need (vw.stride != 0) 0x05
  s.slabRegion s.cur (vw.viewAt n) 256

/-- What a vector store or an index operand reads: a view of the slab, or vin, with the bytes of its message (R231, R256). STRIDE 0 of vw0
raises 0x05 for a view only: R231 does not say whether it means vin, which vw0 does not locate. -/
inductive VSrc where
  | view (r : Region)
  | vin (bs : List Byte)

/-- The source operand n. [log 70 DESIGN CHOICE] -/
def State.vsrc (s : State) (v : Slot) (n : VReg) : Res VSrc :=
  if n = vin then do
    let bs ← s.vinTake s.cur
    .ok (.vin bs)
  else do
    let r ← s.memView v n
    .ok (.view r)

def VSrc.regions : VSrc → List Region
  | .view r => [r]
  | .vin _ => []

/-- The 256 bytes of an operand. -/
def VSrc.bytes (x : VSrc) (s : State) : List Byte :=
  match x with
  | .view r => r.slabBytes s s.cur.tile
  | .vin bs => bs

/-- vin is popped, once (R176, R231). -/
def VSrc.pop (x : VSrc) (s : State) : State :=
  match x with
  | .view _ => s
  | .vin _ => s.vinPop s.cur

def execVldk (vd : VReg) (k : KReg) (imm : BitVec 10) (s : State) : Out :=
  let off : Int := imm.toInt * 256
  .next (storeInsn [] []
    (fun v s => do
      let t ← s.allow v k rRD off 256
      s.titleProbe s.cur t off.toNat .read)
    (fun s => do
      let r ← s.memView s.me vd
      let t ← s.allow s.me k rRD off 256
      s.edges s.cur [t.region off.toNat 256] [r]
      let (bs, s) ← Res.under t (s.titleLoad s.cur t off.toNat 256)
      .ok (s.store (slabKey s.cur.tile r.lo) bs).retire) s)

def execVstk (vs : VReg) (k : KReg) (imm : BitVec 10) (s : State) : Out :=
  let off : Int := imm.toInt * 256
  .next (storeInsn [] []
    (fun v s => do
      let t ← s.allow v k rWR off 256
      s.titleProbe s.cur t off.toNat .write)
    (fun s => do
      let x ← s.vsrc s.me vs
      let t ← s.allow s.me k rWR off 256
      s.edges s.cur x.regions [t.region off.toNat 256]
      let s' ← Res.under t (s.titleStore s.cur t off.toNat (x.bytes s))
      .ok (x.pop s').retire) s)

/-- The 64 offsets that an index operand gives (R233). -/
def indexOffsets (bs : List Byte) : List Int :=
  (List.range 64).map (fun i => (BitVec.ofNat 32 (leNat ((bs.drop (4 * i)).take 4))).toInt * 4)

/-- R73 over every unit, in order (R233). -/
def State.admitUnits (s : State) (v : Slot) (k : KReg) (right : Nat) : List Int → Res Unit
  | [] => .ok ()
  | o :: os => do
    let _ ← s.allow v k right o 4
    State.admitUnits s v k right os

def State.probeUnits (s : State) (t : Title) (kind : AccKind) : List Int → Res Unit
  | [] => .ok ()
  | o :: os => do
    Res.under t (s.titleProbe s.cur t o.toNat kind)
    State.probeUnits s t kind os

def State.loadUnits (s : State) (t : Title) : List Int → Res (List Byte × State)
  | [] => .ok ([], s)
  | o :: os => do
    let (bs, s) ← Res.under t (s.titleLoad s.cur t o.toNat 4)
    let (rest, s) ← State.loadUnits s t os
    .ok (bs ++ rest, s)

/-- Units are written in increasing order, so the higher of two on one place remains (R233). Where one of them must wait none is written:
a cause raised at the wait finds memory as it was (R123). `s0` is the state before the first. [log 22 DEDUCED] -/
def State.storeUnits (s0 : State) (t : Title) : List Int → List Byte → State → Res State
  | [], _, s => .ok s
  | o :: os, bs, s =>
    match Res.under t (s.titleStore s.cur t o.toNat (bs.take 4)) with
    | .ok s' => State.storeUnits s0 t os (bs.drop 4) s'
    | .error (.trap x) => .error (.trap x)
    | .error (.wait _) => match s0.titleStore s0.cur t o.toNat (bs.take 4) with
      | .error (.wait s') => waitIn s'
      | _ => waitIn s0

def unitRegions (t : Title) (os : List Int) : List Region := os.map (fun o => t.region o.toNat 4)

/-- A scout translates the address of each unit; a fault at one has no effect (R139). -/
def State.scoutEach (s : State) (t : Title) (kind : AccKind) : List Int → Res Unit
  | [] => .ok ()
  | o :: os => match s.titleProbe s.cur t o.toNat kind with
    | .error (.wait s') => waitIn s'
    | _ => State.scoutEach s t kind os

/-- A scouted gather or scatter translates its units (R139). -/
def scoutUnits (k : KReg) (right : Nat) (kind : AccKind) (vi : VReg) (v : Slot) (s : State) : Res Unit := do
  let x ← s.vsrc v vi
  let os := indexOffsets (x.bytes s)
  s.admitUnits v k right os
  let t ← v.title k
  s.scoutEach t kind os

def execVgather (vd : VReg) (k : KReg) (vi : VReg) (s : State) : Out :=
  .next (storeInsn [] [] (scoutUnits k rRD .read vi)
    (fun s => do
      let r ← s.memView s.me vd
      let x ← s.vsrc s.me vi
      s.edges s.cur x.regions []
      let os := indexOffsets (x.bytes s)
      s.admitUnits s.me k rRD os
      let t ← s.me.title k
      s.edges s.cur (x.regions ++ unitRegions t os) [r]
      s.probeUnits t .read os
      let (bs, s) ← s.loadUnits t os
      .ok (x.pop (s.store (slabKey s.cur.tile r.lo) bs)).retire) s)

def execVscatter (vs : VReg) (k : KReg) (vi : VReg) (s : State) : Out :=
  .next (storeInsn [] [] (scoutUnits k rWR .write vi)
    (fun s => do
      let d ← s.vsrc s.me vs
      let x ← s.vsrc s.me vi
      s.edges s.cur (d.regions ++ x.regions) []
      let os := indexOffsets (x.bytes s)
      s.admitUnits s.me k rWR os
      let t ← s.me.title k
      s.edges s.cur (d.regions ++ x.regions) (unitRegions t os)
      s.probeUnits t .write os
      let s' ← s.storeUnits t os (d.bytes s) s
      .ok (if vi = vin then x.pop s' else d.pop s').retire) s)

end Sys2Proof.Machine
end

