-- ==== Sys2Proof/Machine/Translate.lean ====
section
/-! DEFINITION. The ends of page walks (R100, R101, R138 to R141), page tables and invalidation (R96, R102), migration of peer
pages (R103), requests at the base dies, refresh management and budgets (R110, R111, R363), domains (R85). -/

namespace Sys2Proof.Machine

/-! ### Ends of walks -/

/-- A TLB entry is filled; the one filled longest ago leaves a full TLB (R100; log 6). [log 6 DEDUCED] -/
def State.fillTlb (s : State) (cl : BitVec 6) (e : TlbEntry) : State :=
  s.modCluster cl (fun c => { c with tlb := (e :: c.tlb.filter (fun x => !(x.ctx == e.ctx && x.va == e.va && x.size == e.size))).take 4096 })

/-- The x register that the instruction of a slot would write by an access of its own (R138). -/
def loadDest : Instr → Option XReg
  | .lb rd _ _ | .lh rd _ _ | .lw rd _ _ | .ld rd _ _ | .lbu rd _ _ | .lhu rd _ _ | .lwu rd _ _ => some rd
  | .ldkB rd _ _ | .ldkH rd _ _ | .ldkW rd _ _ | .ldkD rd _ _ | .ldkBN rd _ _ | .ldkHN rd _ _ | .ldkWN rd _ _ => some rd
  | .ldkX rd _ _ _ _ => some rd
  | .tsendr rd _ _ => some rd
  | .amoAdd _ rd _ _ | .amoAnd _ rd _ _ | .amoOr _ rd _ _ | .amoXor _ rd _ _ | .amoSwap _ rd _ _ | .amoCas _ rd _ _
  | .amoFadd _ rd _ _ => some rd
  | .amoMin _ _ rd _ _ | .amoMax _ _ rd _ _ | .amoWaitge _ _ rd _ _ => some rd
  | .amoLd _ rd _ => some rd
  | .nbStat rd _ _ | .nbZero rd _ _ | .nbBcast rd _ | .nbRun rd _ | .nbRead rd _ | .nbRcopy rd _ => some rd
  | .vredf _ rd _ _ | .vredi _ rd _ _ | .vdot _ rd _ _ => some rd
  | .vmovx rd _ _ => some rd
  | _ => none

/-- A page joins a scout's list, once, with its W bit (R133, R139). -/
def addPage (pages : List Word) (va : Nat) (write : Bool) : List Word :=
  let page : Word := BitVec.ofNat 64 (va / 4096 * 4096)
  let w : Word := if write then page ||| 1 else page
  match pages.find? (fun p => p &&& ~~~(1#64) == page) with
  | some _ => updateFirst (fun p => p &&& ~~~(1#64) == page) (fun p => p ||| w) pages
  | none => pages ++ [w]

/-- A scout's access has failed in its walk (R139, R140). [log 18 DEDUCED] -/
def State.scoutFails (s : State) (i : SlotId) (w : Walk) (c : BitVec 7) : State :=
  let v := s.slot i
  match v.scout with
  | none => s
  | some sc =>
    let sc := if c = 0x30 then { sc with pages := addPage sc.pages w.va (w.kind == .write) } else sc
    let s := if c = 0x30 then s.modCtx v.ctx (fun x => { x with scoutCount := x.scoutCount + 1 }) else s
    s.setSlot i { v with scout := some { sc with failed := w.va :: sc.failed, ended := sc.ended || w.kind == .fetch || sc.pages.length ≥ 16 } }

/-- A retry record of a job pauses it (R141). -/
def State.pauseJob (s : State) (j : Job) (w : Walk) : State :=
  let s := s.modCtx j.ctx (fun c => { c with tfCount := c.tfCount + 1 })
  let t := w.title.getD (0, 0)
  (s.setJob { j with paused := some s.rings.retrySeq.toNat }).deliver
    { typ := 0, cause := 0x30, ctx := j.ctx, tile := j.tile, core := j.core, slot := j.slot, retry := true, addrKind := 1
      addr := BitVec.ofNat 56 w.va, tindex := t.1, tgen := t.2, time := s.time, info := j.num.setWidth 32 }

/-- What a walk's end means to the one who asked (R101, R138 to R142). A slot or scout that no longer stands at its instruction
takes nothing from it. -/
def State.walkFails (s : State) (w : Walk) (c : BitVec 7) : State :=
  let t := w.title.getD (0, 0)
  let x : TrapInfo := { cause := c, addrKind := 1, addr := BitVec.ofNat 56 w.va, tindex := t.1, tgen := t.2 }
  match w.by_ with
  | .prefetch => s
  | .slot i pc =>
    let v := s.slot i
    if !v.busy ∨ v.ctx ≠ w.ctx ∨ v.pc ≠ pc ∨ v.trap.isSome ∨ v.scout.isSome ∨ v.wait.isSome ∨ v.ending.isSome then s
    else
      let s := if w.kind = .fetch then s.modSlot i (fun u => { u with insn := 0 }) else s
      if c = 0x30 then s.startScout i x (if w.kind = .fetch then none else (decode v.insn).bind loadDest)
      else s.fault i x
  | .scout i pc =>
    match (s.slot i).scout with
    | some sc => if sc.pc = pc then s.scoutFails i w c else s
    | none => s
  | .job tile num =>
    match s.job? tile num with
    | some j => if j.status.toNat ≥ 3 then s else if c = 0x30 then s.pauseJob j w else s.failJob j x
    | none => s

/-- A filled entry: a demand walk sets A in the leaf, another leaves it pending (R101). -/
def Walker.demand : Walker → Bool
  | .slot _ _ | .job _ _ => true
  | .prefetch | .scout _ _ => false

/-- PAGE_WALK_COMPLETE (R100, R101): the walk's reads go by R360, and wait where an entry is held. [log 38 DEDUCED] -/
def execPageWalkComplete (cl : BitVec 6) (i : Nat) (s : State) : Out := .next (
  match (s.cluster cl).walks[i]? with
  | none => s
  | some w =>
    let done := fun (s : State) => s.modCluster cl (fun c => { c with walks := c.walks.eraseIdx i })
    match s.walkBy { die := dieOfCluster cl } w.ctx w.va with
    | .error (.wait s') => s'
    | .error (.trap x) => (done (s.readDone x)).walkFails w x.cause
    | .ok (pte, pa, s) =>
      let s := (done s).fillTlb cl (tlbOf w.ctx w.va pte pa (!w.by_.demand))
      if w.by_.demand then s.setPte pa (pte ||| 0x40) else s)

/-- LINE_CACHE_PREFETCH (R101): a walk of the line cache's own. -/
def execLineCachePrefetch (cl : BitVec 6) (c : BitVec 8) (va : BitVec 56) (s : State) : Out := .next (
  match (s.cluster cl).tlbFind c va.toNat with
  | some _ => s
  | none => s.askWalk cl { ctx := c, va := va.toNat, kind := .read, by_ := .prefetch })

/-! ### Page tables -/

/-- The table of a level on the path to an address, none where the path ends above it (R97). -/
def State.tableAt (s : State) (va level : Nat) : Nat → Nat → Option Nat
  | at_, table =>
    if at_ = level then some table
    else match s.pteAt (table + 8 * levelIndex at_ va) with
      | some (w, _) => if pteV w && !pteLeaf w then match at_ with
          | 0 => none
          | n + 1 => State.tableAt s va level n (pteAddr w)
        else none
      | none => none

/-- A 4 KiB page of HBM as firmware zeroes it for a table (R96). [log 50 DEDUCED] -/
def State.zeroPage (s : State) (pa : Nat) : State :=
  match s.hbm.nowPlace (pa / 4096) with
  | some (x, o) =>
    let k := hbmKey x o 0
    { s with mem := s.mem.filter (fun c => !(k ≤ c.1 && c.1 < k + 4096)), units := s.units.filter (fun e => !(k / 64 ≤ e.1 && e.1 < k / 64 + 64)) }
  | none => s

/-- Whether an entry points to a table below. -/
def pteTable (level : Nat) (w : Word) : Bool := level != 0 && pteV w && !pteLeaf w

/-- The contents of a page of HBM are moved to another one unit by unit for a domain; a bad unit is poisoned there. -/
def State.movePage (s : State) (d : BitVec 10) (src dst : Nat) : Nat → State
  | 0 => s
  | n + 1 => match s.hbm.nowPlace (src / 4096), s.hbm.nowPlace (dst / 4096) with
    | some (x, o), some (y, q) =>
      let k := hbmKey y q (dst % 4096)
      let (bs, bad, s) := s.hbmLoad d (hbmKey x o (src % 4096)) 64
      let s := s.hbmWriteUnit k d bs
      State.movePage (if bad then s.hbmPoisonUnit k else s) d (src + 64) (dst + 64) n
    | _, _ => s

/-- Whether a new leaf vacates a page that a retirement asked for (R359, step 2): the old leaf maps [C', C), the new one a page of the same
size below it. [log 53 DEDUCED] -/
def Hbm.vacates (h : Hbm) (old new : Word) : Bool :=
  h.state == 1 && pteV old && pteLeaf old && pteV new && pteLeaf new && ptePeer old == 0x3FF && ptePeer new == 0x3FF &&
    pteSize old == pteSize new && pteAddr old < h.liveCap.toNat && h.lowered < pteAddr old + leafBytes (pteSize old) &&
    pteAddr new + leafBytes (pteSize new) ≤ h.lowered

/-- PAGE_TABLE_CHANGE (R96, R359): firmware writes the entry of a level for an address; a table that it allocates with this entry is zeroed
first, and the contents of a page that the entry vacates for a retirement are moved. -/
def execPageTableChange (c : BitVec 8) (va : BitVec 56) (level : BitVec 3) (pte : Word) (s : State) : Out := .next (
  match s.tableAt va.toNat level.toNat 4 ((s.ctx c).top.toNat * 4096) with
  | some t =>
    let pa := t + 8 * levelIndex level.toNat va.toNat
    let old := match s.pteAt pa with
      | some (w, _) => w
      | none => 0
    let s := if pteTable level.toNat pte && !pteTable level.toNat old then s.zeroPage (pteAddr pte)
      else if s.hbm.vacates old pte then s.movePage (s.ctx c).domain (pteAddr old) (pteAddr pte) (leafBytes (pteSize pte) / 64)
      else s
    s.setPte pa pte
  | none => s)

/-- Operations under way that translated an address of [lo, hi) of a context when they were issued (R102, R291): vector and matrix
operations, near-bank jobs, atomics, and writes to a peer. -/
def State.usesRange (s : State) (c : BitVec 8) (lo hi : Nat) : Bool :=
  s.tiles.any (fun e => e.2.flight.any (fun f =>
    (f.vm || s.jobs.any (fun j => j.tile.toNat == e.1 && j.ord == f.ord && !j.isMove)) &&
    (f.reads ++ f.writes).any (fun r => r.space == .va c && r.lo < hi && lo < r.hi))) ||
  s.reqs.any (fun r => r.ctx == c && r.state != .refused && (match r.vaRange with
    | some (a, b) => a < hi && lo < b
    | none => false))

/-- Matching TLB entries are dropped in every cluster (R102). -/
def State.dropTlb (s : State) (p : TlbEntry → Bool) : State :=
  { s with clusters := s.clusters.map (fun e => (e.1, { e.2 with tlb := e.2.tlb.filter (fun x => !p x) })) }

/-- An invalidation of a range in every cluster: the matching entries are dropped at once; it is done once every access that translated
through them has completed (R102). -/
def State.invalidate (s : State) (c : BitVec 8) (lo hi : BitVec 56) : State :=
  let s := s.dropTlb (fun e => e.ctx == c && e.va < hi.toNat && lo.toNat < e.va + e.size)
  let rest := s.board.invalidating.filter (fun x => x != (c, lo, hi))
  { s with board := { s.board with invalidating := if s.usesRange c lo.toNat hi.toNat then rest ++ [(c, lo, hi)] else rest } }

/-- TLB_INVALIDATE (R102): the clusters receive the invalidation, or report it done. -/
def execTlbInvalidate (c : BitVec 8) (lo hi : BitVec 56) (s : State) : Out := .next (s.invalidate c lo hi)

/-- MIGRATION_THRESHOLD (R103): the leaf's count has reached 2^(MIGTHR + 4). [log 63 DEDUCED] -/
def execMigrationThreshold (c : BitVec 8) (va : BitVec 56) (s : State) : Out := .next (
  match s.walk c va.toNat with
  | .leaf w pa =>
    let k := firstReplica (leafBytes (pteSize w)) pa
    if pteMode w = 2 ∧ find 0 s.board.migCounts k ≥ 2 ^ (bits w 11 8 + 4) then
      { s with board := { s.board with migrations := s.board.migrations ++ [(c, BitVec.ofNat 56 (va.toNat / leafBytes (pteSize w) * leafBytes (pteSize w)))]
                                       migCounts := drop s.board.migCounts k } }
    else s
  | .cause _ => s)

/-- The entries of the aligned run that a leaf covers at its level (R97). -/
def replicas (size pa : Nat) : List Nat :=
  let n := leafBytes size / 2 ^ (12 + 9 * leafLevel size)
  let first := pa / (8 * n) * (8 * n)
  (List.range n).map (fun i => first + 8 * i)

/-- The step at which a page of a peer is seen at a virtual address of a context: that of the split of a buffer there whose shares are
out, for reads under them return the buffer as it stood then (R115). [log 7 DESIGN CHOICE] -/
def Ctx.seenAt (v : Ctx) (now va : Nat) : Nat :=
  match v.table.find? (fun e => e.2.state != 0 && e.2.shares != 0 && e.2.loc == 3 && e.2.base.toNat ≤ va && va < e.2.base.toNat + 256 * e.2.len.toNat) with
  | some e => e.2.splitAt
  | none => now

/-- A page at address va of context c is copied from peer p to HBM unit by unit, as firmware does for the context's domain; a poisoned unit
stays poisoned. [log 7 DESIGN CHOICE] -/
def State.pageCopy (s : State) (c : BitVec 8) (va : Nat) (p : BitVec 10) (src pa : Nat) : Nat → State
  | 0 => s
  | n + 1 => match s.hbm.nowPlace (pa / 4096) with
    | some (x, o) =>
      let k := hbmKey x o (pa % 4096)
      let now := (s.ctx c).seenAt s.ticks va
      let s' := s.hbmWriteUnit k (s.ctx c).domain (s.peerBytes now p src 64)
      State.pageCopy (if s.peerUnitBad now p src then s'.hbmPoisonUnit k else s') c (va + 64) p (src + 64) (pa + 64) n
    | none => s

/-- The entries of a leaf's run are written. -/
def State.setLeaf (s : State) (size pa : Nat) (w : Word) : State := (replicas size pa).foldl (fun s a => s.setPte a w) s

/-- PAGE_MIGRATE (R103): firmware serves a migration request. Step 1: V is cleared and the page invalidated, and until step 3 accesses
take 0x30; steps 2 and 3, once every access that had translated through it has completed (R102): the page is copied and a local leaf
written. Firmware serves the retry ring with RETRY_COMPLETION. [log 63 DEDUCED] -/
def execPageMigrate (c : BitVec 8) (va : BitVec 56) (ppn : BitVec 36) (s : State) : Out := .next (
  match s.board.migrating.find? (fun m => m.ctx == c && m.va == va) with
  | some m =>
    let n := leafBytes (pteSize m.leaf)
    if s.usesRange c va.toNat (va.toNat + n) then s
    else
      let s : State := { s with board := { s.board with migrating := s.board.migrating.filter (fun x => !(x.ctx == c && x.va == va)) } }
      let s := s.pageCopy c va.toNat (ptePeer m.leaf) (pteAddr m.leaf) (ppn.toNat * 4096) (n / 64)
      let clear : Word := 0x0FFF_FFFF_FFFF_F000
      s.setLeaf (pteSize m.leaf) m.pa ((m.leaf &&& ~~~clear) ||| (0x3FF#64 <<< 48) ||| (ppn.setWidth 64 <<< 12))
  | none => match s.board.migrations.find? (fun m => m.1 == c && m.2 == va), s.walk c va.toNat with
    | some _, .leaf w pa =>
      if ptePeer w = 0x3FF then s
      else
        let s : State := { s with board := { s.board with
          migrations := s.board.migrations.filter (fun m => !(m.1 == c && m.2 == va))
          migrating := s.board.migrating ++ [{ ctx := c, va := va, leaf := w, pa := pa }] } }
        let s := s.setLeaf (pteSize w) pa (w &&& ~~~(1#64 <<< 63))
        s.dropTlb (fun e => e.ctx == c && e.va < va.toNat + leafBytes (pteSize w) && va.toNat < e.va + e.size)
    | _, _ => s)

/-- Every leaf of a context: its address, the leaf (R97). -/
def State.leavesFrom (s : State) : Nat → Nat → Nat → List (Nat × Word)
  | level, table, va =>
    (List.range (if level = 4 then 256 else 512)).flatMap (fun i =>
      let a := va + i * 2 ^ (12 + 9 * level)
      match s.pteAt (table + 8 * i) with
      | some (w, false) =>
        if !pteV w then []
        else if pteLeaf w then (if leafBad level w then [] else [(a, w)])
        else match level with
          | 0 => []
          | n + 1 => State.leavesFrom s n (pteAddr w) a
      | _ => [])

def State.leaves (s : State) (c : BitVec 8) : List (Nat × Word) :=
  if (s.ctx c).en then s.leavesFrom 4 ((s.ctx c).top.toNat * 4096) 0 else []

/-- The pages that a context's tables lie in (R97). -/
def State.tablesFrom (s : State) : Nat → Nat → List Nat
  | level, table =>
    table :: (List.range (if level = 4 then 256 else 512)).flatMap (fun i =>
      match s.pteAt (table + 8 * i) with
      | some (w, false) => if pteV w && !pteLeaf w then match level with
          | 0 => []
          | n + 1 => State.tablesFrom s n (pteAddr w)
        else []
      | _ => [])

/-- The physical 4 KiB granules of local memory that a leaf maps, of those in a range of granules. -/
def leafMeets (w : Word) (lo hi : Nat) : Bool :=
  ptePeer w == 0x3FF && pteAddr w < hi && lo < pteAddr w + leafBytes (pteSize w)

/-- The contexts that exist. -/
def State.liveCtxs (s : State) : List (BitVec 8) := (s.ctxs.filter (fun e => e.2.state != 0)).map (fun e => BitVec.ofNat 8 e.1)

/-! ### Base dies -/

/-- Errors arise in HBM: of a unit, so many of its symbols are in error now (R106). -/
def State.decay (s : State) (pa symbols : Nat) : State := match s.hbm.nowPlace (pa / 4096) with
  | none => s
  | some (x, o) => s.modUnit (hbmKey x o (pa % 4096)) (fun u => { u with symbols := symbols })

/-- The errors that a request finds in HBM, in stored units and in near-bank state (R106, R365). -/
def State.decays (s : State) (how : HbmRead) : State :=
  let s := how.decays.foldl (fun (s : State) e => s.decay e.1 e.2) s
  { s with grans := s.grans.map (fun g => if how.stateErrors.contains g.g then { g with stateBad := true } else g) }

/-- HBM_REQUEST (R105, R106, R363): a line leaves its cache; its write-back carries the MPHASE and the map of its requester, and is
refused where they are stale or the granule is in the window. The units of HBM may be in error by then. [log 6 DEDUCED] -/
def execHbmRequest (cl : BitVec 6) (line : Nat) (phase : Byte) (how : HbmRead) (s0 : State) : Out := .next (
  let s := s0.decays how
  match (s.cluster cl).lines[line]? with
  | none => s
  | some l =>
    let g := l.pa / 16
    let h := s.hbm
    if l.pa ≥ 2 ^ 40 then s.modCluster cl (fun c => { c with lines := c.lines.eraseIdx line })
    else if phase ≠ h.mphase ∨ h.inWindow g ∨ (h.state = 2 ∧ g ≥ h.wmark.toNat ∧ !how.newMap) then s
    else match s.writeLine cl l with
      | .ok (l, s') => s'.dropLine cl l
      | .error (.wait s') => s'
      | .error (.trap _) => s)

/-- The number of a bank in the package (R338). -/
def bankIndex (stack : BitVec 4) (pc : BitVec 6) (bank : BitVec 4) : Nat := stack.toNat * 1024 + pc.toNat * 16 + bank.toNat

/-- RFM_COMMAND (R110, R111): the bank's count has reached the threshold; the domain whose activation brought it there pays RFMCOST
tokens. The command is an ordinary request (R341). [log 54 DEDUCED] -/
def execRfmCommand (stack : BitVec 4) (pc : BitVec 6) (bank : BitVec 4) (d : BitVec 10) (s : State) : Out := .next (
  let b := bankIndex stack pc bank
  if !s.hbm.rfmBy.contains (b, d) ∨ s.hbm.rfm.contains (stack, pc, bank) then s
  else match s.ordinary (pcNo stack pc) { die := BitVec.ofNat 3 (stack.toNat / 2) } (hbmEnd + b) with
  | .error (.wait s') => s'
  | .error (.trap _) => s
  | .ok s =>
    let h := s.hbm
    let k := tokenKey stack d
    { s with hbm := { h with
        actCounts := put h.actCounts b 0, rfmBy := drop h.rfmBy b, rfm := h.rfm ++ [(stack, pc, bank)]
        tokens := if (s.domain d).actRate = 0 then h.tokens else put h.tokens k (s.tokensOf stack d - (s.domain d).rfmCost.toNat) } })

/-- REFRESH_MANAGEMENT_END (R110): the requests held behind the command proceed. -/
def execRefreshManagementEnd (stack : BitVec 4) (pc : BitVec 6) (bank : BitVec 4) (s : State) : Out := .next (
  { s with hbm := { s.hbm with rfm := s.hbm.rfm.filter (fun x => x != (stack, pc, bank)) } })

/-- TOKEN_REFILL (R111): once in a microsecond ACTRATE tokens, up to ACTBURST. [log 54 DEDUCED] -/
def execTokenRefill (stack : BitVec 4) (d : BitVec 10) (s : State) : Out := .next (
  let v := s.domain d
  let k := tokenKey stack d
  let since := find 1000 s.hbm.sinceRefill k
  if v.actRate = 0 ∨ since < 1000 then s
  else
    let m := put s.hbm.tokens k (Nat.min v.actBurst.toNat (s.tokensOf stack d + v.actRate.toNat))
    { s with hbm := { s.hbm with tokens := m, sinceRefill := put s.hbm.sinceRefill k (since - 1000) } })

/-! ### Domains -/

/-- DOMAIN_CREATE (R85): a fresh key in the slot of the domain's number. [log 50 DEDUCED] -/
def execDomainCreate (d : BitVec 10) (s : State) : Out := .next (
  if (s.domain d).live then s else s.modDomain d (fun v => { v with live := true, epoch := v.epoch + 1 }))

/-- DOMAIN_DESTROY (R85): the slot is overwritten with zeros; nothing written before decrypts again. [log 50 DEDUCED] -/
def execDomainDestroy (d : BitVec 10) (s : State) : Out := .next (
  if (s.domain d).live && !s.ctxs.any (fun e => e.2.state != 0 && e.2.domain == d) then
    s.modDomain d (fun v => { v with live := false, epoch := v.epoch + 1 })
  else s)

end Sys2Proof.Machine
end

