-- ==== Sys2Proof/Machine/Messages.lean ====
section
/-! DEFINITION. What becomes of messages in the outbox (R49 to R51, R84, R117, R203, R204, R374), selection and promotion (R52,
R54), remote spawns (R60, R61), watchdogs (R63, R129). -/

namespace Sys2Proof.Machine

/-! ### The outbox -/

/-- The buffer with number n of a tile; an empty one where it is free. -/
def State.buffer (s : State) (t : BitVec 10) (n : Nat) : OutBuf := find {} (s.tile t).outbox n
def State.modBuffer (s : State) (t : BitVec 10) (n : Nat) (f : OutBuf → OutBuf) : State :=
  s.modTile t (fun v => { v with outbox := put v.outbox n (f (find {} v.outbox n)) })

/-- The copy for tile d. -/
def OutBuf.copyFor (b : OutBuf) (d : BitVec 10) : Option Copy := b.copies.find? (fun c => c.tile == d)

/-- An earlier message of the same slot to the same channel of the same tile is still in the outbox (R50, R117). -/
def State.heldBack (s : State) (t : BitVec 10) (b : OutBuf) (d : BitVec 10) (c : BitVec 6) : Bool :=
  (s.tile t).outbox.any (fun e => e.2.msg.src == b.msg.src && e.2.ord < b.ord && e.2.peer == b.peer &&
    e.2.copies.any (fun x => x.tile == d && hdrChan x.hdr == c))

/-- The copy for d has left the buffer; with its last copy the buffer is free (R51, R204). -/
def State.copyGone (s : State) (t : BitVec 10) (n : Nat) (d : BitVec 10) : State :=
  let b := s.buffer t n
  let cs := b.copies.filter (fun c => c.tile != d)
  if cs.isEmpty then s.freeBuffer t n else s.modBuffer t n (fun b => { b with copies := cs })

/-- What a message that is discarded carries goes back: its titles to the sending context (R84), the element of a pool's answer
to its pool (R327). [log 59 DEDUCED] -/
def State.giveBack (s : State) (t : BitVec 10) (b : OutBuf) : State :=
  match b.element with
  | some (p, n, e) => s.returnElem (clusterOf t) p n (dieOf t) e
  | none => s.releaseBack (clusterOf t) b.msg.titles

/-- What a record says of the source of a message. [log 24 DEDUCED] -/
def Msg.source (m : Msg) : FaultRec :=
  match m.src with
  | some i => { tile := i.tile, core := i.core, slot := i.slot, entry := m.entry }
  | none => { tile := hdrTile m.hdr }

/-- A copy counts as offered anew (R50). -/
def OutBuf.reoffered (b : OutBuf) (d : BitVec 10) : OutBuf :=
  { b with copies := b.copies.map (fun x => if x.tile == d then { x with refused := true, sinceOffer := 0, packet := none } else x) }

/-- A copy of a message sets out over the fabric to another die (R18, R22); offered again, it is no duplicate of the first offer. -/
def State.messageCrosses (s : State) (t : BitVec 10) (n : Nat) (b : OutBuf) (c : Copy) (again : Bool) : State :=
  let flow := match b.msg.src with
    | some i => if again then none else some (seqKey 0 c.tile (hdrChan c.hdr) * 8192 + SlotId_num i, hdrSeq c.hdr)
    | none => none
  let (q, s) := s.departs (dieOf t) { dst := dieOf c.tile, flow := flow, bytes := (c.hdr :: b.msg.payload).flatMap (fun w => leBytes 8 w.toNat) }
  s.modBuffer t n (fun b => { b with copies := b.copies.map (fun x => if x.tile == c.tile then { x with packet := q } else x) })

/-- Whether a copy offered to another die has come there; it sets out at its offer, and once more where its packet was lost. [log 55 DEDUCED] -/
def State.copyThere (s : State) (t : BitVec 10) (n : Nat) (b : OutBuf) (c : Copy) (again : Bool) : Bool × State :=
  if dieOf t = dieOf c.tile then (true, s)
  else match c.packet with
    | none => (false, s.messageCrosses t n b c again)
    | some q => match s.legOf (some q) with
      | .home => (true, s.takePacket (some q))
      | .away => (false, s)
      | .lost => (false, s.messageCrosses t n b c true)

/-- What the log of a replaying context has of the answer to a `PTAKE.M` that comes to tile d: a message injected for it already (true),
or one still to be taken there. -/
def State.loggedAnswer (s : State) (d : BitVec 10) (m : Msg) : Option (Bool × List Word) :=
  if !m.host ∨ m.src.isNone ∨ !s.isReplaying m.ctx then none
  else match (s.ctx m.ctx).injected.find? (fun x => x.1 == m.hdr) with
    | some x => some (true, x.2)
    | none => ((slotsOf d).findSome? (fun i => loggedAs m.hdr (s.streamIn m.ctx i))).map (fun l => (false, l.payload ++ l.images))

/-- An answer is the one in the log: its record, and its title but for index and generation. -/
def Msg.isLogged (m : Msg) (ws : List Word) : Bool :=
  m.payload == ws.take 4 && (match m.titles with
    | t :: _ => titleFields (ws.drop 4) == titleFields t.dwords
    | [] => ws.length == 4)

/-- The answer to a `PTAKE.M` in replay, as it comes to its tile (R148, R332): one that is not as logged ends in 0x70, which is deferred since
the instruction has retired; what it carries goes back, as it does where firmware has injected the logged answer already. True where it
goes into its channel. [log 71 DEDUCED] -/
def State.checkAnswer (s : State) (t : BitVec 10) (n : Nat) (b : OutBuf) (d : BitVec 10) (m : Msg) : Bool × State :=
  match s.loggedAnswer d m with
  | none => (true, s)
  | some (done, ws) =>
    let s := if done then s.modCtx m.ctx (fun v => { v with injected := removeFirst (fun x => x.1 == m.hdr) v.injected }) else s
    let same := m.isLogged ws
    if same && !done then (true, s)
    else
      let s := (s.copyGone t n d).giveBack t b
      let w := ws.getD 0 0
      (false, if same then s else s.deferred m.ctx 0x70 { m.source with info := if w.toNat < 2 ^ 32 then w.setWidth 32 else 0 })

/-- MESSAGE_ARRIVE, and MESSAGE_REOFFER once its time has come: the copy for d is offered (R49, R50, R117, R22). One for another die sets
out then, and arrives once its flits have been delivered there (R18). -/
def State.offer (s : State) (t : BitVec 10) (n : Nat) (d : BitVec 10) (again : Bool) : State :=
  let b := s.buffer t n
  match b.copyFor d with
  | none => s
  | some c =>
    let ch := hdrChan c.hdr
    if !b.departed ∨ b.forJob ∨ b.peer ≠ 0x3FF ∨ c.refused ≠ again ∨ s.heldBack t b d ch then s
    else if !s.reach (dieOf t) (dieOf d) then
      (((s.copyGone t n d).giveBack t b).deferred b.msg.ctx 0x59 { b.msg.source with info := chanInfo ch d })
    else
      let m := { b.msg with hdr := c.hdr }
      match s.copyThere t n b c again with
      | (false, s) => s
      | (true, s) => match s.checkAnswer t n b d m with
        | (false, s) => s
        | (true, s) => match s.arriveAt d m with
        | .accepted s' => s'.copyGone t n d
        | .refused => s.modBuffer t n (fun b => b.reoffered d)
        | .gone s' =>
          if b.element.isSome then match s.arriveAt d { m with titles := [] } with
            | .gone s' => (s'.copyGone t n d).giveBack t b
            | _ => s
          else s'.copyGone t n d

/-- MESSAGE_ARRIVE (R49). -/
def execMessageArrive (src : BitVec 10) (buf : Nat) (dst : BitVec 10) (s : State) : Out := .next (s.offer src buf dst false)

/-- MESSAGE_REOFFER (R50): every 256 cycles; what a peer answers comes through the gateway. -/
def execMessageReoffer (src : BitVec 10) (buf : Nat) (dst : BitVec 10) (s : State) : Out := .next (
  let b := s.buffer src buf
  match b.copyFor dst with
  | some c =>
    if c.sinceOffer < 256 then s
    else if b.peer = 0x3FF then s.offer src buf dst true
    else if c.refused then s.modBuffer src buf (fun b => b.reoffered dst) else s
  | none => s)

/-- MESSAGE_DISCARD (R50): refused for 2,000,000 cycles; 0x50 against the receiving context, which a peer records of its own. [log 26 DEDUCED] -/
def execMessageDiscard (src : BitVec 10) (buf : Nat) (dst : BitVec 10) (s : State) : Out := .next (
  let b := s.buffer src buf
  match b.copyFor dst with
  | none => s
  | some c =>
    if !c.refused ∨ c.sinceRefusal < 2000000 then s
    else
      let ch := hdrChan c.hdr
      let owner := match (s.tile dst).owner ch with
        | some e => e.ctx
        | none => b.msg.ctx
      let s' := (s.copyGone src buf dst).giveBack src b
      if b.peer = 0x3FF then s'.deferred owner 0x50 { b.msg.source with info := chanInfo ch dst } else s')

/-- OUTBOX_GRANT (R51): a free buffer goes to the slot that has waited longest. [log 15 DEDUCED] -/
def execOutboxGrant (tile : BitVec 10) (s : State) : Out := .next (
  match (s.tile tile).outWaiters with
  | [] => s
  | w :: ws => if s.outFree tile = 0 then s
    else (s.modTile tile (fun t => { t with outWaiters := ws })).modSlot ⟨tile, w.1, w.2⟩ (fun v => { v with granted := true }))

/-- POST_DEPART (R117, R203): everything that the message awaits is performed. -/
def execPostDepart (tile : BitVec 10) (buf : Nat) (s : State) : Out := .next (
  let b := s.buffer tile buf
  if b.departed ∨ b.forJob ∨ s.anyPending tile b.waits then s else s.modBuffer tile buf (fun b => { b with departed := true }))

/-! ### Selection -/

def execSelection (tile : BitVec 10) (core : Bool) (s : State) : Out := .next ((s.select tile core).getD s)

/-- AGE_PROMOTION (R52): AGE would count to 4096. [log 28 DEDUCED] -/
def execAgePromotion (tile : BitVec 10) (entry : BitVec 6) (s : State) : Out := .next (
  if (s.entry tile entry).age = 4095 ∧ s.runnable tile entry then
    s.modEntry tile entry (fun e => { e with age := 0, eprio := if e.eprio = 7 then 7 else e.eprio + 1 })
  else s)

/-! ### Remote spawns -/

/-- The logged outcome that a replayed `RSPAWN` is forced to (R148). -/
def State.spawnForced (s : State) (r : Req) : Option Bool :=
  if s.isReplaying r.ctx then match s.replayNext r.src with
    | some e => if e.kind = 0x08 then some (e.value == 1) else none
    | none => none
  else none

/-- Whether the target accepts a spawn (R60), beyond the entry and the bounds: a free slot, no runnable entry of the class, outbox
and slab. -/
def State.spawnSlot (s : State) (t : BitVec 10) (n : BitVec 6) : Option SlotId :=
  let e := s.entry t n
  let rival := (List.range 64).any (fun j =>
    let k := BitVec.ofNat 6 j
    (s.entry t k).cclass == e.cclass && s.runnable t k)
  if rival || !s.roomFor t e then none else s.freeSlot t e.cclass

/-- An accepted child starts (R60); in replay its L starts from the serial that its own entries have in the log (R162). -/
def State.startChild (s : State) (i : SlotId) (n : BitVec 6) (pc : Word) (r : Req) (args : List Word) : State :=
  let s' := s.startFiring i n pc 0 (r.src.tile.setWidth 64) args false
  match s.isReplaying r.ctx, s.streamIn r.ctx i with
  | true, e :: _ =>
    let k := if e.kind = 0x01 then e.serial - 1 else e.serial
    s'.modSlot i (fun v => { v with lfsr := lfsrSeed (s.ctx r.ctx).rseed k i })
  | _, _ => s'

/-- RSPAWN_REQUEST (R60): the answer is 1 or 0, or the cause of an entry of another context or a PC out of bounds. [log 17 DEDUCED] -/
def execRspawnRequest (id : Nat) (s : State) : Out := .next (
  match s.req? id with
  | none => s
  | some r => match r.kind, r.home with
    | .spawn n pc args, .tile t =>
      if r.state ≠ .sent then s
      else match s.landed r with
        | (false, s) => s
        | (true, s) =>
          let answer := fun (s : State) (w : Word) => s.reply r w .none
          let e := s.entry t n
          if !e.valid then answer s 0
          else if e.ctx ≠ r.ctx then answer s 0x53
          else if !(pc.toNat % 4 == 0 && e.holds pc) then answer s 0x52
          else match s.spawnSlot t n with
            | some i => answer (s.startChild i n pc r args) 1
            | none => answer s 0
    | _, _ => s)

/-- RSPAWN_REPLY (R60, R61): the caller goes on, or runs the child inline; a decline where the log has 1 raises 0x70 (R198). -/
def execRspawnReply (id : Nat) (s : State) : Out := .next (
  match s.req? id with
  | none => s
  | some r => match r.kind, r.state with
    | .spawn n pc args, .replied w _ =>
      let i := r.src
      let info := match r.home with
        | .tile t => chanInfo n t
        | _ => 0
      let rd := r.rd.getD 0
      let (here, s) := s.landed r
      if !here then s
      else if (s.slot i).wait ≠ some (.reply id) then s.dropReq id
      else if s.isRecording r.ctx && (s.tile i.tile).stagingFull then s
      else
        let s1 := (s.dropReq id).modSlot i (fun v => { v with wait := none })
        let s := s1
        if w = 0x53 then s.fault i { cause := 0x53 }
        else if w = 0x52 then s.fault i { cause := 0x52, info := info }
        else
          let forced := s.spawnForced r
          let s := if forced.isSome then s.replayPop i else s.log i 0x08 w
          if w = 1 then s.modSlot i (fun v => (v.setX rd 1).retire)
          else if forced = some true then s1.fault i { cause := 0x70, info := 1 }
          else match inlineRun s i rd pc args info with
            | .ok s' => s'
            | .error (.trap x) => s.fault i x
            | .error (.wait s') => s'
    | _, _ => s)

/-! ### Watchdogs -/

/-- An access under a title by one address: its register, its offset, its length, whether it stores (R230, R232). -/
def titleAccess (v : Slot) : Instr → Option (KReg × Int × Nat × Bool)
  | .ldkB _ k o | .ldkBN _ k o => some (k, o.toInt, 1, false)
  | .ldkH _ k o | .ldkHN _ k o => some (k, o.toInt * 2, 2, false)
  | .ldkW _ k o | .ldkWN _ k o => some (k, o.toInt * 4, 4, false)
  | .ldkD _ k o => some (k, o.toInt * 8, 8, false)
  | .ldkX _ k rs z _ => some (k, (v.xr rs).toInt * z.bytes, z.bytes, false)
  | .stkB _ k o => some (k, o.toInt, 1, true)
  | .stkH _ k o => some (k, o.toInt * 2, 2, true)
  | .stkW _ k o => some (k, o.toInt * 4, 4, true)
  | .stkD _ k o => some (k, o.toInt * 8, 8, true)
  | .view _ k rs => some (k, (v.xr rs).toNat, 32, false)
  | .vldk _ k o => some (k, o.toInt * 256, 256, false)
  | .vstk _ k o => some (k, o.toInt * 256, 256, true)
  | _ => none

/-- The slab region of an operand view, or none. -/
def State.viewRegion (s : State) (v : Slot) (n : VReg) : List Region := match s.vsrc v n with
  | .ok x => x.regions
  | .error _ => []

/-- The regions of a gather's or scatter's units. -/
def State.indexed (s : State) (v : Slot) (k : KReg) (vi : VReg) : List Region := match s.vsrc v vi with
  | .ok x => unitRegions (v.kr k).img (indexOffsets (x.bytes s))
  | .error _ => []

/-- The regions that the instruction of slot i reads and writes, as its edges of R113 name them. -/
def State.accessOf (s : State) (i : SlotId) (ins : Instr) : List Region × List Region :=
  let v := s.slot i
  match ins, titleAccess v ins with
  | .vldk vd .., some (k, o, n, _) => ([(v.kr k).img.region o.toNat n], s.viewRegion v vd)
  | .vstk vs .., some (k, o, n, _) => (s.viewRegion v vs, [(v.kr k).img.region o.toNat n])
  | _, some (k, o, n, store) =>
    let r := [(v.kr k).img.region o.toNat n]
    if store then ([], r) else (r, [])
  | .sendv _ vs, none => (s.viewRegion v vs, [])
  | .vgather vd k vi, none => (s.viewRegion v vi ++ s.indexed v k vi, s.viewRegion v vd)
  | .vscatter vs k vi, none => (s.viewRegion v vs ++ s.viewRegion v vi, s.indexed v k vi)
  | _, none => match (fmtOf (v.vwr 0).fmt).bind (fun f => (vshape f ins).map (fun h => s.vregions i h f (v.vwr 0))) with
    | some (.ok r) => r
    | some (.error _) => ([], [])
    | none =>
      let p := mplan v.vw ins
      match s.planRegions i (p.a.toList ++ p.b.toList ++ p.sa.toList ++ p.sb.toList), s.planRegions i p.w with
      | .ok rs, .ok ws => (rs, ws)
      | _, _ => ([], [])

/-- An engine instruction, which waits for a job place (R236). -/
def isEngine : Instr → Bool
  | .mvCopy .. | .mvGet .. | .mvPut .. | .mvXfer .. | .mvFill .. | .mv2D .. | .mvSlab ..
  | .nbBcast .. | .nbRun .. | .nbRead .. | .nbRcopy .. | .nbZero .. => true
  | _ => false

/-- Whether slot i, at its instruction, waits for job j of its core (R57, R58, R74, R79, R113, R191, R210, R236, R349, R357). [log 47 DEDUCED] -/
def State.awaits (s : State) (i : SlotId) (j : Job) : Bool :=
  let v := s.slot i
  let own := j.slot == i.slot
  let entry := fun (p : Flight → Bool) => (s.tile i.tile).flight.any (fun f => f.ord == j.ord && p f)
  let under := fun (k : KReg) => (v.kr k).img.kind != 0 &&
    [j.imgS, j.imgD].any (fun t => t.kind != 0 && t.ctx == (v.kr k).img.ctx && t.index == (v.kr k).img.index)
  let named := fun (rs : XReg) => match readBlock s i (v.xr rs) 0 with
    | .ok b => b.regs.any under
    | .error _ => false
  match decode v.insn with
  | some (.waitj _ rs) => own && (v.xr rs).toNat == j.num.toNat && v.known.contains j.num
  | some .exit => entry (fun f => f.holdsExit i)
  | some (.exitS _) => own && j.chainId == v.chainId && (s.ctxOf i).state == 2
  | some (.tsend k _) | some (.tsendShort k _ _) | some (.tsendr _ k _) | some (.tfree k _) | some (.tjoin _ k) | some (.pinsK _ _ k) =>
    own && under k
  | some (.tsplit _ k _) | some (.tnarrow _ k _) => own && under k && entry (fun f => meetsAny f.writes [(v.kr k).img.region 0 (v.kr k).img.bytes])
  | some (.send _ rs) | some (.post _ rs) => own && named rs
  | some (.semV _) => own && ((j.far && j.imgS.loc.toNat < 2) || entry (fun f => f.writes.any (fun r => match r.space with
      | .va _ | .core _ _ => false
      | .slab _ | .tile _ | .cluster _ => true)))
  | some (.nbOpen k rs) => own && entry (fun f => meetsAny (f.reads ++ f.writes) [(v.kr k).img.region (v.xr rs).toNat 4096])
  | some (.nbClose k _) => own && j.onGranule && under k
  | some ins =>
    if isEngine ins then own && s.placesUsed i ≥ 16
    else
      let r := s.accessOf i ins
      entry (fun f => f.blocks i.core r.1 r.2)
  | none => false

/-- Whether slot i waits, at its instruction, for a job that is paused: one of its own, or one of its core that an edge makes it wait for
(R113, R141). [log 47 DEDUCED] -/
def State.pausedWait (s : State) (i : SlotId) : Bool :=
  s.jobs.any (fun j => j.tile == i.tile && j.core == i.core && j.paused.isSome && j.status.toNat < 3 &&
    (if (s.slot i).ending.isSome then j.isOf i (s.slot i).chainId else s.awaits i j))

/-- Slot i waits for the answer of a take at a shard whose engine is paused (R141). [log 47 DEDUCED] -/
def State.pausedTake (s : State) (i : SlotId) : Bool := match (s.slot i).wait with
  | some (.reply id) => s.reqs.any (fun r => r.id == id && s.poolLives r && (match r.poolNo with
    | some p => (s.shard p (dieOf i.tile)).paused.isSome
    | none => false))
  | _ => false

/-- The watchdog of slot i stands still (R63, R141, R377). [log 47 DEDUCED] -/
def State.watchStopped (s : State) (i : SlotId) : Bool :=
  let v := s.slot i
  let served := match v.wait with
    | some (.retry _) => true
    | _ => false
  served || v.scout.isSome || v.trap.isSome || s.pausedWait i || s.pausedTake i

/-- The watchdog of slot i has reached its limit. A firing that is ending counts on while it waits for its jobs (R308). -/
def State.watchOut (s : State) (i : SlotId) : Bool :=
  let v := s.slot i
  v.busy && !v.wdogOver && !s.watchStopped i && v.wdog ≥ (s.entryOf i).wdog.toNat

/-- The `RSPAWN` of slot i has been accepted and its reply is on its way, or the copy of its `TSENDR` has been placed: it completes before
the watchdog can act on it, since an instruction at which 0x56 is raised has had no effect (R194, R218, R249). [log 62 DEDUCED] -/
def State.effective (s : State) (i : SlotId) : Bool := (s.placedOf i).isSome || match (s.slot i).wait with
  | some (.reply id) => s.reqs.any (fun r => r.id == id && r.isSpawn && r.state == .replied 1 .none)
  | _ => false

/-- WATCHDOG_EXPIRY (R63): 0x56 precisely at the instruction issuing or waiting. -/
def execWatchdogExpiry (i : SlotId) (s : State) : Out := .next (
  let v := s.slot i
  if s.watchOut i && v.ending.isNone && !v.wdogTaken && !v.handler && !s.effective i then s.fault i { cause := 0x56 } else s)

/-- WATCHDOG_SECOND_EXPIRY (R63, R129): 0x57, and the firing is abandoned; one that is ending already goes on ending (R308). [log 47 DEDUCED] -/
def execWatchdogSecondExpiry (i : SlotId) (s : State) : Out := .next (
  let v := s.slot i
  if s.watchOut i && (v.wdogTaken || v.handler || v.ending.isSome) && (s.placedOf i).isNone then
    let s := s.leaveQueues i
    (s.setSlot i { (s.slot i).startEnding (v.ending.getD .abandon) with wdogOver := true }).deliver (s.recordOf i { cause := 0x57 })
  else s)

end Sys2Proof.Machine
end

