-- ==== Sys2Proof/Machine/Reporting.lean ====
section
/-! DEFINITION. Events of the fault machinery: trap entry (R377), hardware errors (R131), the reporting port and its rings (R134 to
R136), completions of retry records (R137, R141), the end of a scout (R140), the rerun log's way to memory (R147). -/

namespace Sys2Proof.Machine

/-- TRAP_ENTRY (R125, R377): the replies are in; the frame is written, or found unusable (R143, cause 0x73). -/
def execTrapEntry (i : SlotId) (s : State) : Out := .next (
  let v := s.slot i
  match v.trap with
  | none => s
  | some r =>
    if v.anyDue then s
    else if s.frameBad i then
      (s.setSlot i (v.startEnding .abandon)).deliver { r with cause := 0x73, typ := 0, retry := false }
    else s.enterTrap i r)

/-- HARDWARE_ERROR (R131): 0x75 against the context whose state is hit, terminal. -/
def execHardwareError (ctx : BitVec 8) (i : SlotId) (s : State) : Out := .next (
  s.deliver { typ := 2, cause := 0x75, ctx := ctx, tile := i.tile, core := i.core, slot := i.slot, entry := (s.slot i).entry,
              time := s.time })

/-! ### The reporting port -/

/-- The queues of the port. -/
inductive Ring where
  | retry | terminal | function
  deriving DecidableEq, Repr

/-- Whose grant the next one is, of a round of 8 (R136). [log 36 DEDUCED] -/
def Rings.turn (r : Rings) : Ring := if r.grant.toNat < 4 then .retry else if r.grant.toNat < 6 then .terminal else .function

/-- Some function's queue holds a record. -/
def State.funcPending (s : State) : Bool := s.funcs.any (fun e => !e.2.queue.isEmpty)

def State.ringPending (s : State) : Ring → Bool
  | .retry => !s.rings.retryQ.isEmpty
  | .terminal => !s.rings.termQ.isEmpty
  | .function => s.funcPending

/-- The queues in order from one on (R136). [log 36 DEDUCED] -/
def Ring.order : Ring → List Ring
  | .retry => [.retry, .terminal, .function]
  | .terminal => [.terminal, .function, .retry]
  | .function => [.function, .retry, .terminal]

/-- The function whose turn it is, round-robin (R136). -/
def State.nextFunc (s : State) : Option (BitVec 5) :=
  ((List.range 32).map (fun n => BitVec.ofNat 5 (s.rings.lastFunc + 1 + n))).find? (fun f => !(s.func f).queue.isEmpty)

/-- A record with its continuations counts so many grants (R136). [log 36 DEDUCED] -/
def State.useGrants (s : State) (r : FaultRec) : State :=
  { s with rings := { s.rings with grant := s.rings.grant + BitVec.ofNat 3 (1 + r.conts) } }

/-- Drops are counted up to 0xFFFF_FFFF (R135). -/
def Func.dropRecs (v : Func) (n : Nat) : Func := { v with drops := BitVec.ofNat 32 (Nat.min 0xFFFFFFFF (v.drops.toNat + n)) }

/-- The double words of a record as the ring numbers it (R132, R133). -/
def FaultRec.ringWords (r : FaultRec) (n : Nat) : List Word := if n = 0 then r.primary else r.cont (n - 1)

/-- A record is written to a function's ring in host memory, or dropped and counted (R135). [log 36 DEDUCED] -/
def State.writeFunc (s : State) (f : BitVec 5) (r : FaultRec) : State :=
  let v := s.func f
  let n := 1 + r.conts
  if !v.frEn ∨ (v.frTail - v.frHead).toNat + n > 2 ^ v.frLog.toNat then s.modFunc f (fun v => v.dropRecs n)
  else
    let r := { r with seq := v.frSeq }
    let place := fun (k : Nat) => hostKey (v.frBase.toNat + (v.frTail.toNat + k) % 2 ^ v.frLog.toNat * 64)
    let s := (List.range n).foldl (fun s k => s.store (place k) (wordsBytes (r.ringWords k))) s
    s.modFunc f (fun v => { v with frTail := v.frTail + BitVec.ofNat 32 n, frSeq := v.frSeq + 1 })

/-- RECORD_GRANT (R134 to R136): one record, with its continuations, leaves the queue whose grant it is, or the next one that holds a
record. [log 36 DEDUCED] -/
def execRecordGrant (s : State) : Out := .next (
  match s.rings.turn.order.find? s.ringPending with
  | none => s
  | some .retry => match s.rings.retryQ with
    | r :: q => ({ s with rings := { s.rings with retryQ := q, retry := s.rings.retry ++ [r] } } : State).useGrants r
    | [] => s
  | some .terminal => match s.rings.termQ with
    | r :: q =>
      let full := s.rings.term.length ≥ 4096
      let kept := if full then s.rings else
        { s.rings with term := s.rings.term ++ [{ r with seq := s.rings.termSeq }], termSeq := s.rings.termSeq + 1 }
      ({ s with rings := { kept with termQ := q, termDrops := s.rings.termDrops + b2n full } } : State).useGrants r
    | [] => s
  | some .function => match s.nextFunc with
    | none => s
    | some f => match (s.func f).queue with
      | r :: q =>
        let s := (s.modFunc f (fun v => { v with queue := q })).writeFunc f r
        ({ s with rings := { s.rings with lastFunc := f.toNat } } : State).useGrants r
      | [] => s)

/-- FRCTL_EN (R135): a change from 0 to 1 sets FRHEAD and FRTAIL to 0; the numbers of the records (R132) go on. [log 66 DESIGN CHOICE] -/
def execFrctlEn (f : BitVec 5) (en : Bool) (s : State) : Out := .next (s.modFunc f (fun v => v.setFrEn en))

/-- FRSTAT_DROPS (R135): a write of any value sets DROPS to 0. -/
def execFrstatDrops (f : BitVec 5) (s : State) : Out := .next (s.modFunc f (fun v => { v with drops := 0 }))

/-! ### Completions -/

/-- The retry record with a number whose completion names slot i (R137). -/
def State.retryRecord (s : State) (i : SlotId) (seq : BitVec 16) : Option FaultRec :=
  s.rings.retry.find? (fun r => r.seq == seq && r.tile == i.tile && r.core == i.core && r.slot == i.slot)

/-- A record answered leaves the retry ring. -/
def State.served (s : State) (i : SlotId) (seq : BitVec 16) : State :=
  { s with rings := { s.rings with
      retry := s.rings.retry.filter (fun r => !(r.seq == seq && r.tile == i.tile && r.core == i.core && r.slot == i.slot)) } }

/-- The job of slot i that a record paused (R141). -/
def State.pausedJob (s : State) (i : SlotId) (seq : BitVec 16) : Option Job :=
  s.jobs.find? (fun j => j.src == i && j.paused == some seq.toNat && j.status.toNat < 3)

/-- RETRY_COMPLETION (R137, R141): the slot executes its instruction again, the job goes on; for an ended firing nothing. -/
def execRetryCompletion (i : SlotId) (seq : BitVec 16) (s : State) : Out := .next (
  match s.retryRecord i seq with
  | none => s
  | some _ =>
    let s := s.served i seq
    if (s.slot i).wait = some (.retry seq) then s.modSlot i (fun v => { v with wait := none })
    else match s.pausedJob i seq with
      | some j => s.setJob { j with paused := none }
      | none => match s.pausedShard seq with
        | some (p, d) => s.modShard p d (fun h => { h with paused := none })
        | none => s)

/-- REFUSE_COMPLETION (R137, R141): the slot takes the trap with RETRY 0; a job ends with FAULT, and 0x30 is recorded where the chain
that issued it has ended, or when that ends without having met the refusal. [log 48 DEDUCED] -/
def execRefuseCompletion (i : SlotId) (seq : BitVec 16) (s : State) : Out := .next (
  match s.retryRecord i seq with
  | none => s
  | some r =>
    let s := s.served i seq
    if (s.slot i).wait = some (.retry seq) then
      (s.modSlot i (fun v => { v with wait := none })).takeFault i { r with retry := false, seq := 0 }
    else match s.pausedJob i seq with
      | some j =>
        let told : FaultRec := { tile := j.tile, core := j.core, slot := j.slot, entry := j.entry, addrKind := r.addrKind, addr := r.addr,
                                 tindex := r.tindex, tgen := r.tgen, info := j.num.setWidth 32 }
        let x := { j with paused := none, deferred := some (0x30, r.addr.toNat), data := [] }
        if s.chainLives j then s.setJob { x with untold := some told } else (s.setJob x).deferred j.ctx 0x30 told
      | none => match s.pausedShard seq with
        | some (p, d) => s.refuseShard p d
        | none => s)

/-- SCOUT_END (R140). -/
def execScoutEnd (i : SlotId) (s : State) : Out := .next (
  match (s.slot i).scout with
  | some sc => if sc.ended then s.endScout i else s
  | none => s)

/-! ### The rerun log -/

/-- The first staged entry that may go to the log: its value is known, and so is that of every earlier entry of its slot (R146). -/
def drainable : List (Bool × BitVec 2) → List (BitVec 8 × LogEntry) → Option (BitVec 8 × LogEntry)
  | _, [] => none
  | held, e :: es =>
    let k := (e.2.core, e.2.slot)
    if held.contains k then drainable held es
    else if e.2.due.isSome then drainable (k :: held) es
    else some e

/-- LOG_DRAIN (R147): one entry leaves the staging area; a full log title ends the recording with 0x71. -/
def execLogDrain (tile : BitVec 10) (s : State) : Out := .next (
  match drainable [] (s.tile tile).staging with
  | none => s
  | some (c, e) =>
    let s := s.modTile tile (fun t => { t with staging := removeFirst (fun x => x == (c, e)) t.staging })
    let v := s.ctx c
    if v.logStopped then s
    else if v.log.length < v.logCap then s.modCtx c (fun v => { v with log := v.log ++ [e] })
    else (s.modCtx c (fun v => { v with logStopped := true })).deferred c 0x71
      { tile := tile, core := e.core, slot := e.slot,
        entry := if (s.slot ⟨tile, e.core, e.slot⟩).serial = e.serial then (s.slot ⟨tile, e.core, e.slot⟩).entry else 0 })

end Sys2Proof.Machine
end

