-- ==== Sys2Proof/Machine/JobEvents.lean ====
section
/-! DEFINITION. The steps of engine and near-bank jobs as events (R237 to R239, R341, R348). -/

namespace Sys2Proof.Machine

/-- JOB_START (R237, R348, R352): a queued job whose edges permit starts. `NB.READ` has read at its start, `NB.ZERO` has nothing to read. [log 48 DEDUCED] -/
def execJobStart (tile : BitVec 10) (num : BitVec 16) (s : State) : Out := .next (
  match s.job? tile num with
  | none => s
  | some j =>
    if !s.jobReady j ∨ j.deferred.isSome then s
    else match j.kind with
      | .run => s.startRun j
      | .read => s.readNb j
      | .xfer => s.startXfer j
      | .zero => s.setJob { j with status := 2, data := cutChunks j.card.dstoff (List.replicate 4096 0) [] }
      | _ => s.setJob { j with status := 1 })

/-- JOB_OPERANDS_CONSUMED (R238): the last read of a running job. [log 48 DEDUCED] -/
def execJobOperandsConsumed (tile : BitVec 10) (num : BitVec 16) (s : State) : Out := .next (
  match s.job? tile num with
  | none => s
  | some j =>
    if j.status ≠ 1 ∨ j.paused.isSome ∨ j.deferred.isSome ∨ j.kind = .run then s
    else if j.isMove then
      let (s, j, p) := s.readJob j
      match p with
      | .all => (s.setJob { j with status := 2 }).consumeFlight j
      | .waits => s.setJob j
      | .stops x => (s.setJob j).failJob j x
    else s.readNb j)

/-- JOB_DONE (R238, R239): the writes of a job are performed, and it is final. [log 48 DEDUCED] -/
def execJobDone (tile : BitVec 10) (num : BitVec 16) (s : State) : Out := .next (
  match s.job? tile num with
  | none => s
  | some j =>
    if j.status.toNat ≥ 3 ∨ j.paused.isSome ∨ (j.status ≠ 2 ∧ j.deferred.isNone) then s
    else if j.isMove then s.doneMove j
    else s.doneNb j)

/-- The ordinary requests queued at a pseudo-channel. -/
def Hbm.queued (h : Hbm) (pc : Nat) : List (Nat × BitVec 3 × Nat) := h.waiting.filter (fun w => w.1 == pc)

/-- An open arbitration window serves the queued requests in arrival order, 64 at most (R341). -/
def State.serveWindow (s : State) (g : Gran) : State :=
  let now := (s.hbm.queued g.pc).take (64 - g.served)
  let s : State := { s with hbm := { s.hbm with
    waiting := s.hbm.waiting.filter (fun w => !now.contains w), granted := s.hbm.granted ++ now.map Prod.snd } }
  s.modGran g.g (fun x => { x with suspended := true, served := g.served + now.length })

/-- A running microprogram gives way (R341): at a row boundary, where it has come to one since it last resumed, with requests queued. -/
def State.givesWay (s : State) (g : Gran) : Bool := !g.rowOpen && g.ran && !(s.hbm.queued g.pc).isEmpty

/-- ARBITRATION_WINDOW (R341): the microprogram of a running job is suspended at a row boundary and the window opens, or the open window
serves requests that have arrived. -/
def execArbitrationWindow (tile : BitVec 10) (num : BitVec 16) (s : State) : Out := .next (
  match s.job? tile num with
  | none => s
  | some j =>
    if j.kind = .run ∧ j.status = 1 then match j.gran.bind s.granOf with
      | some g =>
        if g.suspended then (if (s.hbm.queued g.pc).isEmpty then s else s.serveWindow g)
        else if s.givesWay g then s.serveWindow { g with served := 0 } else s
      | none => s
    else s)

/-- The turn of a running microprogram (R340, R341, R364): what holds it, or an arbitration window due or open, takes the turn (none);
a suspended one resumes where the window's queue is empty or it has served 64; else its next micro-instruction is due. -/
def State.microTurn (s : State) (tile : BitVec 10) (num : BitVec 16) : Bool × State :=
  let s : State := { s with curJob := some (tile, num) }
  match s.runningMicro with
  | some (j, g) =>
    if s.microHeld j g then (false, s)
    else if g.suspended then
      if (s.hbm.queued g.pc).isEmpty ∨ g.served ≥ 64 then
        (true, s.modGran g.g (fun x => { x with suspended := false, served := 0, ran := false }))
      else (false, s.serveWindow g)
    else if s.givesWay g then (false, s.serveWindow { g with served := 0 })
    else (true, s)
  | none => (true, s)

end Sys2Proof.Machine
end

