-- ==== Sys2Proof/Machine/Retire.lean ====
section
/-! DEFINITION. Retiring a stack (R359 to R366, R378). -/

namespace Sys2Proof.Machine

/-- The next request that can be served starts; one for a stack that is not live, or the last one, is refused (R359). -/
def State.startNext (s : State) : State :=
  let h := s.hbm
  match h.requests.dropWhile (fun x => !h.canRetire x) with
  | [] => { s with hbm := { h with requests := [] } }
  | x :: xs => { s with hbm := Hbm.startRetire { h with requests := xs } x }

/-- RETIRE_REQUEST: one retirement at a time; a later request waits for its end. -/
def execRetireRequest (stack : BitVec 4) (s : State) : Out := .next ({ s with hbm := s.hbm.retire stack })

/-- SHRINK_CONFIRM: step 2. -/
def execShrinkConfirm (s : State) : Out := .next (
  if s.hbm.state = 1 then { s with hbm := { s.hbm with confirmed := true } } else s)

/-- SHRINK_TIMEOUT (R378): 0 waits without limit. -/
def execShrinkTimeout (s : State) : Out := .next (
  let h := s.hbm
  if h.state = 1 ∧ !h.confirmed ∧ h.shrinkTimeoutMs ≠ 0 ∧ h.sinceRequest ≥ h.shrinkTimeoutMs.toNat * 1000000 then
    { s with hbm := { h with confirmed := true, timedOut := true } }
  else s)

/-- The local pages of a context that leaves map into physical [lo, hi), once each (R378). -/
def State.pagesIn (s : State) (c : BitVec 8) (lo hi : Nat) : List Nat :=
  (((s.leaves c).filter (fun e => leafMeets e.2 lo hi)).map (fun e => pteAddr e.2)).eraseDups

/-- Step 3's records: deferred 0x3B for every context and page that still reaches [C', C) after the timeout (R378). -/
def State.recordLost (s : State) (lo hi : Nat) : State :=
  s.liveCtxs.foldl (fun s c => (s.pagesIn c lo hi).foldl (fun s pa =>
    s.deferred c 0x3B { addrKind := 2, addr := BitVec.ofNat 56 pa }) s) s

/-- A translation that reaches physical addresses at or above C'. -/
def TlbEntry.above (e : TlbEntry) (c : Nat) : Bool := e.peer == 0x3FF && e.pa < hbmEnd && c < e.pa + e.size

/-- The vector and matrix operations under way on a tile. -/
def Tile.unitOps (t : Tile) : List UnitOp := t.vxu.running.toList ++ t.mxu.running.toList ++ t.mxu.queue

/-- The invalidations of step 3 (R102, R359): the entries that reach addresses at or above C' are dropped, and their ranges awaited. [log 53 DEDUCED] -/
def State.leaveAbove (s : State) (c : Nat) : State :=
  let es := (s.clusters.flatMap (fun e => e.2.tlb.filter (fun x => x.above c))).map (fun x => (x.ctx, x.va, x.va + x.size))
  let s := s.dropTlb (fun e => e.above c)
  { s with hbm := { s.hbm with leaving := (s.hbm.leaving ++ es).eraseDups } }

/-- An operation that translated through a dropped entry is under way (R102), or one whose list was translated so (R291). -/
def State.usesAbove (s : State) (c : Nat) : Bool :=
  s.tiles.any (fun e => e.2.unitOps.any (fun o => o.list.any (fun l => l.pages.any (fun x => x.above c)))) ||
  s.hbm.leaving.any (fun x => s.usesRange x.1 x.2.1 x.2.2)

/-- LIVECAP_LOWER: steps 3 and 4 (R359): the invalidation first, and once it is done in every cluster the new LIVECAP. [log 53 DEDUCED] -/
def execLivecapLower (s0 : State) : Out := .next (
  let h := s0.hbm
  let c := h.lowered
  if h.state ≠ 1 ∨ !h.confirmed then s0
  else
    let s := s0.leaveAbove c
    if s.usesAbove c then s
    else
    let s := if h.timedOut then s.recordLost c h.liveCap.toNat else s
    let s : State := { s with clusters := s.clusters.map (fun e =>
      (e.1, { e.2 with lines := e.2.lines.filter (fun l => l.pa * 256 < c || l.pa ≥ 2 ^ 40 || l.pa * 256 ≥ hbmEnd) })) }
    { s with hbm := { s.hbm with liveCap := BitVec.ofNat 40 c, wmark := BitVec.ofNat 36 (c / 4096), mphase := h.mphase + 1, state := 2, leaving := [] } })

/-! ### Foehn -/

/-- The cells of a list that lie in [lo, lo + n), moved by the distance to `to`. -/
def shiftCells (m : List Host.Cell) (lo n dst : Nat) : List Host.Cell :=
  (m.filter (fun c => lo ≤ c.1 && c.1 < lo + n)).map (fun c => (c.1 - lo + dst, c.2))

/-- Memory with the n bytes at `dst` replaced by those at `lo`, in canonical form. -/
def Memory_copy (m : List Host.Cell) (lo n dst : Nat) : List Host.Cell :=
  (shiftCells m lo n dst).foldl (fun m c => Memory_put m c.1 c.2) (m.filter (fun c => !(dst ≤ c.1 && c.1 < dst + n)))

/-- A unit as Foehn writes it (R365): what was correctable is corrected, what was not is poisoned. -/
def Unit64.moved (u : Unit64) : Unit64 := { u with poison := u.bad, symbols := 0 }

/-- A granule's bytes, ciphertext unchanged, and the poison of its units move through ECC from one location to another (R361, R365). -/
def State.copyGranule (s0 : State) (src dst : BitVec 4 × Nat) : State :=
  let a := hbmKey src.1 src.2 0
  let b := hbmKey dst.1 dst.2 0
  let s := s0.eccCount a 4096
  let moved := (s.units.filter (fun e => a / 64 ≤ e.1 && e.1 < a / 64 + 64)).map (fun e => (e.1 - a / 64 + b / 64, e.2.moved))
  { s with mem := Memory_copy s.mem a 4096 b, units := s.units.filter (fun e => !(b / 64 ≤ e.1 && e.1 < b / 64 + 64)) ++ moved }

/-- Parked waits on objects of a moved granule: they follow it within a stack; a home that moves to another starts with an empty
park list, and the wait is answered not-parked (R248, R363). [log 44 DEDUCED] -/
def State.moveParks (s : State) (src dst : BitVec 4 × Nat) : State :=
  let a := hbmKey src.1 src.2 0
  let b := hbmKey dst.1 dst.2 0
  let hs := s.home (.stack src.1)
  let hit := fun (p : Parked) => a ≤ p.key && p.key < a + 4096
  if src.1 = dst.1 then
    s.setHome { hs with parks := hs.parks.map (fun p => if hit p then { p with key := p.key - a + b } else p) }
  else
    let s := s.setHome { hs with parks := hs.parks.filter (fun p => !hit p) }
    (hs.parks.filter hit).foldl (fun s p => s.answerPark p (fun r => s.refusePark r) .notParked) s

/-- Whether a context's protected state lies in a granule: its fault save area of 8192 frames, the start of its save area, its page
tables (R365). [log 37 DESIGN CHOICE, 53 DEDUCED] -/
def State.protectsIn (s : State) (c : BitVec 8) (g : Nat) : Bool :=
  let v := s.ctx c
  let lo := g * 4096
  (v.faultArea.toNat < lo + 4096 && lo < v.faultArea.toNat + 8192 * 1024) || v.saveArea.toNat / 4096 == g ||
    (v.en && (s.tablesFrom 4 (v.top.toNat * 4096)).any (fun t => t / 4096 == g))

/-- R365's records for a granule with an uncorrectable unit. [log 24 DEDUCED, 53 DEDUCED] -/
def State.recordBad (s : State) (g : Nat) : State :=
  s.liveCtxs.foldl (fun s c =>
    let r : FaultRec := { addrKind := 2, addr := BitVec.ofNat 56 (g * 4096) }
    if s.protectsIn c g then s.deferred c 0x75 r
    else if (s.leaves c).any (fun e => leafMeets e.2 (g * 4096) (g * 4096 + 4096)) then s.deferred c 0x3F r
    else s) s

/-- An uncorrectable error in the state that Foehn moves with an opened granule (R365): the job that runs on it ends with status FAULT, and
0x75 is recorded. [log 71 DEDUCED] -/
def State.stateLost (s : State) (x : Gran) : State :=
  let r : TrapInfo := { cause := 0x75, addrKind := 2, addr := BitVec.ofNat 56 (x.g * 4096) }
  match s.jobs.find? (fun j => j.onGranule && j.status == 1 && j.gran == some x.g) with
  | some j => s.nbStop j r
  | none => s.deferred x.ctx 0x75 { addrKind := 2, addr := r.addr }

/-- The state of an opened granule moves with it, and a job that runs on it reaches its new base die (R340, R364). -/
def State.moveState (s0 : State) (g : Nat) (b : BitVec 4 × Nat) : State :=
  match s0.granOf g with
  | none => s0
  | some x =>
    let s := s0.modGran g (fun x => { x with stack := b.1, off := b.2, byOpen := false, stateBad := false })
    let s := (State.fresh { s with jobs := s.jobs.map (fun j => if j.gran == some g then { j with reached := s.nextId } else j) })
    if x.stateBad then s.stateLost x else s

/-- Granule g moves from its old to its new place, with the near-bank state of an opened one (R361, R364). -/
def State.moveGranule (s : State) (g : Nat) : State :=
  match s.hbm.oldPlace g, s.hbm.newPlace g with
  | some a, some b => if a = b then s else ((s.copyGranule a b).moveParks a b).moveState g b
  | _, _ => s

/-- Foehn has written a poisoned unit in granule g (R365). -/
def State.movedBad (s : State) (g : Nat) : Bool :=
  match s.hbm.oldPlace g, s.hbm.newPlace g with
  | some a, some b => a != b && s.hbmPoison (hbmKey b.1 b.2 0) 4096
  | _, _ => false

/-- The granules of a step, in descending order. -/
def stepGranules (m : Nat) : List Nat := (List.range (Nat.min 512 m)).map (fun j => m - 1 - j)

/-- The pseudo-channels that a step reads and writes. -/
def Hbm.stepChannels (h : Hbm) (m : Nat) : List Nat :=
  ((stepGranules m).flatMap (fun g => match h.oldPlace g, h.newPlace g with
    | some a, some b => if a = b then [] else [pcNo a.1 (pcOf a.2), pcNo b.1 (pcOf b.2)]
    | _, _ => [])).eraseDups

/-- Foehn's own ordinary request at a pseudo-channel, under an address that no memory has (R341). -/
def foehnAsks (pc : Nat) : BitVec 3 × Nat := (BitVec.ofNat 3 (pc / 128), 2 ^ 48 + pc)

/-- FOEHN_STEP (R361, R364): a microprogram in the window reaches a row boundary first; where one runs in a pseudo-channel that the step
uses, an arbitration window serves Foehn (R341). -/
def execFoehnStep (s : State) : Out := .next (
  let h := s.hbm
  let m := h.wmark.toNat
  if h.state ≠ 2 ∨ m = 0 ∨ s.grans.any (fun x => x.rowOpen && h.inWindow x.g) then s
  else
    let pcs := h.stepChannels m
    let due := pcs.filter (fun pc => s.microOn pc && !h.granted.contains (foehnAsks pc))
    if !due.isEmpty then
      { s with hbm := { h with waiting := h.waiting ++ (due.map (fun pc => (pc, foehnAsks pc))).filter (fun w => !h.waiting.contains w) } }
    else
    let mine := pcs.map foehnAsks
    let s : State := { s with hbm := { h with waiting := h.waiting.filter (fun w => !mine.contains w.2)
                                              granted := h.granted.filter (fun w => !mine.contains w) } }
    let s := (stepGranules m).foldl State.moveGranule s
    let s : State := { s with hbm := { s.hbm with wmark := BitVec.ofNat 36 (m - 512) } }
    ((stepGranules m).filter s.movedBad).foldl State.recordBad s)

/-- RETIRE_COMPLETE: step 6, and the next request (R359). [log 53 DEDUCED] -/
def execRetireComplete (s : State) : Out := .next (
  let h := s.hbm
  if h.state ≠ 2 ∨ h.wmark ≠ 0 then s
  else
    State.startNext { s with hbm := { h with
      liveMask := h.liveMask &&& ~~~(1#16 <<< h.target.toNat), mphase := h.mphase + 1, state := 0 } })

end Sys2Proof.Machine
end

