-- ==== Sys2Proof/Machine/Gateway.lean ====
section
/-! DEFINITION. The Virane gateway and its ports (R31 to R34, R78, R118, R119), and the supervisor queues (R65). -/

namespace Sys2Proof.Machine

/-- With no live port, remote requests and messages end in 0x59 at their sender (R34); a byte copy is given up. [log 43 DEDUCED] -/
def State.dropRemote (s : State) : State :=
  let away := fun (r : Req) => match r.home with
    | .peer _ => true
    | _ => false
  let s := (s.reqs.filter away).foldl (fun (s : State) r =>
    if r.placed then s else if r.isCopy then s.dropCopy r else s.giveUp r) s
  s.tiles.foldl (fun (s : State) e =>
    let t := BitVec.ofNat 10 e.1
    (e.2.outbox.filter (fun b => b.2.peer != 0x3FF && !b.2.forJob)).foldl (fun (s : State) b =>
      ((s.freeBuffer t b.1).releaseBack (clusterOf t) b.2.msg.titles).deferred b.2.msg.ctx 0x59
        { b.2.msg.source with peer := b.2.peer, info := chanInfo (hdrChan b.2.msg.hdr) ((b.2.copies.map Copy.tile).headD 0) }) s) s

/-- What went through a failed port and is not acknowledged is sent again through the port that its flow takes now, in its order; an
atomic as a replay, so that its home does not perform it twice (R34, R119). [log 67 DEDUCED] -/
def State.rehash (s : State) (port : BitVec 4) : State :=
  { s with
    reqs := s.reqs.map (fun r => match r.home with
      | .peer p => if r.port = some port then { r with port := s.portOf p r.src.tile 0, replay := r.replay || r.isAmo } else r
      | _ => r)
    tiles := s.tiles.map (fun e => (e.1, { e.2 with outbox := e.2.outbox.map (fun b =>
      if b.2.port = some port then (b.1, { b.2 with port := s.portOf b.2.peer (BitVec.ofNat 10 e.1) (hdrChan b.2.msg.hdr) }) else b) })) }

/-- A port is no longer live at the gateway instance of its die (R31). -/
def Gateway.loses (g : Gateway) (port : BitVec 4) : Gateway :=
  { g with ports := g.ports.set (dieOfPort port).toNat (g.ports[(dieOfPort port).toNat] &&& ~~~(1#2 <<< (port.toNat % 2))) }

/-- PORT_FAILURE (R34): the flows of the port go over those that are left. -/
def execPortFailure (port : BitVec 4) (s : State) : Out := .next (
  let s : State := { s with gateway := s.gateway.loses port }
  if s.livePorts = [] then s.dropRemote else s.rehash port)

/-- The place of a flow in the gateway's table: source accelerator and slot, destination tile and channel (R118, R186). [log 42 DESIGN CHOICE] -/
def flowKey (accel : BitVec 10) (flow : BitVec 13) (tile : BitVec 10) (chan : BitVec 6) : Nat :=
  ((accel.toNat * 8192 + flow.toNat) * 1024 + tile.toNat) * 64 + chan.toNat

/-- The header with its source peer in this package's numbering (R33). -/
def rewriteSource (h : Word) (p : BitVec 10) : Word :=
  header (hdrKind h) (hdrChan h) (hdrTile h) p (hdrLen h) (hdrNt h) (hdrKey h) (hdrSeq h)

/-- What became of a message from a peer: taken, gone (diverted, discarded, without room), or refused for the time being. -/
inductive PeerResult where
  | took (s : State)
  | gone (s : State)
  | refused

/-- The context that a message from a peer is for. [log 26 DEDUCED] -/
def State.receiver (s : State) (tile : BitVec 10) (ch : BitVec 6) : BitVec 8 := match (s.tile tile).owner ch with
  | some e => e.ctx
  | none => 0

/-- A message from a peer arrives (R49, R65). A record about a message that is diverted or discarded is its sender's. [log 34 DEDUCED] -/
def State.peerMessage (s : State) (accel : BitVec 10) (h : Word) (tile : BitVec 10) (payload : List Word) (world : Bool) (ts : List Title) :
    PeerResult :=
  let m : Msg := { hdr := rewriteSource h (peerNumber s.board.accelId accel), titles := ts, payload := payload,
                   ctx := s.receiver tile (hdrChan h), world := world }
  match s.arriveAt tile m with
  | .accepted s' => .took s'
  | .gone s' => .gone { s with board := s'.board }
  | .refused => .refused

/-- Where a virtual address of a context lies here, as the loader or the gateway finds it in the tables; none where its page is not mapped
here. -/
def State.localPa (s : State) (c : BitVec 8) (va : Nat) : Option Nat := match s.walk c va with
  | .leaf w _ => if ptePeer w = 0x3FF then some (pteAddr w + va % leafBytes (pteSize w)) else none
  | .cause _ => none

/-- Bytes with their addresses of a context where they lie here; none where a page is not mapped here. -/
def State.localPieces (s : State) (c : BitVec 8) : List (Nat × List Byte) → Option (List (Nat × List Byte))
  | [] => some []
  | (va, bs) :: ps => do
    let pa ← s.localPa c va
    let rest ← State.localPieces s c ps
    some ((pa, bs) :: rest)

/-- Bytes from an address on, unit by unit. -/
def unitsAt (va : Nat) (bs : List Byte) : List (Nat × List Byte) := cutBytes (pieces (bs.length / 64 + 2) va bs.length) bs

/-- Bytes written from an address of a context on by the loader, where they lie now (R189); none where a page is not mapped here. -/
def State.vaWrite (s : State) (c : BitVec 8) (d : BitVec 10) (va : Nat) (bs : List Byte) : Option State :=
  (s.localPieces c (unitsAt va bs)).bind (fun ps => ps.foldlM (fun s x =>
    if x.1 ≥ hbmEnd then some (s.paStore x.1 x.2)
    else (s.hbm.nowPlace (x.1 / 4096)).map (fun p =>
      let w := x.1 % 64
      let k := hbmKey p.1 p.2 (x.1 % 4096)
      if x.2.length = 64 then s.hbmWriteUnit k d x.2
      else (s.hbmMasked (k - w) d (List.replicate w 0 ++ x.2) (fun i => w ≤ i && i < w + x.2.length)).1)) s)

/-- The keys of the pieces of a peer's write, HBM's after a request each: all are requested before the first is written. -/
def State.peerKeys (s : State) (a : Asker) (d : BitVec 10) : List Nat → Res (List Nat × State)
  | [] => .ok ([], s)
  | pa :: ps => do
    let (k, s) ← if pa ≥ hbmEnd then Except.ok (paKey pa, s) else s.request a d pa
    let (ks, s) ← State.peerKeys s a d ps
    .ok (k :: ks, s)

/-- One piece of a peer's write at its key (R106 to R108): a poisoned write poisons its unit. -/
def State.peerPiece (s : State) (d : BitVec 10) (bad : Bool) (k pa : Nat) (bs : List Byte) : State :=
  let w := pa % 64
  if bad then s.hbmPoisonUnit (k - w)
  else if pa ≥ hbmEnd then s.paStore pa bs
  else if bs.length = 64 then s.hbmWriteUnit k d bs
  else (s.hbmMasked (k - w) d (List.replicate w 0 ++ bs) (fun i => w ≤ i && i < w + bs.length)).1

/-- The bytes of a copy from a peer are written under the fresh title u, unit by unit, the units listed in `bad` poisoned (R108). -/
def State.putPeerCopy (s : State) (a : Asker) (u : Title) (bytes : List Byte) (bad : List Nat) : Res State :=
  match s.localPieces u.ctx (unitsAt u.base.toNat (bytes ++ List.replicate (u.bytes - bytes.length) 0)) with
  | none => raise 0x30
  | some ps => do
    let (ks, s) ← s.peerKeys a u.domain (ps.map Prod.fst)
    .ok (((List.range ps.length).zip (ks.zip ps)).foldl (fun s x => s.peerPiece u.domain (bad.contains x.1) x.2.1 x.2.2.1 x.2.2.2) s)

/-- A title from a peer comes as a byte copy (R78, R226): storage in the HBM landing arena of the channel's context, the bytes, and the
message with the fresh WHOLE. Without room it is gone; while memory keeps its bytes waiting it is left to the peer. [log 42 DESIGN CHOICE] -/
def State.peerCopy (s : State) (accel : BitVec 10) (h : Word) (tile : BitVec 10) (payload : List Word) (world : Bool) (rights : BitVec 5)
    (bytes : List Byte) (bad : List Nat) : PeerResult :=
  match (s.tile tile).owner (hdrChan h) with
  | none => .gone s
  | some e =>
    let d : Dest := { peer := 0x3FF, tile := tile, chan := hdrChan h, ctx := e.ctx }
    match (s.landingArena d false).bind (fun ta => s.allotBlocks ⟨tile, false, 0⟩ ta ((bytes.length + 255) / 256)) with
    | none => .gone s
    | some (u, s1) => match s1.putPeerCopy { die := dieOf tile } u bytes bad with
      | .error (.trap _) => .gone s
      | .error (.wait _) => .refused
      | .ok s2 =>
        let u := { u with rights := rights &&& 0b11010 }
        let s3 := s2.modTte u.ctx u.index (fun x => { x with state := 2, rights := u.rights, ownTile := 0, ownCore := false, ownSlot := 0 })
        match s3.peerMessage accel h tile payload world [u] with
        | .took s4 => .took s4
        | .gone s4 => .gone { s with board := s4.board }
        | .refused => .refused

/-- A peer has discarded a message after 2,000,000 cycles of refusals here (R50): 0x50 against the receiving context. Where the channel has
no owner any more it is charged to context 0: the sender's is not here. [log 34 DEDUCED, 70 DESIGN CHOICE] -/
def State.peerDiscard (s : State) (accel : BitVec 10) (h : Word) (tile : BitVec 10) : State :=
  s.deferred (s.receiver tile (hdrChan h)) 0x50
    { tile := hdrTile h, peer := peerNumber s.board.accelId accel, info := chanInfo (hdrChan h) tile }

/-! ### The order of a flow (R32, R118) -/

/-- The flow and the sequence number of what a peer sends in order. -/
def orderOf (accel : BitVec 10) : PeerTxn → Option (Nat × BitVec 20)
  | .message flow h tile _ _ => some (flowKey accel flow tile (hdrChan h), hdrSeq h)
  | .copy flow h tile _ _ _ _ _ => some (flowKey accel flow tile (hdrChan h), hdrSeq h)
  | .discarded flow h tile => some (flowKey accel flow tile (hdrChan h), hdrSeq h)
  | _ => none

/-- What is done with a transaction in its turn. -/
def State.inTurnTxn (s : State) (accel : BitVec 10) : PeerTxn → PeerResult
  | .message _ h tile payload world => s.peerMessage accel h tile payload world []
  | .copy _ h tile payload world rights bytes bad => s.peerCopy accel h tile payload world rights bytes bad
  | .discarded _ h tile => .took (s.peerDiscard accel h tile)
  | _ => .gone s

/-- The flow's next sequence number is q + 1. -/
def State.passSeq (s : State) (k : Nat) (q : BitVec 20) : State :=
  { s with gateway := { s.gateway with expected := put s.gateway.expected k (q + 1).toNat } }

/-- Transactions that waited for earlier ones of their flow have their turn, one after another; one that is refused is left to the
peer, which sends it again. -/
def State.drainFlow : Nat → Nat → State → State
  | 0, _, s => s
  | f + 1, k, s =>
    let next := fun (e : EarlyTxn) => match orderOf e.accel e.txn with
      | some (k', q) => k' == k && q.toNat == find 0 s.gateway.expected k
      | none => false
    match s.gateway.early.find? next with
    | none => s
    | some e =>
      let s : State := { s with gateway := { s.gateway with early := s.gateway.early.filter (fun x => x != e) } }
      match s.inTurnTxn e.accel e.txn, orderOf e.accel e.txn with
      | .took s', some (k', q) => State.drainFlow f k (s'.passSeq k' q)
      | .gone s', some (k', q) => State.drainFlow f k (s'.passSeq k' q)
      | _, _ => s

/-- What a peer sends in order: the next of its flow has its turn, one that comes early waits in the gateway, a duplicate is dropped
(R32, R34, R118). [log 42 DESIGN CHOICE] -/
def State.orderedTxn (s : State) (accel : BitVec 10) (t : PeerTxn) (k : Nat) (q : BitVec 20) : State :=
  let n := find 0 s.gateway.expected k
  let drain := fun (s : State) => State.drainFlow s.gateway.early.length k (s.passSeq k q)
  if q.toNat = n then match s.inTurnTxn accel t with
    | .took s' => drain s'
    | .gone s' => drain s'
    | .refused => s
  else if (q - BitVec.ofNat 20 n).toNat < 2 ^ 19 ∧ !s.gateway.early.contains ⟨accel, t⟩ then
    { s with gateway := { s.gateway with early := s.gateway.early ++ [⟨accel, t⟩] } }
  else s

/-! ### Memory here, and answers -/

/-- An answer goes to a peer: for the source and sequence number of an atomic, 0 else. [log 42 DESIGN CHOICE] -/
def State.answerPeer (s : State) (source : Nat) (seq : BitVec 20) (a : PeerAnswer) : State :=
  { s with gateway := { s.gateway with answers := (source, seq, a) :: s.gateway.answers } }

/-- What a request of a peer comes to: while memory here keeps it, it stays at its port with none of its effect and is taken again; an
address that is withdrawn, or on a die that the gateway's die does not reach, is answered so. [log 42 DESIGN CHOICE] -/
def State.peerEnds (s : State) (source : Nat) (seq : BitVec 20) (r : Res (PeerAnswer × State)) : State := match r with
  | .ok (a, s) => s.answerPeer source seq a
  | .error (.wait _) => s
  | .error (.trap _) => s.answerPeer source seq .withdrawn

/-- A peer's write of memory here (R32, R85, R107, R108). -/
def State.peerStore (s : State) (a : Asker) (d : BitVec 10) (bad : Bool) (ps : List (Nat × List Byte)) : Res (PeerAnswer × State) := do
  let (ks, s) ← s.peerKeys a d (ps.map Prod.fst)
  .ok (.written, (ks.zip ps).foldl (fun s x => s.peerPiece d bad x.1 x.2.1 x.2.2) s)

/-- A peer's read of memory here, with the poison indication (R32, R106). -/
def State.peerRead (s : State) (a : Asker) (d : BitVec 10) (pa n : Nat) : Res (PeerAnswer × State) :=
  if pa ≥ hbmEnd then .ok (.data (s.paLoad pa n).1 (s.paLoad pa n).2, s)
  else do
    let (bs, bad, s) ← s.directLoad a d (pieces (n / 64 + 2) pa n)
    .ok (.data bs bad, s)

/-- What the home's answer is to a peer. -/
def Answer.toPeer : Answer → PeerAnswer
  | .result w m => .result w m
  | .parked => .parked
  | .notParked => .notParked

/-- The source of a peer's atomics in the replay filters. [log 42 DESIGN CHOICE] -/
def peerSource (accel : BitVec 10) (flow : BitVec 13) : Nat := (accel.toNat + 1) * 8192 + flow.toNat

/-- A peer's atomic at its home here (R116, R118, R119). -/
def State.peerAtomic (s : State) (a : Asker) (source : Nat) (op : BitVec 4) (n : Bool) (pa : Nat) (arg cmp : Word) (d : BitVec 10)
    (seq : BitVec 20) (replay : Bool) : Res (PeerAnswer × State) := do
  let (k, s) ← s.request a d pa
  let (r, s) := s.atHome (.stack (BitVec.ofNat 4 (k / 2 ^ 36))) d k source seq replay op n arg cmp s.nextId
  .ok (r.toPeer, s.fresh)

/-- The answer to a request of this package to peer p. -/
def State.peerAnswer (s : State) (p : BitVec 10) (id : Nat) (f : Req → State) : State :=
  match s.req? id with
  | some r => if r.home == .peer p && (r.state == .sent || r.state == .parked) then f r else s
  | none => s

/-- The answer to a message of this package to peer p: f acts on its tile and buffer. -/
def State.messageAnswer (s : State) (p : BitVec 10) (id : Nat) (f : State → BitVec 10 → Nat → OutBuf → State) : State :=
  s.tiles.foldl (fun (s : State) e =>
    (e.2.outbox.filter (fun b => b.2.ord == id && b.2.peer == p && b.2.departed && !b.2.forJob)).foldl
      (fun (s : State) b => f s (BitVec.ofNat 10 e.1) b.1 b.2) s) s

/-- A message of this package to a peer is lost there: its titles go back, and the sender's context takes the cause (R65, R84, R374). [log 34 DEDUCED] -/
def State.messageLost (s : State) (p : BitVec 10) (id : Nat) (d : BitVec 10) (cause : BitVec 7) : State :=
  s.messageAnswer p id (fun s t n b =>
    ((s.copyGone t n d).giveBack t b).deferred b.msg.ctx cause
      { b.msg.source with peer := p, info := chanInfo (hdrChan b.msg.hdr) d })

/-- Whether the port at which a transaction arrives admits its world (R87). -/
def txnWorld : PeerTxn → Bool
  | .message _ _ _ _ w => w
  | .copy _ _ _ _ w _ _ _ => w
  | .read _ _ _ w => w
  | .write _ _ _ _ w => w
  | .atomic _ _ _ _ _ _ w _ _ _ => w
  | _ => false

/-- What the gateway does with a transaction from peer p. [log 42 DESIGN CHOICE] -/
def State.gatewayTake (s : State) (port : BitVec 4) (accel p : BitVec 10) (t : PeerTxn) : State :=
  let a : Asker := { die := dieOfPort port }
  match t with
  | .message flow h tile _ _ => s.orderedTxn accel t (flowKey accel flow tile (hdrChan h)) (hdrSeq h)
  | .copy flow h tile _ _ _ _ _ => s.orderedTxn accel t (flowKey accel flow tile (hdrChan h)) (hdrSeq h)
  | .discarded flow h tile => s.orderedTxn accel t (flowKey accel flow tile (hdrChan h)) (hdrSeq h)
  | .ack id =>
    match s.req? id with
    | some _ => s.peerAnswer p id (fun r => match r.kind with
      | .remoteWrite .. => (s.dropReq id).sweepLate
      | .titleCopy _ _ _ bad => s.modReq id (fun q => { q with state := .replied (if bad then 5 else 3) .none })
      | _ => s)
    | none => s.messageAnswer p id (fun s t n _ => s.freeBuffer t n)
  | .refused id d => s.messageAnswer p id (fun s t n _ => s.modBuffer t n (fun b => b.reoffered d))
  | .diverted id d => s.messageLost p id d 0x51
  | .unowned id d => s.messageLost p id d 0x58
  | .noRoom id => s.peerAnswer p id (fun r => if r.isCopy then s.modReq id (fun q => { q with state := .replied 4 .none }) else s)
  | .read pa n d world => if s.regionWorld pa.toNat ≠ world then s else s.peerEnds 0 0 (s.peerRead a d pa.toNat n)
  | .write pa bytes bad d world =>
    let ps := cutBytes (pieces (bytes.length / 64 + 2) pa.toNat bytes.length) bytes
    if s.regionWorld pa.toNat ≠ world then s else s.peerEnds 0 0 (s.peerStore a d bad ps)
  | .atomic op n pa arg cmp d world flow seq replay =>
    if s.regionWorld pa.toNat ≠ world ∨ pa.toNat ≥ hbmEnd ∨ pa.toNat % 8 ≠ 0 then s
    else s.peerEnds (peerSource accel flow) seq (s.peerAtomic a (peerSource accel flow) op n pa.toNat arg cmp d seq replay)
  | .atomicReply id value poison indet => s.peerAnswer p id (fun r =>
      if r.isAmo then s.modReq id (fun q => { q with
        state := .replied value (if indet then .indet else if poison then .poison else .none) }) else s)
  | .atomicParked id => s.peerAnswer p id (fun r => if r.isAmo then s.modReq id (fun q => { q with state := .parked }) else s)
  | .atomicNotParked id => s.peerAnswer p id (fun r =>
      if r.isAmo then s.refusePark r else s)

/-- GATEWAY_RECEIVE (R31 to R33): at a live port of a gateway instance. [log 42 DESIGN CHOICE] -/
def execGatewayReceive (via : PortPeer) (t : PeerTxn) (s : State) : Out := .next (
  if via.accel = s.board.accelId ∨ !s.portLive via.port ∨ !s.unitAdmits (.port via.port) (txnWorld t) then s
  else s.gatewayTake via.port via.accel (peerNumber s.board.accelId via.accel) t)

/-- SUPERVISOR_QUEUE_DRAIN (R65): Iluson takes the diverted messages of a world. -/
def execSupervisorQueueDrain (world : Bool) (s : State) : Out := .next (
  { s with board := { s.board with superQ := put s.board.superQ (b2n world) [] } })

end Sys2Proof.Machine
end

