-- ==== Sys2Proof/Machine/Contexts.lean ====
section
/-! DEFINITION. Contexts as firmware makes and ends them (R44, R45, R71, R92, R96, R148), graphs as the loader places them (R46, R48,
R53, R72, R189, R209, R250, R251, R282, R283, R335, R369), and context switches (R64). -/

namespace Sys2Proof.Machine

/-! ### Creation and end -/

/-- A log entry from its two double words (R146). -/
def logEntryOf (e : Word × Word) : LogEntry :=
  { kind := e.1.extractLsb' 56 8, tile := e.1.extractLsb' 46 10, core := e.1.getLsbD 45, slot := e.1.extractLsb' 43 2
    serial := e.1.setWidth 32, value := e.2 }

/-- Whether firmware creates the context (R44, R45, R71, R85, R88, R148). [log 50 DEDUCED] -/
def State.createOk (s : State) (r : CtxRequest) : Bool :=
  s.board.ready && (s.ctx r.ctx).state == 0 && r.rerun != 3 && (s.domain r.domain).live &&
  s.ctxs.all (fun e => e.2.state == 0 || e.2.domain != r.domain || e.2.world == r.world) &&
  r.saveArea.toNat % 4096 == 0 && r.faultArea.toNat % 4096 == 0 && 2 ^ 10 ≤ r.tableSize && r.tableSize ≤ 2 ^ 20 &&
  (r.rerun != 2 || r.replayLog.all (fun e => (s.tile (logEntryOf e).tile).inService))

/-- CONTEXT_CREATE (R44, R45, R71, R96, R162): its top-level table is a zeroed page. [log 50 DEDUCED] -/
def execContextCreate (r : CtxRequest) (s : State) : Out := .next (
  if s.createOk r then
    let c : Ctx := {
      state := 1, world := r.world, domain := r.domain, key := r.key, func := r.func, rerun := r.rerun, globals := r.globals
      saveArea := r.saveArea, faultArea := r.faultArea, top := r.top, en := true, tableSize := r.tableSize, rseed := r.rseed
      poolGrant := r.poolGrant, gateAdmitted := r.gateAdmitted, logCap := r.logCapacity
      replay := if r.rerun = 2 then r.replayLog.mapIdx (fun n e => { logEntryOf e with outside := r.replayOutside.contains n }) else [] }
    (s.setCtx r.ctx c).zeroPage (r.top.toNat * 4096)
  else s)

/-- A context whose firings and started jobs have ended; paused jobs end with it (R92, R141). [log 27 DEDUCED] -/
def State.endable (s : State) (c : BitVec 8) : Bool :=
  (s.ctx c).state != 0 && s.slots.all (fun e => !(e.2.busy && e.2.ctx == c)) &&
    s.jobs.all (fun j => j.ctx != c || j.status.toNat ≥ 3 || j.paused.isSome)

/-- A tile without the entries, channels, joint regions, semaphores, spawn records and staged log of a context. -/
def Tile.without (t : Tile) (c : BitVec 8) : Tile :=
  let mine := fun (e : Entry) => e.valid && e.ctx == c
  let gone := (t.entries.filter (fun e => mine e.2)).flatMap (fun e => e.1 :: (match e.2.sec with
    | some k => [k.toNat]
    | none => []))
  { t with entries := t.entries.filter (fun e => !mine e.2), chans := t.chans.filter (fun e => !gone.contains e.1)
           joint := t.joint.filter (fun r => !mine (t.entry r.1)), semBlocks := drop t.semBlocks c.toNat
           sems := match t.semBlocks.find? (fun b => b.1 == c.toNat) with
             | some b => t.sems.filter (fun e => !(b.2.1 ≤ e.1 && e.1 < b.2.1 + b.2.2))
             | none => t.sems
           pool := t.pool.filter (fun r => !mine (t.entry r.entry)), staging := t.staging.filter (fun e => e.1 != c) }

/-- CONTEXT_END (R92, R141, R309): its pools are drained, its cached lines discarded without write-back, its tables freed, its id free; of
its requests still on their way, which HBM would refuse, none has an effect. [log 27 DEDUCED] -/
def execContextEnd (c : BitVec 8) (s : State) : Out := .next (
  if !s.endable c then s
  else
    let s := s.cancelPaused c
    let pools := (s.pools.filter (fun e => e.2.configured && e.2.ctx == c)).map (fun e => BitVec.ofNat 6 e.1)
    let s := pools.foldl (fun (s : State) p => (s.drainPool 0 p).2) s
    let s : State := { s with
      ctxs := drop s.ctxs c.toNat
      reqs := s.reqs.filter (fun r => r.ctx != c)
      clusters := s.clusters.map (fun e => (e.1, { e.2 with
        lines := e.2.lines.filter (fun l => l.ctx != c), tlb := e.2.tlb.filter (fun x => x.ctx != c), walks := e.2.walks.filter (fun w => w.ctx != c) }))
      tiles := s.tiles.map (fun e => (e.1, e.2.without c))
      late := s.late.filter (fun e => e.2.ctx != c) }
    s.tiles.foldl (fun s e => s.refillPool (BitVec.ofNat 10 e.1)) s)

/-! ### Loading a graph -/

/-- An entry index that no valid entry and no channel holds on a tile (R250). -/
def State.indexFree (s : State) (t : BitVec 10) (i : BitVec 6) : Bool :=
  !(s.entry t i).valid && !(s.tile t).chans.any (fun e => e.1 == i.toNat)

def indices : List (BitVec 6) := (List.range 64).map (BitVec.ofNat 6)

/-- The entry indices of the handlers, in order (R189 `.place`): the one given, else the lowest free on all its tiles. None where an
index is taken. -/
def State.placeHandlers (s : State) : List HandlerSpec → List (BitVec 10 × BitVec 6) → Option (List (BitVec 6))
  | [], _ => some []
  | h :: hs, taken =>
    let free := fun (i : BitVec 6) => h.tiles.all (fun t => s.indexFree t i && !taken.contains (t, i))
    match (match h.index with
      | some i => if free i then some i else none
      | none => indices.find? free) with
    | none => none
    | some i => (State.placeHandlers s hs (taken ++ h.tiles.map (fun t => (t, i)))).map (fun l => i :: l)

/-- The tiles on which the n-th `.chan` is needed. -/
def graphChanTiles (g : Graph) (n : Nat) : List (BitVec 10) :=
  ((g.handlers.filter (fun h => h.sec == some n)).flatMap HandlerSpec.tiles).eraseDups

/-- The indices of the channels from the n-th on, in source order (R250, R336). -/
def State.placeChans (s : State) (g : Graph) (taken : List (BitVec 10 × BitVec 6)) (held : List (BitVec 6)) : Nat → Nat → Option (List (BitVec 6))
  | 0, _ => some []
  | f + 1, n =>
    let ts := (graphChanTiles g) n
    match indices.find? (fun i => !held.contains i && ts.all (fun t => s.indexFree t i && !taken.contains (t, i))) with
    | none => none
    | some i => (State.placeChans s g taken (i :: held) f (n + 1)).map (fun l => i :: l)

/-- The two handlers of a joint pair (R53). -/
def graphJointOk (g : Graph) (n : Nat) (h : HandlerSpec) : Bool :=
  match h.joint with
  | none => true
  | some m => match g.handlers[m]? with
    | some o => o.joint == some n && o.cclass != h.cclass && o.slab == h.slab && h.tiles.all o.tiles.contains && o.tiles.all h.tiles.contains
    | none => false

/-- What the loader refuses of a handler (R46, R48, R53, R93, R189). -/
def State.handlerOk (s : State) (g : Graph) (n : Nat) (h : HandlerSpec) : Bool :=
  let inside := fun (pc : BitVec 56) => g.codeLo.toNat ≤ pc.toNat && pc.toNat < g.codeHi.toNat && pc.toNat % 4 == 0
  inside h.entry && inside h.trap && 1024 ≤ h.wdog.toNat && 1 ≤ h.cap.toNat && h.cap.toNat ≤ 64 && h.slab.toNat ≤ 64 &&
  h.rate.toNat ≤ 32 && h.srate.toNat ≤ 32 && h.prod.toNat ≤ 32 &&
  16 ≤ h.ring && h.ring ≤ 2 ^ 20 && (graphJointOk g) n h && h.tiles.all (fun t => (s.tile t).inService) && h.tiles.eraseDups.length == h.tiles.length &&
  (match h.sec with
   | some k => k < g.chans.length
   | none => true)

def graphTiles (g : Graph) : List (BitVec 10) := (g.handlers.flatMap HandlerSpec.tiles).eraseDups

def spaceOf (loc : BitVec 2) (place : BitVec 10) (c : BitVec 8) : Space :=
  if loc = 0 then .tile place else if loc = 1 then .cluster (place.extractLsb' 4 6) else .va c

/-- The root title of a directive (R189, R335): LEN rounded up; a commons title is 256 bytes long. -/
def specTitle (x : TitleSpec) (c : BitVec 8) (v : Ctx) : Title :=
  { kind := if x.commons then 3 else 1
    rights := if x.commons then 0b10110 else if x.arena then 0b00011 else if x.writable then 0b11010 else 0b10010
    world := v.world, domain := v.domain, ctx := c, base := x.base, len := BitVec.ofNat 41 (if x.commons then 1 else (x.len + 255) / 256)
    loc := match x.loc with
      | .tile => 0
      | .cluster => 1
      | .hbm => 2
      | .peer => 3
    place := match x.loc with
      | .tile => x.at_
      | .cluster => x.at_ &&& 0x3F0
      | _ => 0 }

/-- What the loader refuses of a `.title` (R69, R189, R335, R369). -/
def graphTitleOk (g : Graph) (x : TitleSpec) : Bool :=
  let n := if x.commons then 256 else (x.len + 255) / 256 * 256
  (match g.handlers[x.toOff]? with
   | some h => h.tiles.contains x.at_
   | none => false) && n != 0 && n ≤ 2 ^ 48 && x.base.toNat % 256 == 0 && !(x.commons && x.arena) &&
  (match x.loc with
   | .tile => !x.commons && x.base.toNat + n ≤ 2 ^ 20
   | .cluster => x.base.toNat + n ≤ 2 ^ 23 && (!x.commons || x.base.toNat % 2 ^ 17 == 0)
   | .hbm => x.base.toNat % 4096 == 0 && x.base.toNat + n ≤ 2 ^ 56
   | .peer => false)

/-- The storage of the root titles that exist. -/
def State.rootRegions (s : State) : List Region :=
  s.ctxs.flatMap (fun e => (e.2.table.filter (fun x => x.2.state != 0 && x.2.parent == 0)).map (fun x =>
    { space := spaceOf x.2.loc x.2.place (BitVec.ofNat 8 e.1), lo := x.2.base.toNat, hi := x.2.base.toNat + 256 * x.2.len.toNat }))

/-- Two regions that share a byte. -/
def Region.shares (q r : Region) : Bool := q.space == r.space && q.lo < r.hi && r.lo < q.hi

/-- Regions of which no two share a byte. [log 51 DEDUCED] -/
def disjoint : List Region → Bool
  | [] => true
  | r :: rs => rs.all (fun q => !q.shares r) && disjoint rs

/-- Regions of which none lies within another: a title allotted from an arena, which another context has made a root of its own (R75),
is counted with the arena. -/
def outermost (rs : List Region) : List Region :=
  rs.eraseDups.filter (fun r => !rs.any (fun q => q != r && q.space == r.space && q.lo ≤ r.lo && r.hi ≤ q.hi))

/-- A title to a peer's memory, as a pod load makes it for the window of this package's successor in the ring (R283), with its seed. -/
structure PodWindow where
  peer : BitVec 10
  base : Nat
  len : Nat
  toOff : Nat
  at_ : BitVec 10

/-- The storage a load asks for: titles, landing arenas (R251), a window (R283). -/
def graphRegions (g : Graph) (v : Ctx) (window : Option PodWindow) : List Region :=
  g.titles.map (fun x => (specTitle x g.ctx v).region 0 ((specTitle x g.ctx v).bytes)) ++
  g.landing.flatMap (fun l => [{ space := .tile l.tile, lo := l.tileBase.toNat, hi := l.tileBase.toNat + 2 ^ 16 },
                               { space := .va g.ctx, lo := l.hbmBase.toNat, hi := l.hbmBase.toNat + 2 ^ 24 }]) ++
  (match window with
   | some w => [{ space := .va g.ctx, lo := w.base, hi := w.base + w.len }]
   | none => [])

/-- What a commons title keeps for itself: its bank of a cluster's SRAM, or its 4 KiB granule (R335). -/
def Region.own (r : Region) : Region :=
  let n := match r.space with
    | .cluster _ => 2 ^ 17
    | _ => 4096
  { r with lo := r.lo / n * n, hi := (r.hi + n - 1) / n * n }

/-- The storage of the commons titles that exist. -/
def State.commonsRegions (s : State) : List Region :=
  s.ctxs.flatMap (fun e => (e.2.table.filter (fun x => x.2.state != 0 && x.2.kind == 3)).map (fun x =>
    { space := spaceOf x.2.loc x.2.place (BitVec.ofNat 8 e.1), lo := x.2.base.toNat, hi := x.2.base.toNat + 256 * x.2.len.toNat }))

/-- The code sections of a context that handlers have. -/
def State.codeRegions (s : State) (c : BitVec 8) : List Region :=
  (s.tiles.flatMap (fun e => (e.2.entries.filter (fun x => x.2.valid && x.2.ctx == c)).map (fun x =>
    ({ space := .va c, lo := x.2.codeLo.toNat, hi := x.2.codeHi.toNat } : Region)))).eraseDups

/-- Each commons title, those of the graph among them, has its bank or granule to itself (R335): no other title, landing arena, window or
code lies in it. [log 51 DEDUCED] -/
def State.commonsAlone (s : State) (g : Graph) (rs : List Region) : Bool :=
  let v := s.ctx g.ctx
  let mine := (g.titles.filter TitleSpec.commons).map (fun x => (specTitle x g.ctx v).region 0 256)
  let all := rs ++ s.rootRegions ++ ({ space := .va g.ctx, lo := g.codeLo.toNat, hi := g.codeHi.toNat } : Region) :: s.codeRegions g.ctx
  (mine ++ s.commonsRegions).all (fun r => all.all (fun q => q == r || !q.shares r.own))

/-- Bytes of a tile's SRAM in use: titles, channel records of 384 bytes (R48), the staging area (R147). [log 51 DEDUCED] -/
def State.sramUsed (s : State) (t : BitVec 10) (rs : List Region) : Nat :=
  (((outermost rs).filter (fun r => r.space == .tile t)).map (fun r => r.hi - r.lo)).sum + ((s.tile t).chans.map (fun c => 384 * c.2.cap)).sum +
    (if s.ctxs.any (fun e => e.2.rerun == 1 && e.2.placed.contains t) then 2 ^ 14 else 0)

/-- A root title enters the context's table (R71, R72). -/
def State.rootTitle (s : State) (t : Title) (st : BitVec 3) : Option (Title × State) :=
  match (s.ctx t.ctx).freeIndex with
  | none => none
  | some n =>
    let i := BitVec.ofNat 20 n
    let e := find {} (s.ctx t.ctx).table n
    some ({ t with index := i, gen := e.gen }, s.modTte t.ctx i (fun _ => {
      state := st, kind := t.kind, gen := e.gen, rights := t.rights, loc := t.loc, base := t.base, len := t.len, place := t.place
      world := t.world, domain := t.domain }))

/-- The storage of a title as the loader fills it: the first bytes given, the rest zero (R82, R189). -/
def State.initStorage (s : State) (t : Title) (bs : List Byte) : Option State :=
  let all := (bs ++ List.replicate (t.bytes - bs.length) 0).take t.bytes
  if t.loc = 0 then some (s.store (tileKey t.place t.base.toNat) all)
  else if t.loc = 1 then some (s.store (clusterKey (t.place.extractLsb' 4 6) t.base.toNat) all)
  else s.vaWrite t.ctx t.domain t.base.toNat all

/-- The root titles in directive order. -/
def State.makeTitles (s : State) (c : BitVec 8) : List TitleSpec → Option (List Title × State)
  | [] => some ([], s)
  | x :: xs => do
    let (t, s) ← s.rootTitle (specTitle x c (s.ctx c)) 2
    let s ← s.initStorage t (if x.commons then x.init.take 8 else x.init.take x.len)
    let (ts, s) ← State.makeTitles s c xs
    some (t :: ts, s)

/-- The landing arenas of tiles that have none yet (R251). [log 51 DEDUCED] -/
def State.bindLanding (s : State) (c : BitVec 8) (l : LandingSpec) : Option State := do
  let v := s.ctx c
  let base : Title := { kind := 1, rights := 0b00011, world := v.world, domain := v.domain, ctx := c }
  let (a, s) ← s.rootTitle { base with loc := 0, place := l.tile, base := l.tileBase, len := 256 } 3
  let s ← s.initStorage a []
  let (b, s) ← s.rootTitle { base with loc := 2, base := l.hbmBase, len := 65536 } 3
  let s ← s.initStorage b []
  some (s.modCtx c (fun v => { v with landing := v.landing ++ [{ tile := l.tile, tileArena := a.index, hbmArena := b.index }] }))

def foldOption {α : Type} (f : State → α → Option State) : State → List α → Option State
  | s, [] => some s
  | s, a :: as => (f s a).bind (fun s => foldOption f s as)

/-- A block of n semaphores of a tile for a context, counts 0 (R209); one that the context has there already must suffice. [log 62 DEDUCED] -/
def State.grantSems (s : State) (c : BitVec 8) (n : Nat) (t : BitVec 10) : Option State :=
  let v := s.tile t
  if v.semBlocks.any (fun b => b.1 == c.toNat && n ≤ b.2.2) ∨ n = 0 then some s
  else if v.semBlocks.any (fun b => b.1 == c.toNat) then none
  else
    let runs := v.semBlocks.foldl (fun m b => insertRun b.2.1 b.2.2 m) []
    (lowestRun n 16 0 runs).map (fun b => s.modTile t (fun v => { v with
      semBlocks := put v.semBlocks c.toNat (b, n), sems := v.sems.filter (fun e => !(b ≤ e.1 && e.1 < b + n)) }))

/-- The joint region of a pair on a tile, zeroed (R53). -/
def State.grantJoint (s : State) (d : BitVec 10) (a b : BitVec 6) (n : Nat) (t : BitVec 10) : Option State :=
  if n = 0 then some (s.modTile t (fun v => { v with joint := v.joint ++ [(a, b, 0, 0)] }))
  else (s.slabRun t n).map (fun base =>
    let s := (s.grantSlab t base n d)
    let k := slabKey t (base * 4096)
    let s : State := { s with mem := clearCells s.mem k (n * 4096) }
    s.modTile t (fun v => { v with joint := v.joint ++ [(a, b, base * 4096, n * 4096)] }))

/-- The entry that a handler becomes (R46); GATE only for a context that Iluson admits (R189). [log 51 DEDUCED] -/
def specEntry (h : HandlerSpec) (g : Graph) (admitted : Bool) (chans idxs : List (BitVec 6)) : Entry :=
  { valid := true, ctx := g.ctx, prio := h.prio, cclass := h.cclass, mask := false, gateOn := admitted && h.gate.isSome
    sec := h.sec.map (fun k => chans.getD k 0), rateP := h.rate, rateS := h.srate, prod := h.prod
    gkey := if admitted then h.gate.getD 0 else 0, slab := h.slab, chcap := h.cap, entryPc := h.entry, codeLo := g.codeLo
    codeHi := g.codeHi, trapPc := h.trap, wdog := h.wdog, eprio := h.prio, partner := h.joint.map (fun m => idxs.getD m 0) }

/-- The entries and channels of a handler on its tiles. -/
def State.bindHandler (s : State) (g : Graph) (chans idxs : List (BitVec 6)) (x : HandlerSpec × BitVec 6) : State :=
  let h := x.1
  let e := specEntry h g (s.ctx g.ctx).gateAdmitted chans idxs
  h.tiles.foldl (fun (s : State) t => s.modTile t (fun v =>
    let own := put v.chans x.2.toNat { cap := h.cap.toNat, ring := h.ring }
    let cs := match h.sec with
      | some k => put own (chans.getD k 0).toNat { cap := ((g.chans[k]?).map (fun c => c.cap.toNat)).getD 16, ring := ((g.chans[k]?).map ChanSpec.ring).getD 16 }
      | none => own
    { v with entries := put v.entries x.2.toNat e, chans := cs })) s

/-- The joint regions of the pairs, each reserved once, for its S-core handler. -/
def State.bindJoint (s : State) (g : Graph) (idxs : List (BitVec 6)) (x : HandlerSpec × BitVec 6) : Option State :=
  match x.1.joint with
  | some m => if x.1.cclass then some s
    else foldOption (fun s t => s.grantJoint (s.ctx g.ctx).domain x.2 (idxs.getD m 0) x.1.slab.toNat t) s x.1.tiles
  | none => some s

/-- The seed message of an entry on a tile (R72); none where it is not accepted or carries more than three titles. [log 34 DEDUCED] -/
def State.seed (s : State) (c : BitVec 8) (n : BitVec 6) (t : BitVec 10) (ts : List Title) : Option State :=
  if ts.isEmpty then some s
  else if ts.length > 3 then none
  else
    let v := s.ctx c
    let h := header 3 n t 0x3FF 0 (BitVec.ofNat 2 ts.length) v.key 0
    match s.arriveAt t { hdr := h, titles := ts, ctx := c, world := v.world } with
    | .accepted s' => some s'
    | _ => none

/-- Every page of [lo, hi) of a context has a leaf with a property, as firmware has mapped it. -/
def State.mapped (s : State) (c : BitVec 8) (lo hi : Nat) (ok : Word → Bool) : Bool :=
  (List.range ((hi + 4095) / 4096 - lo / 4096)).all (fun n => match s.walk c ((lo / 4096 + n) * 4096) with
    | .leaf w _ => ok w
    | .cause _ => false)

/-- A leaf of the code section (R189): RP and XP, without WP. [log 51 DEDUCED] -/
def codeLeaf (w : Word) : Bool := w.getLsbD 5 && w.getLsbD 3 && !w.getLsbD 4 && ptePeer w == 0x3FF
/-- A leaf of the window on a successor (R283): its peer number, MODE 0b00, RP and WP. [log 51 DEDUCED] -/
def windowLeaf (p : BitVec 10) (w : Word) : Bool := ptePeer w == p && pteMode w == 0 && w.getLsbD 5 && w.getLsbD 4

/-- The semaphores that a code section needs: one more than the highest number it names (R209). [log 51 DEDUCED] -/
def semsNamed (code : List (BitVec 32)) : Nat :=
  code.foldl (fun n w => match decode w with
    | some (.semV m) | some (.semP m) | some (.semTry _ m) => Nat.max n (m.toNat + 1)
    | _ => n) 0

/-- What a load refuses before it changes anything. [log 51 DEDUCED] -/
def State.loadOk (s : State) (g : Graph) (window : Option PodWindow) : Bool :=
  let v := s.ctx g.ctx
  let rs := (graphRegions g) v window
  v.state != 0 && 0x10000 ≤ g.codeLo.toNat && g.codeLo.toNat % 4 == 0 && g.codeHi.toNat == g.codeLo.toNat + 4 * g.code.length &&
  64 ≤ g.spawnQueue && g.spawnQueue ≤ 2 ^ 20 && s.mapped g.ctx g.codeLo.toNat g.codeHi.toNat codeLeaf &&
  (List.range g.handlers.length).all (fun n => (g.handlers[n]?).all (fun h => s.handlerOk g n h)) &&
  g.chans.all (fun c => 1 ≤ c.cap.toNat && c.cap.toNat ≤ 64 && 16 ≤ c.ring && c.ring ≤ 2 ^ 20) &&
  g.titles.all (graphTitleOk g) && (g.landing.map LandingSpec.tile).eraseDups.length == g.landing.length &&
  (graphTiles g).all (fun t => v.landing.any (fun l => l.tile == t) || g.landing.any (fun l => l.tile == t)) &&
  g.landing.all (fun l => (graphTiles g).contains l.tile && !v.landing.any (fun m => m.tile == l.tile) &&
    l.tileBase.toNat % 256 == 0 && l.tileBase.toNat + 2 ^ 16 ≤ 2 ^ 20 && l.hbmBase.toNat % 4096 == 0 && l.hbmBase.toNat + 2 ^ 24 ≤ 2 ^ 56) &&
  disjoint rs && rs.all (fun r => s.rootRegions.all (fun q => !q.shares r)) && s.commonsAlone g rs &&
  (match window with
   | some w => w.base + w.len ≤ 2 ^ 56 && s.mapped g.ctx w.base (w.base + w.len) (windowLeaf w.peer)
   | none => true)

/-- The window title on this package's successor (R283): RD and WR, no SEND. -/
def State.windowTitle (s : State) (c : BitVec 8) (w : PodWindow) : Option (Title × State) :=
  let v := s.ctx c
  s.rootTitle { kind := 1, rights := 0b11000, world := v.world, domain := v.domain, ctx := c, loc := 3, place := w.peer
                base := BitVec.ofNat 56 w.base, len := BitVec.ofNat 41 (w.len / 256) } 2

/-- A load (R46, R72, R189, R209, R250, R251, R282, R283): none where the loader refuses. [log 51 DEDUCED] -/
def State.load (s : State) (g : Graph) (window : Option PodWindow) : Option State :=
  if !s.loadOk g window then none
  else do
    let c := g.ctx
    let idxs ← s.placeHandlers g.handlers []
    let placed := g.handlers.zip idxs
    let taken := placed.flatMap (fun x => x.1.tiles.map (fun t => (t, x.2)))
    let chans ← s.placeChans g taken [] g.chans.length 0
    let (ts, s) ← s.makeTitles c g.titles
    let (win, s) ← (match window with
      | some w => (s.windowTitle c w).map (fun r => (some r.1, r.2))
      | none => some (none, s))
    let s ← s.vaWrite c (s.ctx c).domain g.codeLo.toNat (g.code.flatMap (fun w => leBytes 4 w.toNat))
    let s ← foldOption (fun s l => s.bindLanding c l) s g.landing
    let s ← foldOption (fun s t => s.grantSems c (semsNamed g.code) t) s (graphTiles g)
    let s ← foldOption (fun s x => s.bindJoint g idxs x) s placed
    let s := placed.foldl (fun (s : State) x => s.bindHandler g chans idxs x) s
    let s := s.modCtx c (fun v => { v with spawnCap := g.spawnQueue, placed := (v.placed ++ (graphTiles g)).eraseDups })
    if (graphTiles g).any (fun t => s.sramUsed t s.rootRegions > 2 ^ 20) then none
    else
      let pairs := g.titles.zip ts
      foldOption (fun s (x : Nat × HandlerSpec × BitVec 6) => foldOption (fun s t =>
        let mine := (pairs.filter (fun p => p.1.toOff == x.1 && p.1.at_ == t)).map Prod.snd
        let extra := match window, win with
          | some w, some u => if w.toOff == x.1 && w.at_ == t then [u] else []
          | _, _ => []
        s.seed c x.2.2 t (mine ++ extra)) s x.2.1.tiles) s ((List.range placed.length).zip placed)

/-- GRAPH_LOAD (R46): a refusal produces nothing. [log 8 DESIGN CHOICE] -/
def execGraphLoad (g : Graph) (s : State) : Out := .next ((s.load g none).getD s)

/-- The window title of a pod load (R283), where the named `.title` may be a window: this package is the predecessor of the one at the
next place of the ring. -/
def State.podWindow (s : State) (g : Graph) (pod : List (BitVec 10)) (n : Nat) : Option PodWindow :=
  match pod.findIdx? (fun a => a == s.board.accelId), g.titles[n]? with
  | some k, some x =>
    if x.loc = .hbm ∧ !x.writable ∧ !x.arena ∧ !x.commons then
      some { peer := peerNumber s.board.accelId (pod.getD ((k + 1) % pod.length) 0), base := x.base.toNat + 2 ^ 36
             len := (x.len + 255) / 256 * 256, toOff := x.toOff, at_ := x.at_ }
    else none
  | _, _ => none

/-- The `pod=` list of a load (R282): 2 to 1024 ids, each once, this package's among them. -/
def State.podOk (s : State) (p : PodLoad) : Bool :=
  2 ≤ p.pod.length && p.pod.length ≤ 1024 && p.pod.eraseDups.length == p.pod.length && p.pod.contains s.board.accelId && !p.refused

/-- POD_LOAD (R282, R283): this package's part of a load onto each package of the ring; where one refuses, nothing stays loaded. [log 51 DEDUCED] -/
def execPodLoad (g : Graph) (pod : PodLoad) (s : State) : Out := .next (
  if !s.podOk pod then s
  else match pod.window with
    | none => (s.load g none).getD s
    | some n => match s.podWindow g pod.pod n with
      | some w => (s.load g (some w)).getD s
      | none => s)

/-! ### Context switches (R64) -/

/-- CONTEXT_SWITCH: the context is stopping. -/
def execContextSwitch (c : BitVec 8) (s : State) : Out := .next (
  if (s.ctx c).state = 1 then s.modCtx c (fun v => { v with state := 2 }) else s)

/-- On-chip regions of a context that are saved: its arenas and other roots in tile SRAM, its joint regions. [log 52 DEDUCED] -/
def State.savedRanges (s : State) (c : BitVec 8) : List (Nat × Nat) :=
  (((s.ctx c).table.filter (fun e => e.2.state != 0 && e.2.parent == 0 && e.2.loc == 0)).map (fun e =>
    (tileKey e.2.place e.2.base.toNat, 256 * e.2.len.toNat))) ++
  s.tiles.flatMap (fun e => (e.2.joint.filter (fun r => (e.2.entry r.1).valid && (e.2.entry r.1).ctx == c)).map (fun r =>
    (slabKey (BitVec.ofNat 10 e.1) r.2.2.1, r.2.2.2)))

/-- The channels of a context: tile, number, state. -/
def State.chansOf (s : State) (c : BitVec 8) : List (BitVec 10 × BitVec 6 × Chan) :=
  s.tiles.flatMap (fun e => (e.2.chans.filter (fun k => (e.2.owner (BitVec.ofNat 6 k.1)).any (fun x => x.ctx == c))).map (fun k =>
    (BitVec.ofNat 10 e.1, BitVec.ofNat 6 k.1, k.2)))

/-- The semaphore counts of a context (R209). -/
def State.semsOf (s : State) (c : BitVec 8) : List (BitVec 10 × Nat × BitVec 16) :=
  s.tiles.flatMap (fun e => (e.2.semBlocks.filter (fun b => b.1 == c.toNat)).flatMap (fun b =>
    (List.range b.2.2).map (fun n => (BitVec.ofNat 10 e.1, b.2.1 + n, find 0 e.2.sems (b.2.1 + n)))))

/-- CONTEXT_SAVE: with no firing and no job of the context left, Tramontane saves and zeroes its on-chip state. [log 52 DEDUCED] -/
def execContextSave (c : BitVec 8) (s : State) : Out := .next (
  let v := s.ctx c
  if v.state ≠ 2 ∨ v.killed ∨ s.slots.any (fun e => e.2.busy && e.2.ctx == c) ∨ s.jobs.any (fun j => j.ctx == c && j.status.toNat < 3) then s
  else
    let rs := s.savedRanges c
    let chs := s.chansOf c
    let sems := s.semsOf c
    let cells := rs.flatMap (fun r => cellsIn s.mem r.1 r.2)
    let s : State := { s with mem := rs.foldl (fun m r => clearCells m r.1 r.2) s.mem }
    let s := chs.foldl (fun (s : State) x => s.modChan x.1 x.2.1 (fun k => { k with recs := k.recs.drop k.onChip, onChip := 0 })) s
    let s := sems.foldl (fun (s : State) x => s.setSem x.1 x.2.1 0) s
    s.modCtx c (fun v => { v with state := 3, saved := {
      cells := v.saved.cells ++ cells, chans := chs.map (fun x => (x.1, x.2.1, { x.2.2 with recs := x.2.2.recs.take x.2.2.onChip })), sems := sems } }))

/-- The titles of a parked firing are held again, with the generations of their entries (R80). -/
def State.unparkTitles (s : State) (i : SlotId) : State :=
  (List.range 16).foldl (fun (s : State) n =>
    let k := BitVec.ofNat 4 n
    let r := (s.slot i).kr k
    if r.img.kind = 0 ∨ r.img.isShare then s
    else match s.acquire i r.img with
      | some (t, s) => s.modSlot i (fun v => v.setK k { r with img := t })
      | none => s) s

/-- The claim and accumulators of a parked firing are its slot's again (R289). [log 52 DEDUCED] -/
def State.reclaim (s : State) (p : ParkedFiring) : State := match p.matrix with
  | some (acc, sat) => s.modTile p.sid.tile (fun t => { t with mxu := { t.mxu with claim := some p.sid.slot, acc := acc, sat := sat } })
  | none => s

/-- A parked firing takes its slot again, with a slab allotment and its claim (R58, R64, R289); none while the slot, a run or the claim is not free. Where the slot has
run other firings since, the restored one takes the next serial, while L goes on as it was: R146 and R162 do not name this case.
[log 52 DEDUCED, 68 DESIGN CHOICE] [log 52 DEDUCED, 68 DESIGN CHOICE] -/
def State.unpark (s : State) (c : BitVec 8) (p : ParkedFiring) : Option State :=
  let i := p.sid
  let old := s.slot i
  let u := p.slot
  let m := (s.tile i.tile).mxu
  if old.busy || (p.matrix.isSome && (m.claim.isSome || m.running.isSome)) then none
  else match (if u.slabLen = 0 then some 0 else s.slabRun i.tile (u.slabLen / 4096)) with
    | none => none
    | some b =>
      let s := s.grantSlab i.tile b (u.slabLen / 4096) (s.ctx c).domain
      let k := slabKey i.tile u.slabBase
      let cs := ((s.ctx c).saved.cells.filter (fun x => k ≤ x.1 && x.1 < k + u.slabLen)).map (fun x => (x.1 - k + slabKey i.tile (b * 4096), x.2))
      let s : State := { s with mem := cs.foldl (fun m x => Memory_put m x.1 x.2) (clearCells s.mem (slabKey i.tile (b * 4096)) u.slabLen) }
      let s := s.modCtx c (fun v => { v with saved := { v.saved with cells := v.saved.cells.filter (fun x => !(k ≤ x.1 && x.1 < k + u.slabLen)) } })
      let u := { u with
        slabBase := b * 4096, outRes := Nat.min u.outRes (s.outFree i.tile), aseq := old.aseq, mseq := old.mseq
        serial := if old.serial = u.serial then u.serial else old.serial + 1 }
      some (((s.setSlot i u).unparkTitles i).reclaim p)

/-- CONTEXT_RESTORE: the steps in reverse. [log 52 DEDUCED] -/
def execContextRestore (c : BitVec 8) (s : State) : Out := .next (
  let v := s.ctx c
  if v.state ≠ 3 then s
  else match foldOption (fun s p => s.unpark c p) s v.parked with
    | none => s
    | some s =>
      let w := s.ctx c
      let s : State := { s with mem := w.saved.cells.foldl (fun m x => Memory_put m x.1 x.2) s.mem }
      let s := w.saved.chans.foldl (fun (s : State) x => s.modChan x.1 x.2.1 (fun k => { k with
        recs := x.2.2.recs ++ k.recs, onChip := x.2.2.recs.length })) s
      let s := w.saved.sems.foldl (fun (s : State) x => s.setSem x.1 x.2.1 x.2.2) s
      s.modCtx c (fun v => { v with state := 1, parked := [], saved := {} }))

end Sys2Proof.Machine
end

