-- ==== Sys2Proof/Machine/Fetch.lean ====
section
/-! DEFINITION. What a slot or a near-bank job issues when its turn comes: the fetch checks of R124, the fetch through the code
window (R93, R124, R138, R140), decoding (R182), and a micro-instruction (R341, R343, R358). -/

namespace Sys2Proof.Machine

/-- A slot that may issue (R376): it holds a firing, no request, retry or reply keeps it, and its scout is not over. -/
def Slot.mayIssue (v : Slot) : Bool :=
  v.busy && v.trap.isNone && v.wait.isNone && (match v.scout with
    | some sc => !sc.ended
    | none => true)

/-- The address a slot fetches at: of its scout where one runs (R138). -/
def Slot.fetchPc (v : Slot) : Word := match v.scout with
  | some sc => sc.pc
  | none => v.pc

/-- The line of an address is in the tile's instruction cache, 32 KiB of 64-byte lines of which the oldest leaves (R9). What a fetch
returns is memory's content all the same: nothing lets a line differ from it (log 39). [log 39 DESIGN CHOICE] -/
def Tile.cacheCode (t : Tile) (line : Nat) : Tile :=
  if t.icache.contains line then t else { t with icache := (line :: t.icache).take 512 }

/-- The fetch of slot i: its checks in the order of R124, item 1, then the word. [log 39 DESIGN CHOICE] -/
def State.fetch (s : State) (i : SlotId) : Res (BitVec 32 × State) := do
  let pc := (s.slot i).fetchPc
  need (pc.toNat % 4 == 0) 0x00
  if !(s.entryOf i).holds pc then raiseVa 0x37 pc.toNat
  let (bs, s) ← s.codeRead i pc.toNat 4 .fetch
  .ok (BitVec.ofNat 32 (leNat bs), s.modTile i.tile (fun t => t.cacheCode (((s.slot i).ctx.toNat * 2 ^ 56 + pc.toNat) / 64)))

/-- The core issued from slot i last (R376). -/
def State.issued (s : State) (i : SlotId) : State :=
  s.modTile i.tile (fun t => if i.core then { t with issueC := i.slot } else { t with issueS := i.slot })

/-- The word that slot i issues stands in its INSN (R132); a scout leaves it as its checkpoint has it. -/
def State.issueWord (s : State) (i : SlotId) (w : BitVec 32) : State :=
  s.modSlot i (fun v => if v.scout.isSome then v else { v with insn := w })

/-- A fetch that a scout cannot make ends it (R139, R140). [log 18 DEDUCED] -/
def State.scoutStops (s : State) (i : SlotId) : State :=
  s.modSlot i (fun v => { v with scout := v.scout.map (fun sc => { sc with ended := true }) })

/-- An encoding that does not decode (R182): 0x00; a scout passes over it (R139). [log 18 DEDUCED] -/
def State.illegal (s : State) (i : SlotId) : State :=
  match (s.slot i).scout with
  | some sc => s.modSlot i (fun v => { v with scout := some (sc.next (sc.pc + 4)) })
  | none => s.fault i { cause := 0x00 }

/-- A fetch that fails: INSN reads 0 where no word was fetched. [log 24 DEDUCED] -/
def State.fetchFails (s : State) (i : SlotId) (t : TrapInfo) : State :=
  if (s.slot i).scout.isSome then s.scoutStops i
  else (s.modSlot i (fun v => { v with insn := 0 })).fault i t

/-- The running slot is i. -/
def State.enter (s : State) (i : SlotId) : State := { s with cur := i, curJob := none }

/-- A slot that is ending carries out a `TSENDR` whose peer has placed the copy, then goes on ending (R127, R226). -/
def State.endTurn (s : State) (i : SlotId) : State :=
  match s.placedOf i with
  | none => s.tryEnd i
  | some r => match r.kind with
    | .titleCopy k w _ _ => match s.settleCopy i k r w with
      | (s', true) => s'.tryEnd i
      | (s', false) => s'
    | _ => s.tryEnd i

/-- A slot's turn: the instruction it carries out and the state it does so in; none where the turn is over already. A slot that is
ending goes on ending (R127). -/
def State.issue (s0 : State) (i : SlotId) : Option Instr × State :=
  let s := s0.enter i
  let v := s.slot i
  if v.busy && v.ending.isSome then (none, s.endTurn i)
  else if !v.mayIssue then (none, s)
  else match s.fetch i with
    | .error (.wait s') => (none, s')
    | .error (.trap t) => (none, s.fetchFails i t)
    | .ok (w, s') =>
      let s' := s'.issueWord i w
      match decode w with
      | some ins => (some ins, s')
      | none => (none, s'.illegal i)

/-- The turn of a running microprogram (R340, R341, R343, R344, R358, R364): one whose firing is gone stops at a row boundary. -/
def State.microIssue (s0 : State) (t : BitVec 10) (n : BitVec 16) : Option Instr × State :=
  let (on, s) := s0.microTurn t n
  if s.microStops then (none, s.stopMicro)
  else if !on then (none, s)
  else match s.microInsn, s.runningMicro with
    | some ins, _ => (some ins, s)
    | none, some (j, g) => (none, s.microFail j g)
    | none, none => (none, s)

end Sys2Proof.Machine
end

