-- ==== Sys2Proof/Machine/Dispatch.lean ====
section
/-! DEFINITION. One arm for each constructor of `Instr`: its meaning. -/

namespace Sys2Proof.Machine

def exec (i : Instr) (s : State) : Host.Outcome State Fault Refusal :=
  match i with
  | .lui rd imm => Sys2Proof.Machine.execLui rd imm s
  | .auipc rd imm => Sys2Proof.Machine.execAuipc rd imm s
  | .jal rd imm => Sys2Proof.Machine.execJal rd imm s
  | .jalr rd rs1 imm => Sys2Proof.Machine.execJalr rd rs1 imm s
  | .beq rs1 rs2 imm => Sys2Proof.Machine.execBeq rs1 rs2 imm s
  | .bne rs1 rs2 imm => Sys2Proof.Machine.execBne rs1 rs2 imm s
  | .blt rs1 rs2 imm => Sys2Proof.Machine.execBlt rs1 rs2 imm s
  | .bge rs1 rs2 imm => Sys2Proof.Machine.execBge rs1 rs2 imm s
  | .bltu rs1 rs2 imm => Sys2Proof.Machine.execBltu rs1 rs2 imm s
  | .bgeu rs1 rs2 imm => Sys2Proof.Machine.execBgeu rs1 rs2 imm s
  | .lb rd rs1 imm => Sys2Proof.Machine.execLb rd rs1 imm s
  | .lh rd rs1 imm => Sys2Proof.Machine.execLh rd rs1 imm s
  | .lw rd rs1 imm => Sys2Proof.Machine.execLw rd rs1 imm s
  | .ld rd rs1 imm => Sys2Proof.Machine.execLd rd rs1 imm s
  | .lbu rd rs1 imm => Sys2Proof.Machine.execLbu rd rs1 imm s
  | .lhu rd rs1 imm => Sys2Proof.Machine.execLhu rd rs1 imm s
  | .lwu rd rs1 imm => Sys2Proof.Machine.execLwu rd rs1 imm s
  | .sb rs1 rs2 imm => Sys2Proof.Machine.execSb rs1 rs2 imm s
  | .sh rs1 rs2 imm => Sys2Proof.Machine.execSh rs1 rs2 imm s
  | .sw rs1 rs2 imm => Sys2Proof.Machine.execSw rs1 rs2 imm s
  | .sd rs1 rs2 imm => Sys2Proof.Machine.execSd rs1 rs2 imm s
  | .addi rd rs1 imm => Sys2Proof.Machine.execAddi rd rs1 imm s
  | .slti rd rs1 imm => Sys2Proof.Machine.execSlti rd rs1 imm s
  | .sltiu rd rs1 imm => Sys2Proof.Machine.execSltiu rd rs1 imm s
  | .xori rd rs1 imm => Sys2Proof.Machine.execXori rd rs1 imm s
  | .ori rd rs1 imm => Sys2Proof.Machine.execOri rd rs1 imm s
  | .andi rd rs1 imm => Sys2Proof.Machine.execAndi rd rs1 imm s
  | .slli rd rs1 sh => Sys2Proof.Machine.execSlli rd rs1 sh s
  | .srli rd rs1 sh => Sys2Proof.Machine.execSrli rd rs1 sh s
  | .srai rd rs1 sh => Sys2Proof.Machine.execSrai rd rs1 sh s
  | .add rd rs1 rs2 => Sys2Proof.Machine.execAdd rd rs1 rs2 s
  | .sub rd rs1 rs2 => Sys2Proof.Machine.execSub rd rs1 rs2 s
  | .sll rd rs1 rs2 => Sys2Proof.Machine.execSll rd rs1 rs2 s
  | .slt rd rs1 rs2 => Sys2Proof.Machine.execSlt rd rs1 rs2 s
  | .sltu rd rs1 rs2 => Sys2Proof.Machine.execSltu rd rs1 rs2 s
  | .xor rd rs1 rs2 => Sys2Proof.Machine.execXor rd rs1 rs2 s
  | .srl rd rs1 rs2 => Sys2Proof.Machine.execSrl rd rs1 rs2 s
  | .sra rd rs1 rs2 => Sys2Proof.Machine.execSra rd rs1 rs2 s
  | .or rd rs1 rs2 => Sys2Proof.Machine.execOr rd rs1 rs2 s
  | .and rd rs1 rs2 => Sys2Proof.Machine.execAnd rd rs1 rs2 s
  | .addiw rd rs1 imm => Sys2Proof.Machine.execAddiw rd rs1 imm s
  | .slliw rd rs1 sh => Sys2Proof.Machine.execSlliw rd rs1 sh s
  | .srliw rd rs1 sh => Sys2Proof.Machine.execSrliw rd rs1 sh s
  | .sraiw rd rs1 sh => Sys2Proof.Machine.execSraiw rd rs1 sh s
  | .addw rd rs1 rs2 => Sys2Proof.Machine.execAddw rd rs1 rs2 s
  | .subw rd rs1 rs2 => Sys2Proof.Machine.execSubw rd rs1 rs2 s
  | .sllw rd rs1 rs2 => Sys2Proof.Machine.execSllw rd rs1 rs2 s
  | .srlw rd rs1 rs2 => Sys2Proof.Machine.execSrlw rd rs1 rs2 s
  | .sraw rd rs1 rs2 => Sys2Proof.Machine.execSraw rd rs1 rs2 s
  | .mul rd rs1 rs2 => Sys2Proof.Machine.execMul rd rs1 rs2 s
  | .mulh rd rs1 rs2 => Sys2Proof.Machine.execMulh rd rs1 rs2 s
  | .mulhsu rd rs1 rs2 => Sys2Proof.Machine.execMulhsu rd rs1 rs2 s
  | .mulhu rd rs1 rs2 => Sys2Proof.Machine.execMulhu rd rs1 rs2 s
  | .div rd rs1 rs2 => Sys2Proof.Machine.execDiv rd rs1 rs2 s
  | .divu rd rs1 rs2 => Sys2Proof.Machine.execDivu rd rs1 rs2 s
  | .rem rd rs1 rs2 => Sys2Proof.Machine.execRem rd rs1 rs2 s
  | .remu rd rs1 rs2 => Sys2Proof.Machine.execRemu rd rs1 rs2 s
  | .mulw rd rs1 rs2 => Sys2Proof.Machine.execMulw rd rs1 rs2 s
  | .divw rd rs1 rs2 => Sys2Proof.Machine.execDivw rd rs1 rs2 s
  | .divuw rd rs1 rs2 => Sys2Proof.Machine.execDivuw rd rs1 rs2 s
  | .remw rd rs1 rs2 => Sys2Proof.Machine.execRemw rd rs1 rs2 s
  | .remuw rd rs1 rs2 => Sys2Proof.Machine.execRemuw rd rs1 rs2 s
  | .fence fm pred succ rs1 rd => Sys2Proof.Machine.execFence fm pred succ rs1 rd s
  | .fenceTso rs1 rd => Sys2Proof.Machine.execFenceTso rs1 rd s
  | .pause => Sys2Proof.Machine.execPause s
  | .fenceI imm rs1 rd => Sys2Proof.Machine.execFenceI imm rs1 rd s
  | .ecall => Sys2Proof.Machine.execEcall s
  | .ebreak => Sys2Proof.Machine.execEbreak s
  | .csrrw rd rs1 csr => Sys2Proof.Machine.execCsrrw rd rs1 csr s
  | .csrrs rd rs1 csr => Sys2Proof.Machine.execCsrrs rd rs1 csr s
  | .csrrc rd rs1 csr => Sys2Proof.Machine.execCsrrc rd rs1 csr s
  | .csrrwi rd uimm csr => Sys2Proof.Machine.execCsrrwi rd uimm csr s
  | .csrrsi rd uimm csr => Sys2Proof.Machine.execCsrrsi rd uimm csr s
  | .csrrci rd uimm csr => Sys2Proof.Machine.execCsrrci rd uimm csr s
  | .exit => Sys2Proof.Machine.execExit s
  | .exitS rs => Sys2Proof.Machine.execExitS rs s
  | .spawn rs1 rs2 => Sys2Proof.Machine.execSpawn rs1 rs2 s
  | .rspawn rd rs1 rs2 => Sys2Proof.Machine.execRspawn rd rs1 rs2 s
  | .send rs1 rs2 => Sys2Proof.Machine.execSend rs1 rs2 s
  | .sendShort rs tile chan => Sys2Proof.Machine.execSendShort rs tile chan s
  | .sendv rs1 vs => Sys2Proof.Machine.execSendv rs1 vs s
  | .volley rs1 rs2 => Sys2Proof.Machine.execVolley rs1 rs2 s
  | .post rs1 rs2 => Sys2Proof.Machine.execPost rs1 rs2 s
  | .recv rd kd rs => Sys2Proof.Machine.execRecv rd kd rs s
  | .chpop rd rs => Sys2Proof.Machine.execChpop rd rs s
  | .chcnt rd rs => Sys2Proof.Machine.execChcnt rd rs s
  | .hmask rs => Sys2Proof.Machine.execHmask rs s
  | .hunmask rs => Sys2Proof.Machine.execHunmask rs s
  | .hprio rs1 rs2 => Sys2Proof.Machine.execHprio rs1 rs2 s
  | .semV n => Sys2Proof.Machine.execSemV n s
  | .semP n => Sys2Proof.Machine.execSemP n s
  | .semTry rd n => Sys2Proof.Machine.execSemTry rd n s
  | .waitj rd rs => Sys2Proof.Machine.execWaitj rd rs s
  | .jstat rd rs => Sys2Proof.Machine.execJstat rd rs s
  | .trap rs => Sys2Proof.Machine.execTrap rs s
  | .kfault rd rs => Sys2Proof.Machine.execKfault rd rs s
  | .ksave rd rs1 rs2 => Sys2Proof.Machine.execKsave rd rs1 rs2 s
  | .resume => Sys2Proof.Machine.execResume s
  | .skipf => Sys2Proof.Machine.execSkipf s
  | .abandon => Sys2Proof.Machine.execAbandon s
  | .ctxkill rs => Sys2Proof.Machine.execCtxkill rs s
  | .view vwd ks rs => Sys2Proof.Machine.execView vwd ks rs s
  | .viewq rd vws n => Sys2Proof.Machine.execViewq rd vws n s
  | .slotid rd => Sys2Proof.Machine.execSlotid rd s
  | .tileid rd => Sys2Proof.Machine.execTileid rd s
  | .rerunMark rs => Sys2Proof.Machine.execRerunMark rs s
  | .pins kp rs1 rs2 => Sys2Proof.Machine.execPins kp rs1 rs2 s
  | .pinsK kp rs kv => Sys2Proof.Machine.execPinsK kp rs kv s
  | .ptakeNb kd kp rs => Sys2Proof.Machine.execPtakeNb kd kp rs s
  | .ptakeM kp rs => Sys2Proof.Machine.execPtakeM kp rs s
  | .pcfg kp rs => Sys2Proof.Machine.execPcfg kp rs s
  | .pstat rd kp n => Sys2Proof.Machine.execPstat rd kp n s
  | .pdrain rd rs => Sys2Proof.Machine.execPdrain rd rs s
  | .tnew kd ka rs => Sys2Proof.Machine.execTnew kd ka rs s
  | .tfree kd ka => Sys2Proof.Machine.execTfree kd ka s
  | .tsplit kd ks m => Sys2Proof.Machine.execTsplit kd ks m s
  | .tjoin kd ks => Sys2Proof.Machine.execTjoin kd ks s
  | .tnarrow kd ks rs => Sys2Proof.Machine.execTnarrow kd ks rs s
  | .tsend ks rs => Sys2Proof.Machine.execTsend ks rs s
  | .tsendShort ks tile chan => Sys2Proof.Machine.execTsendShort ks tile chan s
  | .tsendr rd ks rs => Sys2Proof.Machine.execTsendr rd ks rs s
  | .tinfo rd ks n => Sys2Proof.Machine.execTinfo rd ks n s
  | .tchk rd ks rs => Sys2Proof.Machine.execTchk rd ks rs s
  | .ldkB rd k imm => Sys2Proof.Machine.execLdkB rd k imm s
  | .ldkH rd k imm => Sys2Proof.Machine.execLdkH rd k imm s
  | .ldkW rd k imm => Sys2Proof.Machine.execLdkW rd k imm s
  | .ldkD rd k imm => Sys2Proof.Machine.execLdkD rd k imm s
  | .ldkBN rd k imm => Sys2Proof.Machine.execLdkBN rd k imm s
  | .ldkHN rd k imm => Sys2Proof.Machine.execLdkHN rd k imm s
  | .ldkWN rd k imm => Sys2Proof.Machine.execLdkWN rd k imm s
  | .ldkX rd k rs size zero => Sys2Proof.Machine.execLdkX rd k rs size zero s
  | .stkB rs k imm => Sys2Proof.Machine.execStkB rs k imm s
  | .stkH rs k imm => Sys2Proof.Machine.execStkH rs k imm s
  | .stkW rs k imm => Sys2Proof.Machine.execStkW rs k imm s
  | .stkD rs k imm => Sys2Proof.Machine.execStkD rs k imm s
  | .vldk vd k imm => Sys2Proof.Machine.execVldk vd k imm s
  | .vstk vs k imm => Sys2Proof.Machine.execVstk vs k imm s
  | .vgather vd k vi => Sys2Proof.Machine.execVgather vd k vi s
  | .vscatter vs k vi => Sys2Proof.Machine.execVscatter vs k vi s
  | .mvCopy rd rs => Sys2Proof.Machine.execMvCopy rd rs s
  | .mvGet rd rs => Sys2Proof.Machine.execMvGet rd rs s
  | .mvPut rd rs => Sys2Proof.Machine.execMvPut rd rs s
  | .mvXfer rd rs => Sys2Proof.Machine.execMvXfer rd rs s
  | .mvFill rd rs => Sys2Proof.Machine.execMvFill rd rs s
  | .mv2D rd rs => Sys2Proof.Machine.execMv2D rd rs s
  | .mvSlab rd rs => Sys2Proof.Machine.execMvSlab rd rs s
  | .amoAdd ord rd k rs => Sys2Proof.Machine.execAmoAdd ord rd k rs s
  | .amoMin ord n rd k rs => Sys2Proof.Machine.execAmoMin ord n rd k rs s
  | .amoMax ord n rd k rs => Sys2Proof.Machine.execAmoMax ord n rd k rs s
  | .amoAnd ord rd k rs => Sys2Proof.Machine.execAmoAnd ord rd k rs s
  | .amoOr ord rd k rs => Sys2Proof.Machine.execAmoOr ord rd k rs s
  | .amoXor ord rd k rs => Sys2Proof.Machine.execAmoXor ord rd k rs s
  | .amoSwap ord rd k rs => Sys2Proof.Machine.execAmoSwap ord rd k rs s
  | .amoCas ord rd k rs => Sys2Proof.Machine.execAmoCas ord rd k rs s
  | .amoFadd ord rd k rs => Sys2Proof.Machine.execAmoFadd ord rd k rs s
  | .amoLd ord rd k => Sys2Proof.Machine.execAmoLd ord rd k s
  | .amoSt ord k rs => Sys2Proof.Machine.execAmoSt ord k rs s
  | .amoV ord k rs => Sys2Proof.Machine.execAmoV ord k rs s
  | .amoWaitge ord n rd k rs => Sys2Proof.Machine.execAmoWaitge ord n rd k rs s
  | .nbOpen k rs => Sys2Proof.Machine.execNbOpen k rs s
  | .nbBcast rd rs => Sys2Proof.Machine.execNbBcast rd rs s
  | .nbRun rd rs => Sys2Proof.Machine.execNbRun rd rs s
  | .nbRead rd rs => Sys2Proof.Machine.execNbRead rd rs s
  | .nbClose k rs => Sys2Proof.Machine.execNbClose k rs s
  | .nbRcopy rd rs => Sys2Proof.Machine.execNbRcopy rd rs s
  | .nbZero rd k rs => Sys2Proof.Machine.execNbZero rd k rs s
  | .nbStat rd k rs => Sys2Proof.Machine.execNbStat rd k rs s
  | .vfadd p vd vs1 vs2 => Sys2Proof.Machine.execVfadd p vd vs1 vs2 s
  | .vfsub p vd vs1 vs2 => Sys2Proof.Machine.execVfsub p vd vs1 vs2 s
  | .vfmul p vd vs1 vs2 => Sys2Proof.Machine.execVfmul p vd vs1 vs2 s
  | .vfma p vd vs1 vs2 => Sys2Proof.Machine.execVfma p vd vs1 vs2 s
  | .vfms p vd vs1 vs2 => Sys2Proof.Machine.execVfms p vd vs1 vs2 s
  | .vfmax p vd vs1 vs2 => Sys2Proof.Machine.execVfmax p vd vs1 vs2 s
  | .vfmin p vd vs1 vs2 => Sys2Proof.Machine.execVfmin p vd vs1 vs2 s
  | .vfabs p vd vs1 => Sys2Proof.Machine.execVfabs p vd vs1 s
  | .vfneg p vd vs1 => Sys2Proof.Machine.execVfneg p vd vs1 s
  | .vfrcp p vd vs1 => Sys2Proof.Machine.execVfrcp p vd vs1 s
  | .vfrsq p vd vs1 => Sys2Proof.Machine.execVfrsq p vd vs1 s
  | .vfexp2 p vd vs1 => Sys2Proof.Machine.execVfexp2 p vd vs1 s
  | .vflog2 p vd vs1 => Sys2Proof.Machine.execVflog2 p vd vs1 s
  | .vfsig p vd vs1 => Sys2Proof.Machine.execVfsig p vd vs1 s
  | .vfgelu p vd vs1 => Sys2Proof.Machine.execVfgelu p vd vs1 s
  | .viadd p vd vs1 vs2 => Sys2Proof.Machine.execViadd p vd vs1 vs2 s
  | .visub p vd vs1 vs2 => Sys2Proof.Machine.execVisub p vd vs1 vs2 s
  | .vimul p vd vs1 vs2 => Sys2Proof.Machine.execVimul p vd vs1 vs2 s
  | .vimax p vd vs1 vs2 => Sys2Proof.Machine.execVimax p vd vs1 vs2 s
  | .vimin p vd vs1 vs2 => Sys2Proof.Machine.execVimin p vd vs1 vs2 s
  | .vand p vd vs1 vs2 => Sys2Proof.Machine.execVand p vd vs1 vs2 s
  | .vor p vd vs1 vs2 => Sys2Proof.Machine.execVor p vd vs1 vs2 s
  | .vxor p vd vs1 vs2 => Sys2Proof.Machine.execVxor p vd vs1 vs2 s
  | .vshl p vd vs1 vs2 => Sys2Proof.Machine.execVshl p vd vs1 vs2 s
  | .vshr p vd vs1 vs2 => Sys2Proof.Machine.execVshr p vd vs1 vs2 s
  | .vcmp p vd vs1 vs2 => Sys2Proof.Machine.execVcmp p vd vs1 vs2 s
  | .vsel vd vs1 vs2 => Sys2Proof.Machine.execVsel vd vs1 vs2 s
  | .vredf p rd vs1 op => Sys2Proof.Machine.execVredf p rd vs1 op s
  | .vredi p rd vs1 op => Sys2Proof.Machine.execVredi p rd vs1 op s
  | .vscan p vd vs1 op => Sys2Proof.Machine.execVscan p vd vs1 op s
  | .vperm vd vs1 vs2 => Sys2Proof.Machine.execVperm vd vs1 vs2 s
  | .vbcast vd vs1 rs2 => Sys2Proof.Machine.execVbcast vd vs1 rs2 s
  | .vslide vd vs1 rs2 => Sys2Proof.Machine.execVslide vd vs1 rs2 s
  | .vzip vd vs1 vs2 => Sys2Proof.Machine.execVzip vd vs1 vs2 s
  | .vunz vd vs1 vs2 => Sys2Proof.Machine.execVunz vd vs1 vs2 s
  | .vdot p rd vs1 vs2 => Sys2Proof.Machine.execVdot p rd vs1 vs2 s
  | .vmovx rd vs1 rs2 => Sys2Proof.Machine.execVmovx rd vs1 rs2 s
  | .vsetm vd vs1 cond => Sys2Proof.Machine.execVsetm vd vs1 cond s
  | .vfclass p vd vs1 => Sys2Proof.Machine.execVfclass p vd vs1 s
  | .vsplat p vd rs1 => Sys2Proof.Machine.execVsplat p vd rs1 s
  | .voutl vd rs1 => Sys2Proof.Machine.execVoutl vd rs1 s
  | .vcvt tag p vd vs1 => Sys2Proof.Machine.execVcvt tag p vd vs1 s
  | .mma z cd ma mb => Sys2Proof.Machine.execMma z cd ma mb s
  | .mmaB16 z cd ma mb => Sys2Proof.Machine.execMmaB16 z cd ma mb s
  | .mmaO cd ma mb => Sys2Proof.Machine.execMmaO cd ma mb s
  | .mmai z cd ma mb => Sys2Proof.Machine.execMmai z cd ma mb s
  | .mcvt i_ t md cs => Sys2Proof.Machine.execMcvt i_ t md cs s
  | .mzero cd => Sys2Proof.Machine.execMzero cd s
  | .mldc cd ms => Sys2Proof.Machine.execMldc cd ms s
  | .mstc md cs => Sys2Proof.Machine.execMstc md cs s
  | .mtrn d s_ => Sys2Proof.Machine.execMtrn d s_ s
  | .macca i_ cd ca cb => Sys2Proof.Machine.execMacca i_ cd ca cb s
  | .mstat clr rd cs => Sys2Proof.Machine.execMstat clr rd cs s
  | .halt => Sys2Proof.Machine.execHalt s
  | .act => Sys2Proof.Machine.execAct s
  | .mac16 a u r f => Sys2Proof.Machine.execMac16 a u r f s
  | .adds d a c => Sys2Proof.Machine.execAdds d a c s
  | .scale a e => Sys2Proof.Machine.execScale a e s
  | .nextrow => Sys2Proof.Machine.execNextrow s
  | .loop t n => Sys2Proof.Machine.execLoop t n s
  | .putacc a s_ => Sys2Proof.Machine.execPutacc a s_ s
  | .zondaFlitReceive src dst group lsn crcOk beats => Sys2Proof.Machine.execZondaFlitReceive src dst group lsn crcOk beats s
  | .laneRemoval src dst group lane => Sys2Proof.Machine.execLaneRemoval src dst group lane s
  | .retrainDone src dst group => Sys2Proof.Machine.execRetrainDone src dst group s
  | .linkFailure src dst withdrawn => Sys2Proof.Machine.execLinkFailure src dst withdrawn s
  | .lwctlEn f en => Sys2Proof.Machine.execLwctlEn f en s
  | .lwctlClrerr f => Sys2Proof.Machine.execLwctlClrerr f s
  | .lwtail f tail wrote => Sys2Proof.Machine.execLwtail f tail wrote s
  | .descriptorConsume f readError => Sys2Proof.Machine.execDescriptorConsume f readError s
  | .launchReoffer f i_ => Sys2Proof.Machine.execLaunchReoffer f i_ s
  | .launchDiscard f i_ => Sys2Proof.Machine.execLaunchDiscard f i_ s
  | .portFailure port => Sys2Proof.Machine.execPortFailure port s
  | .gatewayReceive via t => Sys2Proof.Machine.execGatewayReceive via t s
  | .powerGood phase => Sys2Proof.Machine.execPowerGood phase s
  | .getVersion => Sys2Proof.Machine.execGetVersion s
  | .getCapabilities => Sys2Proof.Machine.execGetCapabilities s
  | .negotiateAlgorithms => Sys2Proof.Machine.execNegotiateAlgorithms s
  | .getDigests => Sys2Proof.Machine.execGetDigests s
  | .getCertificate offset length => Sys2Proof.Machine.execGetCertificate offset length s
  | .challenge nonce => Sys2Proof.Machine.execChallenge nonce s
  | .getMeasurements index => Sys2Proof.Machine.execGetMeasurements index s
  | .accelIdOverride id => Sys2Proof.Machine.execAccelIdOverride id s
  | .clockStepDown die temp watts => Sys2Proof.Machine.execClockStepDown die temp watts s
  | .clockStepUp die temp => Sys2Proof.Machine.execClockStepUp die temp s
  | .thermalStop die temp => Sys2Proof.Machine.execThermalStop die temp s
  | .powerLimitSet watts => Sys2Proof.Machine.execPowerLimitSet watts s
  | .telemetryReport r => Sys2Proof.Machine.execTelemetryReport r s
  | .contextCreate r => Sys2Proof.Machine.execContextCreate r s
  | .contextEnd ctx => Sys2Proof.Machine.execContextEnd ctx s
  | .graphLoad g => Sys2Proof.Machine.execGraphLoad g s
  | .podLoad g pod => Sys2Proof.Machine.execPodLoad g pod s
  | .messageArrive src buf dst => Sys2Proof.Machine.execMessageArrive src buf dst s
  | .messageReoffer src buf dst => Sys2Proof.Machine.execMessageReoffer src buf dst s
  | .messageDiscard src buf dst => Sys2Proof.Machine.execMessageDiscard src buf dst s
  | .outboxGrant tile => Sys2Proof.Machine.execOutboxGrant tile s
  | .postDepart tile buf => Sys2Proof.Machine.execPostDepart tile buf s
  | .selection tile core => Sys2Proof.Machine.execSelection tile core s
  | .agePromotion tile entry => Sys2Proof.Machine.execAgePromotion tile entry s
  | .rspawnRequest id => Sys2Proof.Machine.execRspawnRequest id s
  | .rspawnReply id => Sys2Proof.Machine.execRspawnReply id s
  | .watchdogExpiry slot => Sys2Proof.Machine.execWatchdogExpiry slot s
  | .watchdogSecondExpiry slot => Sys2Proof.Machine.execWatchdogSecondExpiry slot s
  | .contextSwitch ctx => Sys2Proof.Machine.execContextSwitch ctx s
  | .contextSave ctx => Sys2Proof.Machine.execContextSave ctx s
  | .contextRestore ctx => Sys2Proof.Machine.execContextRestore ctx s
  | .domainCreate domain => Sys2Proof.Machine.execDomainCreate domain s
  | .domainDestroy domain => Sys2Proof.Machine.execDomainDestroy domain s
  | .pageWalkComplete cluster i_ => Sys2Proof.Machine.execPageWalkComplete cluster i_ s
  | .tlbInvalidate ctx lo hi => Sys2Proof.Machine.execTlbInvalidate ctx lo hi s
  | .migrationThreshold ctx va => Sys2Proof.Machine.execMigrationThreshold ctx va s
  | .pageMigrate ctx va ppn => Sys2Proof.Machine.execPageMigrate ctx va ppn s
  | .hbmRequest cluster line phase how => Sys2Proof.Machine.execHbmRequest cluster line phase how s
  | .rfmCommand stack pc bank domain => Sys2Proof.Machine.execRfmCommand stack pc bank domain s
  | .tokenRefill stack domain => Sys2Proof.Machine.execTokenRefill stack domain s
  | .atomicArrive id => Sys2Proof.Machine.execAtomicArrive id s
  | .waitgeRetry slot => Sys2Proof.Machine.execWaitgeRetry slot s
  | .atomicResend id => Sys2Proof.Machine.execAtomicResend id s
  | .atomicReply id => Sys2Proof.Machine.execAtomicReply id s
  | .trapEntry slot => Sys2Proof.Machine.execTrapEntry slot s
  | .hardwareError ctx slot => Sys2Proof.Machine.execHardwareError ctx slot s
  | .recordGrant => Sys2Proof.Machine.execRecordGrant s
  | .frctlEn f en => Sys2Proof.Machine.execFrctlEn f en s
  | .frstatDrops f => Sys2Proof.Machine.execFrstatDrops f s
  | .retryCompletion slot seq => Sys2Proof.Machine.execRetryCompletion slot seq s
  | .refuseCompletion slot seq => Sys2Proof.Machine.execRefuseCompletion slot seq s
  | .scoutEnd slot => Sys2Proof.Machine.execScoutEnd slot s
  | .logDrain tile => Sys2Proof.Machine.execLogDrain tile s
  | .jobStart tile num => Sys2Proof.Machine.execJobStart tile num s
  | .jobOperandsConsumed tile num => Sys2Proof.Machine.execJobOperandsConsumed tile num s
  | .jobDone tile num => Sys2Proof.Machine.execJobDone tile num s
  | .claimGrant tile => Sys2Proof.Machine.execClaimGrant tile s
  | .matrixStart tile => Sys2Proof.Machine.execMatrixStart tile s
  | .vectorStart tile => Sys2Proof.Machine.execVectorStart tile s
  | .poolTurn pool => Sys2Proof.Machine.execPoolTurn pool s
  | .poolReady pool die => Sys2Proof.Machine.execPoolReady pool die s
  | .poolCut pool die => Sys2Proof.Machine.execPoolCut pool die s
  | .poolReport pool die => Sys2Proof.Machine.execPoolReport pool die s
  | .poolInsertArrive id => Sys2Proof.Machine.execPoolInsertArrive id s
  | .poolTakeArrive id => Sys2Proof.Machine.execPoolTakeArrive id s
  | .stealRequest id victim => Sys2Proof.Machine.execStealRequest id victim s
  | .stealBatch id => Sys2Proof.Machine.execStealBatch id s
  | .rebalanceTransfer pool i_ => Sys2Proof.Machine.execRebalanceTransfer pool i_ s
  | .refillComplete pool die lost => Sys2Proof.Machine.execRefillComplete pool die lost s
  | .poolInsertReoffer id => Sys2Proof.Machine.execPoolInsertReoffer id s
  | .poolInsertDiscard id => Sys2Proof.Machine.execPoolInsertDiscard id s
  | .arbitrationWindow tile num => Sys2Proof.Machine.execArbitrationWindow tile num s
  | .retireRequest stack => Sys2Proof.Machine.execRetireRequest stack s
  | .shrinkConfirm => Sys2Proof.Machine.execShrinkConfirm s
  | .shrinkTimeout => Sys2Proof.Machine.execShrinkTimeout s
  | .livecapLower => Sys2Proof.Machine.execLivecapLower s
  | .foehnStep => Sys2Proof.Machine.execFoehnStep s
  | .retireComplete => Sys2Proof.Machine.execRetireComplete s
  | .registerWrite r value => Sys2Proof.Machine.execRegisterWrite r value s
  | .refreshManagementEnd stack pc bank => Sys2Proof.Machine.execRefreshManagementEnd stack pc bank s
  | .matrixOperandsConsumed tile => Sys2Proof.Machine.execMatrixOperandsConsumed tile s
  | .matrixComplete tile => Sys2Proof.Machine.execMatrixComplete tile s
  | .vectorComplete tile => Sys2Proof.Machine.execVectorComplete tile s
  | .lineCachePrefetch cluster ctx va => Sys2Proof.Machine.execLineCachePrefetch cluster ctx va s
  | .pageTableChange ctx va level pte => Sys2Proof.Machine.execPageTableChange ctx va level pte s
  | .supervisorQueueDrain world => Sys2Proof.Machine.execSupervisorQueueDrain world s
  | .signedComponentLoad component signed => Sys2Proof.Machine.execSignedComponentLoad component signed s
  | .cxlMemRequest write pa bytes => Sys2Proof.Machine.execCxlMemRequest write pa bytes s

end Sys2Proof.Machine
end

