-- ==== Sys2Proof/Machine/Pairs.lean ====
section
/-! DEFINITION. Pairs (R183, R184): the issue classes, the registers that the second word of a pair reads and those that the first
writes, and whether the second word issues in the same turn. -/

namespace Sys2Proof.Machine

/-! ### Issue classes (R183) -/

/-- A major opcode: bits [6:0]. -/
def majorOf (w : BitVec 32) : BitVec 7 := w.extractLsb' 0 7

/-- OP, OP-IMM, OP-32, OP-IMM-32, LUI and AUIPC, the integer opcodes of the arithmetic class. -/
def integerWord (w : BitVec 32) : Bool := [0x33, 0x13, 0x3B, 0x1B, 0x37, 0x17].contains (majorOf w).toNat

/-- The arithmetic class: custom-2, custom-3 and the integer opcodes. Every other major opcode is control-and-memory. -/
def arithWord (w : BitVec 32) : Bool := integerWord w || majorOf w == 0x5B || majorOf w == 0x7B

/-! ### Registers (R184) -/

/-- The registers that both a first word can write and a second word read: x, v (31 is vin), vw and k. -/
inductive PairReg where
  | x (r : XReg)
  | v (n : Nat)
  | vw (r : VwReg)
  | k (r : KReg)
  deriving DecidableEq, Repr

/-- A list of registers without x0, which nothing writes. -/
def xRegs (rs : List XReg) : List PairReg := (rs.filter (fun r => r != 0)).map PairReg.x

/-- The x register that a word of the first place writes. -/
def firstX : Instr → Option XReg
  | .lui rd _ | .auipc rd _ | .jal rd _ => some rd
  | .jalr rd _ _ => some rd
  | .lb rd _ _ | .lh rd _ _ | .lw rd _ _ | .ld rd _ _ | .lbu rd _ _ | .lhu rd _ _ | .lwu rd _ _ => some rd
  | .addi rd _ _ | .slti rd _ _ | .sltiu rd _ _ | .xori rd _ _ | .ori rd _ _ | .andi rd _ _ | .addiw rd _ _ => some rd
  | .slli rd _ _ | .srli rd _ _ | .srai rd _ _ => some rd
  | .slliw rd _ _ | .srliw rd _ _ | .sraiw rd _ _ => some rd
  | .add rd _ _ | .sub rd _ _ | .sll rd _ _ | .slt rd _ _ | .sltu rd _ _ | .xor rd _ _ | .srl rd _ _ | .sra rd _ _ | .or rd _ _
  | .and rd _ _ | .addw rd _ _ | .subw rd _ _ | .sllw rd _ _ | .srlw rd _ _ | .sraw rd _ _ | .mul rd _ _ | .mulh rd _ _
  | .mulhsu rd _ _ | .mulhu rd _ _ | .div rd _ _ | .divu rd _ _ | .rem rd _ _ | .remu rd _ _ | .mulw rd _ _ | .divw rd _ _
  | .divuw rd _ _ | .remw rd _ _ | .remuw rd _ _ => some rd
  | .csrrw rd _ _ | .csrrs rd _ _ | .csrrc rd _ _ => some rd
  | .csrrwi rd _ _ | .csrrsi rd _ _ | .csrrci rd _ _ => some rd
  | .rspawn rd _ _ | .ksave rd _ _ => some rd
  | .recv rd _ _ => some rd
  | .chpop rd _ | .chcnt rd _ | .waitj rd _ | .jstat rd _ | .kfault rd _ | .pdrain rd _ => some rd
  | .semTry rd _ => some rd
  | .viewq rd _ _ => some rd
  | .slotid rd | .tileid rd => some rd
  | .pstat rd _ _ => some rd
  | .tsendr rd _ _ | .tchk rd _ _ => some rd
  | .tinfo rd _ _ => some rd
  | .ldkB rd _ _ | .ldkH rd _ _ | .ldkW rd _ _ | .ldkD rd _ _ | .ldkBN rd _ _ | .ldkHN rd _ _ | .ldkWN rd _ _ => some rd
  | .ldkX rd _ _ _ _ => some rd
  | .mvCopy rd _ | .mvGet rd _ | .mvPut rd _ | .mvXfer rd _ | .mvFill rd _ | .mv2D rd _ | .mvSlab rd _ => some rd
  | .amoAdd _ rd _ _ | .amoAnd _ rd _ _ | .amoOr _ rd _ _ | .amoXor _ rd _ _ | .amoSwap _ rd _ _ | .amoCas _ rd _ _
  | .amoFadd _ rd _ _ => some rd
  | .amoMin _ _ rd _ _ | .amoMax _ _ rd _ _ | .amoWaitge _ _ rd _ _ => some rd
  | .amoLd _ rd _ => some rd
  | .nbBcast rd _ | .nbRun rd _ | .nbRead rd _ | .nbRcopy rd _ => some rd
  | .nbZero rd _ _ | .nbStat rd _ _ => some rd
  | _ => none

/-- The views that a control-and-memory word names in its source fields; of them vin counts as written, for it pops the channel. -/
def memoryViews : Instr → List VReg
  | .sendv _ vs => [vs]
  | .vstk vs _ _ => [vs]
  | .vgather _ _ vi => [vi]
  | .vscatter vs _ vi => [vs, vi]
  | _ => []

/-- The title registers that a word writes by its own fields, be it that it empties them. -/
def firstK : Instr → List KReg
  | .tnew kd _ _ => [kd]
  | .tfree kd _ => [kd]
  | .tsplit kd _ _ => [kd]
  | .tjoin kd ks => [kd, ks]
  | .tnarrow kd ks _ => [kd, ks]
  | .tsend ks _ => [ks]
  | .tsendShort ks _ _ => [ks]
  | .tsendr _ ks _ => [ks]
  | .pinsK _ _ kv => [kv]
  | .ptakeNb kd _ _ => [kd]
  | _ => []

/-- The title registers whose contents a word has changed: those that `RECV` filled, and those that the card of a job names. [log 69 DEDUCED] -/
def changedK (v u : Slot) : List PairReg :=
  ((List.range 16).map (BitVec.ofNat 4)).filterMap (fun r => if v.kr r = u.kr r then none else some (.k r))

/-- The registers that the first word of a pair writes. -/
def firstWrites (i : Instr) : List PairReg :=
  xRegs (firstX i).toList ++ (firstK i).map .k ++ (if (memoryViews i).contains vin then [.v 31] else []) ++
  (match i with
  | .vldk vd _ _ => [.v vd.toNat]
  | .vgather vd _ _ => [.v vd.toNat]
  | .view vwd _ _ => [.vw vwd]
  | _ => [])

/-- The x registers that an integer word reads. -/
def integerReads : Instr → List XReg
  | .addi _ a _ | .slti _ a _ | .sltiu _ a _ | .xori _ a _ | .ori _ a _ | .andi _ a _ | .addiw _ a _ => [a]
  | .slli _ a _ | .srli _ a _ | .srai _ a _ => [a]
  | .slliw _ a _ | .srliw _ a _ | .sraiw _ a _ => [a]
  | .add _ a b | .sub _ a b | .sll _ a b | .slt _ a b | .sltu _ a b | .xor _ a b | .srl _ a b | .sra _ a b | .or _ a b
  | .and _ a b | .addw _ a b | .subw _ a b | .sllw _ a b | .srlw _ a b | .sraw _ a b | .mul _ a b | .mulh _ a b
  | .mulhsu _ a b | .mulhu _ a b | .div _ a b | .divu _ a b | .rem _ a b | .remu _ a b | .mulw _ a b | .divw _ a b
  | .divuw _ a b | .remw _ a b | .remuw _ a b => [a, b]
  | _ => []

/-- The view registers under which a matrix word locates and interprets its operands (R214, R291). -/
def matrixReads : Instr → List VwReg
  | .mma _ _ _ _ | .mmaB16 _ _ _ _ => [1, 2]
  | .mmaO _ (.c _) _ => [1, 2]
  | .mmaO _ (.m _) _ => [1, 2, 3]
  | .mmai _ _ _ _ => [1, 2]
  | .mcvt _ _ _ _ => [1, 3]
  | .mldc _ _ | .mstc _ _ => [1]
  | .mtrn (.m _) _ => [1]
  | _ => []

/-- The title register of the list that a matrix word opens (R291). [log 69 DEDUCED] -/
def matrixList (vw : Vector View 4) (i : Instr) : List PairReg := match (mplan vw i).list with
  | some (n, _) => [.k vw[n.toNat].olk]
  | none => []

/-- The title register of the list that a vector word opens (R213, R259). [log 69 DEDUCED] -/
def vectorList (vw0 : View) (h : VShape) : Instr → List PairReg
  | .voutl _ _ => [.k vw0.olk]
  | _ => if h.appends vw0 then [.k vw0.olk] else []

/-- The registers that a vector word reads: vw0, its sources, v0 as a mask, and the views whose inactive lanes stay (R253, R257). -/
def vectorReads (vw0 : View) (i : Instr) : List PairReg :=
  match vshape ((fmtOf vw0.fmt).getD fmtF) i with
  | some h =>
    .vw 0 :: xRegs h.reads ++ h.srcs.map .v ++ (if h.readsMask then [.v 0] else []) ++ (if keepsLane h.mode then h.dsts.map .v else []) ++
      vectorList vw0 h i
  | none => []

/-- The registers that the second word of a pair reads. -/
def secondReads (vw : Vector View 4) (i : Instr) : List PairReg :=
  xRegs (integerReads i) ++ (matrixReads i).map .vw ++ matrixList vw i ++ vectorReads vw[0] i

/-- The second word of a pair issues in the first one's cycle (R184); `more` are registers that the first has written beside those its fields
name. [log 69 DEDUCED] -/
def pairs (vw : Vector View 4) (more : List PairReg) (w1 w2 : BitVec 32) : Bool :=
  (!arithWord w1 || integerWord w1) && arithWord w2 &&
  (match decode w1, decode w2 with
  | some i, some j => (secondReads vw j).all (fun r => !(firstWrites i ++ more).contains r)
  | some _, none => true
  | none, _ => false)

/-! ### The second word's turn -/

/-- From s to t slot i has carried out the word at its PC and stands at the next word: no trap, jump, taken branch or wait. -/
def State.wentOn (s t : State) (i : SlotId) : Bool :=
  let v := s.slot i
  let u := t.slot i
  v.scout.isNone && u.mayIssue && u.scout.isNone && u.ending.isNone && u.serial == v.serial &&
  u.instret == v.instret + 1 && u.pc == v.pc + 4

/-- From s to t slot i has carried out the first word of a pair, whose second word issues in the same turn (R184): the word at
8n + 4 is there to fetch, and the classes and registers of the two admit it. [log 69 DEDUCED] -/
def State.pairIssues (s t : State) (i : SlotId) : Bool :=
  (s.slot i).pc.toNat % 8 == 0 && s.wentOn t i &&
  (match (t.enter i).fetch i with
  | .ok (w, _) => pairs (t.slot i).vw (changedK (s.slot i) (t.slot i)) (t.slot i).insn w
  | .error _ => false)

end Sys2Proof.Machine
end

