-- ==== Sys2Proof/Machine/Timers.lean ====
section
/-! DEFINITION. What passes with time in every step: the counters of R173, and the times that R50, R52, R63, R119, R204, R248, R312,
R375 and R378 count. How long a step lasts is free (log 4). -/

namespace Sys2Proof.Machine

/-- The cycles since a copy was offered and first refused (R50). [log 35 DEDUCED] -/
def Copy.tick (n : Nat) (c : Copy) : Copy :=
  { c with sinceOffer := c.sinceOffer + n, sinceRefusal := if c.refused then c.sinceRefusal + n else 0 }

/-- AGE counts while the entry is runnable and unchosen; the last count before 4096 stays until AGE_PROMOTION (R52). [log 28 DEDUCED] -/
def Entry.tick (n : Nat) (e : Entry) : Entry := { e with age := BitVec.ofNat 12 (Nat.min 4095 (e.age.toNat + n)) }

/-- The cycles of a tile: ages and copies. -/
def State.tickTile (s : State) (n : Nat) (t : BitVec 10) (v : Tile) : Tile :=
  { v with
    entries := v.entries.map (fun e => if s.runnable t (BitVec.ofNat 6 e.1) then (e.1, e.2.tick n) else e)
    outbox := v.outbox.map (fun b => (b.1, { b.2 with copies := b.2.copies.map (Copy.tick n) })) }

/-- The slot with a number (R8). -/
def slotOfNum (n : Nat) : SlotId := ⟨BitVec.ofNat 10 (n / 8), n / 4 % 2 == 1, BitVec.ofNat 2 n⟩

/-- The watchdog counts core cycles while it is not stopped (R63, R377). [log 47 DEDUCED] -/
def State.tickSlot (s : State) (n : Nat) (i : SlotId) (v : Slot) : Slot :=
  if v.busy && !v.wdogOver && !s.watchStopped i then { v with wdog := v.wdog + n } else v

/-- A request ages; the cycles of a refused insert count from its first refusal (R322). [log 35 DEDUCED] -/
def Req.tick (n ns : Nat) (r : Req) : Req :=
  { r with age := r.age + ns, sinceOffer := r.sinceOffer + n
           sinceRefusal := if r.state = .notParked ∨ r.sinceRefusal > 0 then r.sinceRefusal + n else 0 }

/-- The cycles of a stored launch (R375). [log 35 DEDUCED] -/
def Stored.tick (n : Nat) (x : Stored) : Stored :=
  { x with sinceOffer := x.sinceOffer + n, sinceRefusal := if x.refused then x.sinceRefusal + n else 0 }

/-- What a step lasts (log 4): core clocks of each die, ticks of the reference, nanoseconds. -/
structure Span where
  clocks : BitVec 3 → Nat
  ticks : Nat
  ns : Nat

/-- One step has passed; what counts core clocks counts those of its die (R12, R40, R173), and the host port and Etesian those of die
D0. [log 4 DESIGN CHOICE] -/
def State.pass (s : State) (n : Span) : State :=
  { s with
    slots := s.slots.map (fun e => (e.1, s.tickSlot (n.clocks (dieOf (slotOfNum e.1).tile)) (slotOfNum e.1) e.2))
    tiles := s.tiles.map (fun e => (e.1, s.tickTile (n.clocks (dieOf (BitVec.ofNat 10 e.1))) (BitVec.ofNat 10 e.1) e.2))
    reqs := s.reqs.map (fun r => r.tick (n.clocks (dieOf r.src.tile)) n.ns)
    pools := s.pools.map (fun e => (e.1, { e.2 with sinceCut := e.2.sinceCut + n.clocks 0 }))
    funcs := s.funcs.map (fun e => (e.1, { e.2 with store := e.2.store.map (Stored.tick (n.clocks 0)) }))
    links := s.links.map (fun e => (e.1, e.2.tick n.ns))
    board := { s.board with sinceClock := s.board.sinceClock.map (· + n.ns), sinceReport := s.board.sinceReport + n.ns }
    hbm := { s.hbm with sinceRequest := s.hbm.sinceRequest + n.ns, sinceRefill := s.hbm.sinceRefill.map (fun e => (e.1, e.2 + n.ns)) }
    cycles := Vector.ofFn (fun d => s.cycles[d] + BitVec.ofNat 64 (n.clocks (BitVec.ofNat 3 d.val)))
    time := s.time + BitVec.ofNat 64 n.ticks
    ticks := s.ticks + 1 }

/-- How long the next step lasts, as Config says. -/
def State.span (s : State) : Span :=
  { clocks := fun d => Config.stepCycles s.ticks d.toNat s.board.clocks[d.toNat], ticks := Config.stepTime s.ticks
    ns := Config.stepNs s.ticks }

/-- Time passes, and titles whose release had to wait are released where they can be (R83). [log 4 DESIGN CHOICE] -/
def State.tick (s : State) : State := (s.pass s.span).sweepLate

end Sys2Proof.Machine
end

