-- ==== Sys2Proof/Machine/Turns.lean ====
section
/-! DEFINITION. One turn (log 1): what the agenda names, or, where it names nothing, one of the parties inside the package that could
move: a unit, a running microprogram, or of each core the next slot of R376. -/

namespace Sys2Proof.Machine

/-! ### The core's turn (R376) -/

/-- Slot i carries out its instruction, or waits at it. -/
def State.issueTurn (s : State) (i : SlotId) : Out := match s.issue i with
  | (some ins, s') => exec ins s'
  | (none, s') => .next s'

/-- After its first word slot i issues the second word of the pair, where the two issue together (R184): what it does then. -/
def State.withPair (s : State) (i : SlotId) : Out → Out
  | .next t => if s.pairIssues t i then t.issueTurn i else .next t
  | o => o

/-- A state without what every turn of a slot leaves behind, whether it did something or not. -/
def State.quiet (s : State) : State :=
  { s with cur := ⟨0, false, 0⟩, curJob := none, tiles := s.tiles.map (fun e => (e.1, { e.2 with issueS := 3, issueC := 3 })) }

/-- Whether a turn does something. -/
def State.moves (s : State) (f : State → Out) : Bool := match f s with
  | .next s' => s'.quiet != s.quiet
  | _ => true

/-- A state without what even the fetch of an instruction that waits leaves behind: counts of activations and of errors, budgets, counts of
accesses, requests at the base dies, and their flits. -/
def State.uncounted (s : State) : State :=
  { s with hbm := { s.hbm with actCounts := [], tokens := [], rfmBy := [], corrected := [], waiting := [], granted := [] }
           board := { s.board with migCounts := [] }, links := [] }

/-- Slot i has an instruction ready to issue: it waits for nothing. [log 1 DESIGN CHOICE] -/
def State.ready (s : State) (i : SlotId) : Bool := (s.slot i).busy && (match s.issueTurn i with
  | .next s' => s'.quiet.uncounted != s.quiet.uncounted
  | _ => true)

/-- The slot that a core issued from last. -/
def State.lastIssued (s : State) (t : BitVec 10) (core : Bool) : BitVec 2 := if core then (s.tile t).issueC else (s.tile t).issueS

/-- The slots of its core that are counted before slot i, onwards from the one that issued last. -/
def State.countedBefore (s : State) (i : SlotId) : List SlotId :=
  (((List.range 4).map (fun n => s.lastIssued i.tile i.core + BitVec.ofNat 2 (n + 1))).takeWhile (fun x => x != i.slot)).map
    (fun x => ⟨i.tile, i.core, x⟩)

/-- It is slot i's turn: no slot counted before it is ready. [log 1 DESIGN CHOICE] -/
def State.inTurn (s : State) (i : SlotId) : Bool := (s.countedBefore i).all (fun j => !s.ready j)

/-- A slot that waits takes no turn: the core counts on from slot i only where i has issued, so that something of its state beside the
fetched word has changed. [log 1 DESIGN CHOICE] -/
def State.counted (s : State) (i : SlotId) : Out → Out
  | .next s' => .next (if { s'.slot i with insn := 0 } = { s.slot i with insn := 0 } then s' else s'.issued i)
  | o => o

/-- The core issues a word, or a pair, from slot i, where it is that slot's turn. [log 69 DEDUCED] -/
def State.issueIn (s : State) (i : SlotId) : Out :=
  if s.inTurn i then s.counted i (s.withPair i (s.issueTurn i)) else .next s

/-- A turn: a slot issues, a micro-instruction runs, a well-formed event happens. [log 1 DESIGN CHOICE] -/
def State.take (s : State) (u : Turn) : Out :=
  match u with
  | .issue i => s.issueIn i
  | .micro t n => match s.microIssue t n with
    | (some ins, s') => exec ins s'
    | (none, s') => .next s'
  | .unit i => if i.wf && (encode i).isNone then exec i s else .next s

/-! ### Who could move -/

/-- A turn as what it does. -/
abbrev Move := State → Out

def nats (n : Nat) : List Nat := List.range n
def tileNos {α : Type} (m : Map α) : List (BitVec 10 × α) := m.map (fun e => (BitVec.ofNat 10 e.1, e.2))

/-- The flits on their way over a link, and step 5 of a start (R18, R35). -/
def State.boardEvents (s : State) : List Move :=
  (if s.board.image.isSome then [execPowerGood .release] else []) ++
  s.links.flatMap (fun e => e.2.replay.map (fun f =>
    execZondaFlitReceive (BitVec.ofNat 3 (e.1 / 8)) (BitVec.ofNat 3 e.1) f.group f.lsn true (stripe (e.2.group f.group).mask f.bytes)))

/-- The events of a tile: selection, outbox, units, staging (chapters 03, 05, 09, 19, 21). -/
def tileEvents (t : BitVec 10) (v : Tile) : List Move :=
  [execSelection t false, execSelection t true, execOutboxGrant t, execClaimGrant t, execMatrixStart t, execMatrixOperandsConsumed t,
   execMatrixComplete t, execVectorStart t, execVectorComplete t, execLogDrain t] ++
  v.entries.map (fun e => execAgePromotion t (BitVec.ofNat 6 e.1)) ++
  v.outbox.flatMap (fun b => execPostDepart t b.1 :: b.2.copies.flatMap (fun c =>
    [execMessageArrive t b.1 c.tile, execMessageReoffer t b.1 c.tile, execMessageDiscard t b.1 c.tile]))

/-- The events of a slot. -/
def slotEvents (i : SlotId) : List Move :=
  [execTrapEntry i, execWatchdogExpiry i, execWatchdogSecondExpiry i, execScoutEnd i, execWaitgeRetry i]

/-- The events of a cluster: its walks, and the threshold of migrating pages (R100, R103). -/
def clusterEvents (c : BitVec 6) (v : Cluster) : List Move :=
  (nats v.walks.length).map (fun n => execPageWalkComplete c n) ++
  v.tlb.map (fun e => execMigrationThreshold e.ctx (BitVec.ofNat 56 e.va))

/-- The events of a request (R60, R119, R310 to R326). -/
def reqEvents (r : Req) : List Move :=
  [execRspawnRequest r.id, execRspawnReply r.id, execAtomicArrive r.id, execAtomicResend r.id, execAtomicReply r.id,
   execPoolInsertArrive r.id, execPoolTakeArrive r.id, execStealBatch r.id, execPoolInsertReoffer r.id, execPoolInsertDiscard r.id] ++
  (nats 8).map (fun d => execStealRequest r.id (BitVec.ofNat 3 d))

/-- The events of a pool (R312 to R318, R322). -/
def poolEvents (p : BitVec 6) (v : Pool) : List Move :=
  execPoolTurn p :: (nats v.moving.length).map (fun n => execRebalanceTransfer p n) ++
  v.moving.filterMap (fun t => t.for_.map execStealBatch) ++
  (nats 8).flatMap (fun n =>
    let d := BitVec.ofNat 3 n
    [execPoolReady p d, execPoolCut p d, execPoolReport p d, execRefillComplete p d []])

/-- The events of a job (R237, R238, R341). -/
def jobEvents (j : Job) : List Move :=
  [execJobStart j.tile j.num, execJobOperandsConsumed j.tile j.num, execArbitrationWindow j.tile j.num, execJobDone j.tile j.num]

/-- The events of a function's launch window (R28, R375). -/
def funcEvents (f : BitVec 5) (v : Func) : List Move :=
  execDescriptorConsume f false :: (nats v.store.length).flatMap (fun n => [execLaunchReoffer f n, execLaunchDiscard f n])

/-- The events of the base dies, refresh-management commands among them (R110, R111, R359 to R362, R378). -/
def State.baseEvents (s : State) : List Move :=
  [execShrinkTimeout, execLivecapLower, execFoehnStep, execRetireComplete] ++
  s.hbm.rfmBy.map (fun e => execRfmCommand (BitVec.ofNat 4 (e.1 / 1024)) (BitVec.ofNat 6 (e.1 / 16)) (BitVec.ofNat 4 e.1) e.2) ++
  s.hbm.rfm.map (fun x => execRefreshManagementEnd x.1 x.2.1 x.2.2) ++
  (s.domains.flatMap (fun d => (nats 16).map (fun n => execTokenRefill (BitVec.ofNat 4 n) (BitVec.ofNat 10 d.1))))

/-- Every event that needs no outside party. [log 1 DESIGN CHOICE] -/
def State.inside (s : State) : List Move :=
  execRecordGrant :: (tileNos s.tiles).flatMap (fun e => tileEvents e.1 e.2) ++
  s.slots.flatMap (fun e => slotEvents (slotOfNum e.1)) ++
  s.clusters.flatMap (fun e => clusterEvents (BitVec.ofNat 6 e.1) e.2) ++ s.reqs.flatMap reqEvents ++
  s.pools.flatMap (fun e => poolEvents (BitVec.ofNat 6 e.1) e.2) ++ s.jobs.flatMap jobEvents ++
  s.funcs.flatMap (fun e => funcEvents (BitVec.ofNat 5 e.1) e.2) ++ s.boardEvents ++ s.baseEvents

/-- R376: the slot that a core issues from next, counting on from the one that issued last. -/
def State.nextSlot (s : State) (t : BitVec 10) (core : Bool) : Option Move :=
  (((nats 4).map (fun n => (⟨t, core, s.lastIssued t core + BitVec.ofNat 2 (n + 1)⟩ : SlotId))).find? s.ready).map
    (fun i => fun (s : State) => s.issueIn i)

/-- The microprograms that run. -/
def State.microMoves (s : State) : List Move :=
  (s.jobs.filter (fun j => j.kind == .run && j.status == 1)).map (fun j => fun (s : State) => s.take (.micro j.tile j.num))

/-- Every turn that could be taken now. [log 1 DESIGN CHOICE] -/
def State.couldMove (s : State) : List Move :=
  (s.inside ++ s.microMoves).filter s.moves ++
  (tileNos s.tiles).flatMap (fun e => (s.nextSlot e.1 false).toList ++ (s.nextSlot e.1 true).toList)

/-- The turn taken where the agenda names none: a free choice (log 1). Where nothing could move, nothing does. [log 1 DESIGN CHOICE] -/
def State.freeTurn (s : State) : Out := match s.couldMove with
  | [] => .next s
  | [f] => f s
  | fs => match fs[Config.turn s.ticks % fs.length]? with
    | some f => f s
    | none => .next s

end Sys2Proof.Machine
end

