-- ==== Sys2Proof/Machine/Step.lean ====
section
/-! DEFINITION. One step of the package: one turn, and the time it takes (log 1, log 4). -/

namespace Sys2Proof.Machine

/-- What keeps every unit still until the next power-good (R35, R40). [log 56 DEDUCED] -/
def State.barred (s : State) : Option Fault :=
  if s.board.stopped then some .packageStopped else if s.board.halted then some .bootHalted else none

/-- Whether the next turn is a power-good, the one turn that a package which stands still takes. [log 56 DEDUCED] -/
def isPowerGood : List Turn → Bool
  | .unit (.powerGood (.start _)) :: _ => true
  | _ => false

/-- One turn: of the agenda's first, else a free one. -/
def State.turn (s : State) : Out := match s.agenda with
  | u :: us => State.take { s with agenda := us } u
  | [] => s.freeTurn

/-- Time passes after a turn. -/
def passed : Out → Out
  | .next s => .next s.tick
  | o => o

/-- One step: a machine that stands still stops, any other takes a turn, and time passes. [log 1 DESIGN CHOICE] -/
def step (s : State) : Host.Outcome State Fault Refusal :=
  match s.barred, isPowerGood s.agenda with
  | some f, false => .fault f
  | _, _ => passed s.turn

/-! ### An instruction to fetch -/

/-- Where the host's instruction is fetched: slot 0 of the C-core of tile 0, at the first byte of its code. [log 8 DESIGN CHOICE] -/
def fetchSlot : SlotId := ⟨0, true, 0⟩
def fetchPcAt : BitVec 56 := 0x10000

/-- A context that runs, an entry whose code is one page at `fetchPcAt`, its translation, and a firing there with its turn next; the
word in HBM (the load of a program from outside, log 8). [log 8 DESIGN CHOICE] -/
def State.withFetchCore (s : State) (w : Nat) : State :=
  let e : TlbEntry := { ctx := 0, va := fetchPcAt.toNat, size := 4096, pa := 0, mode := 0, peer := 0x3FF, thr := 0, rp := true,
                        wp := false, xp := true, leaf := 0 }
  let s : State := { s with hbm := { s.hbm with liveMask := 1, liveCap := BitVec.ofNat 40 (48 * 2 ^ 30), state := 0, rfm := [] }
                            board := { s.board with ready := true, stopped := false, halted := false }
                            units := drop s.units 0, domains := drop s.domains 0, agenda := [.issue fetchSlot] }
  let s := s.modCtx 0 (fun c => { c with state := 1, world := false, domain := 0 })
  let s := s.modCluster 0 (fun c => { c with tlb := [e] })
  let s := s.modEntry 0 0 (fun v => { v with valid := true, cclass := true, codeLo := fetchPcAt, codeHi := fetchPcAt + 4096,
                                             entryPc := fetchPcAt, trapPc := fetchPcAt, wdog := 1024 })
  let s := s.store 0 (leBytes 4 w)
  s.setSlot fetchSlot { busy := true, pc := fetchPcAt.setWidth 64, serial := 1, chainId := 1, chain := 1 }

/-- A micro-instruction as the first word of a running microprogram on granule 0, with its turn next. [log 8 DESIGN CHOICE] -/
def State.withFetchMicro (s : State) (w : Nat) (i : Instr) : State :=
  let j : Job := { tile := 0, num := 1, core := true, slot := 0, chainId := 1, ctx := 0, kind := .run, card := {}, status := 1,
                   prog := [BitVec.ofNat 32 w, 0], gran := some 0 }
  let g : Gran := { stack := 0, off := 0, g := 0, rowOpen := i != .act, opener := fetchSlot, chainId := 1, ctx := 0, index := 0, domain := 0 }
  let s := s.withFetchCore 0x13
  { s with jobs := [j], grans := [g], agenda := [.micro 0 1] }

/-- The state in which step fetches and runs the instruction w next. [log 8 DESIGN CHOICE] -/
def State.withFetchWord (s : State) (nbits w : Nat) : State :=
  let v := w % 2 ^ nbits
  match decode (BitVec.ofNat 32 v), decodeMicro (BitVec.ofNat 32 v) with
  | none, some i => s.withFetchMicro v i
  | _, _ => s.withFetchCore v

end Sys2Proof.Machine
end

