-- ==== Sys2Proof/Safety.lean ====
section
/-! DEFINITION. What the statements call a good state and a good run. -/

namespace Sys2Proof.Machine

/-- Memory has its canonical form (log 3). -/
def State.MemOk (s : State) : Prop := Memory_wf s.mem = true

/-- The power limit and the clocks lie within the bounds of R40. -/
def State.PowerOk (s : State) : Prop :=
  1600 ≤ s.board.powerLimit ∧ s.board.powerLimit ≤ 3200 ∧ ∀ d : Fin 8, s.board.clocks[d] ≤ 2000

/-- An instruction or event runs: exec answers a next state, neither a fault nor a refusal. -/
def Runs (i : Instr) (s t : State) : Prop := exec i s = .next t

/-- Nothing holds up an instruction of the running slot that reads `reads`: no scout runs, none of these registers awaits a reply
(R247), and none carries a poison or indeterminate mark (R109). -/
def State.Ready (s : State) (reads : List XReg) : Prop :=
  s.me.scout = none ∧ ∀ r ∈ reads, r ≠ 0 → s.me.due[r.toNat] = none ∧ s.me.poisonMark r = false ∧ s.me.indetMark r = false

/-- What taking the precise fault c at slot i leaves (R125, R126, R132): the handler's registers, the frame with its record, and
everything else of the slot, every other slot and memory as before. -/
structure EntersHandler (s t : State) (i : SlotId) (c : TrapInfo) (rec : FaultRec) : Prop where
  record : rec = { typ := 0, cause := c.cause, ctx := (s.slot i).ctx, tile := i.tile, core := i.core, slot := i.slot,
                   entry := (s.slot i).entry, retry := false, inl := !(s.slot i).links.isEmpty, addrKind := c.addrKind, seq := 0,
                   pc := (s.slot i).pc.setWidth 56, addr := c.addr, tindex := c.tindex, tgen := c.tgen, insn := (s.slot i).insn,
                   time := s.time, peer := c.peer, info := c.info, scout := [] }
  mode : (t.slot i).handler = true
  pc : (t.slot i).pc = (s.entryOf i).trapPc.setWidth 64
  x : ∀ q : XReg, (t.slot i).xr q =
    if q = 2 then BitVec.ofNat 64 (i.slot.toNat * 0x2000 + 0x400)
    else if q = 3 then (s.ctxOf i).globals.setWidth 64
    else if q = 10 then c.cause.setWidth 64
    else if q = 11 then (s.slot i).pc
    else if q = 12 then (if c.addrKind = 0 then 0 else c.addr.setWidth 64)
    else if q = 13 then c.info.setWidth 64
    else 0
  marks : (t.slot i).marks = 0
  frame : (t.slot i).frame = { record := some rec, x := (s.slot i).x, pc := (s.slot i).pc, marks := (s.slot i).marks,
                               links := (s.slot i).links, chain := (s.slot i).chain, vw := (s.slot i).vw }
  keeps : (t.slot i).k = (s.slot i).k ∧ (t.slot i).vw = (s.slot i).vw ∧ (t.slot i).slabBase = (s.slot i).slabBase ∧
    (t.slot i).slabLen = (s.slot i).slabLen ∧ (t.slot i).outRes = (s.slot i).outRes ∧ (t.slot i).entry = (s.slot i).entry ∧
    (t.slot i).ctx = (s.slot i).ctx ∧ (t.slot i).busy = (s.slot i).busy ∧ (t.slot i).instret = (s.slot i).instret
  others : ∀ j, j ≠ i → t.slot j = s.slot j
  mem : t.mem = s.mem

/-- A precise fault of slot i enters the handler at once: the slot is not in handler mode (R128), no reply is due to it (R377), and its
frame is sound (R143). -/
def State.CanTrap (s : State) (i : SlotId) : Prop :=
  (s.slot i).handler = false ∧ (s.slot i).anyDue = false ∧ s.frameBad i = false

/-- What sending one message leaves (R51, R186, R201): in a buffer of the tile that was free stands the message with one copy, its header
made of the destination, the tile, the lengths, the context's key and the slot's next sequence number for that channel; the other
buffers, the registers of the slot, the other slots and memory are as before. -/
structure Sends (s t : State) (i : SlotId) (d : Dest) (kind : BitVec 2) (titles : List Title) (payload : List Word) (post : Bool) : Prop where
  placed : ∃ (n : Nat) (b : OutBuf), n < 128 ∧ (∀ e ∈ (s.tile i.tile).outbox, e.1 ≠ n) ∧
    (t.tile i.tile).outbox = put (s.tile i.tile).outbox n b ∧
    b.peer = d.peer ∧ b.msg.titles = titles ∧ b.msg.payload = payload ∧ b.msg.src = some i ∧ b.msg.ctx = (s.slot i).ctx ∧
    b.msg.world = (s.ctxOf i).world ∧ b.departed = !post ∧ b.copies = [{ tile := d.tile, hdr := b.msg.hdr }] ∧
    b.waits = (if post then s.pendingOf i else []) ∧ b.res = s.outTag i ∧
    b.msg.hdr = kind ++ d.chan ++ i.tile ++ (0x3FF : BitVec 10) ++ BitVec.ofNat 6 payload.length ++ BitVec.ofNat 2 titles.length ++
      (s.ctxOf i).key ++ find 0 (s.slot i).mseq (seqKey d.peer d.tile d.chan)
  numbered : ∀ p u c, find 0 (t.slot i).mseq (seqKey p u c) = find 0 (s.slot i).mseq (seqKey p u c) +
    (if p = d.peer ∧ u = d.tile ∧ c = d.chan then 1 else 0)
  retired : (t.slot i).pc = (s.slot i).pc + 4 ∧ (t.slot i).instret = (s.slot i).instret + 1
  registers : (t.slot i).x = (s.slot i).x ∧ (t.slot i).marks = (s.slot i).marks ∧ (t.slot i).vw = (s.slot i).vw
  reserved : (t.slot i).outRes = (s.slot i).outRes
  others : ∀ j, j ≠ i → t.slot j = s.slot j
  mem : t.mem = s.mem

/-- The object of a commons atomic takes the value x where it held w, a being the operand and cmp what a compare-and-swap compares with: the
table of R246, with `n` for `.N`. -/
def AtomicTakes (op : BitVec 4) (n : Bool) (w a cmp x : Word) : Prop :=
  (op = 0 ∨ op = 11 → x = w + a) ∧
  (op = 1 → if n then x.toNat = Nat.min w.toNat a.toNat else x.toInt = min w.toInt a.toInt) ∧
  (op = 2 → if n then x.toNat = Nat.max w.toNat a.toNat else x.toInt = max w.toInt a.toInt) ∧
  (op = 3 → x = w &&& a) ∧ (op = 4 → x = w ||| a) ∧ (op = 5 → x = w ^^^ a) ∧ (op = 6 ∨ op = 10 → x = a) ∧
  (op = 7 → x = if w = cmp then a else w) ∧
  (op = 8 → x.extractLsb' 32 32 = w.extractLsb' 32 32 ∧ x.setWidth 32 =
    BitVec.ofNat 32 (toF32 ((fmtF.value (w.toNat % 2 ^ 32)).add (fmtF.value (a.toNat % 2 ^ 32))))) ∧
  (op = 9 → x = w)

/-- Element i of w bits of a packed string (R152). -/
def elemCode (w : Nat) (bs : List Byte) (i : Nat) : Nat := leNat bs / 2 ^ (w * i) % 2 ^ w

/-- The scale byte S of a block of exact values x(i), i in [lo, lo + 32), those that `on` makes active (R159). -/
def ScaleChosen (f : Fmt) (on : Nat → Prop) (x : Nat → Num) (lo S : Nat) : Prop :=
  let counts := fun (i : Nat) => lo ≤ i ∧ i < lo + 32 ∧ on i ∧ ∃ g m e, x i = .fin g m e ∧ m ≠ 0
  ((∀ i, ¬counts i) → S = 127) ∧
  (∀ i, counts i → (∀ j, counts j → (x j).floorLog2 ≤ (x i).floorLog2) →
    (S : Int) = min 254 (max 0 ((x i).floorLog2 - f.emax + 127)))

/-- The delivery of n elements of format f with the exact values x, under scale bytes `scale`, into the codes `code` (R160 to R165, R260): each
active one is rounded once, by L's next step or to nearest even, and one that overflows under policy 0b00 is recorded and 0, or saturated
where the list (of `count` records, `cap` at most) is full; an inactive one is `old`. The records are (VALUE, INDEX), in increasing index. -/
def Delivered (f : Fmt) (sr : Bool) (ovf : BitVec 2) (l : BitVec 16) (n : Nat) (on : Nat → Prop) (x : Nat → Num) (scale old code : Nat → Nat)
    (count cap : Nat) (recs : List (Nat × Nat)) (full : Bool) : Prop :=
  let rnd := fun (i : Nat) => if sr then Rnd.sr (lfsrSteps (i + 1) l) else Rnd.ne
  let conv := fun (i : Nat) => f.convert (rnd i) ovf ((x i).scale2 (127 - (scale i : Int)))
  ∃ held : Nat → Nat, held 0 = count ∧ recs.length + count = held n ∧
    (full = true ↔ ∃ i, i < n ∧ on i ∧ (conv i).record = true ∧ cap ≤ held i) ∧
    ∀ i, i < n →
      (¬on i → code i = old i ∧ held (i + 1) = held i) ∧
      (on i → (conv i).record = false → code i = (conv i).code ∧ held (i + 1) = held i) ∧
      (on i → (conv i).record = true → held i < cap →
        code i = 0 ∧ held (i + 1) = held i + 1 ∧ recs[held i - count]? = some (recordValue f (rnd i) (x i), i)) ∧
      (on i → (conv i).record = true → cap ≤ held i → code i = (conv i).code ∧ held (i + 1) = held i)

/-- The place of byte n of a list in tile or cluster SRAM. -/
def OutList.place (o : OutList) (n : Nat) : Nat :=
  let a := o.title.base.toNat + o.off + n
  if o.title.loc = 0 then tileKey o.title.place a else clusterKey (o.title.place.extractLsb' 4 6) a

/-- A list in SRAM has grown by `recs`, with FULL set where `full` says so, and is as before otherwise (R164, R165). -/
def ListGrew (s u : State) (o : OutList) (recs : List (Nat × Nat)) (full : Bool) : Prop :=
  let d := leWord (u.bytes (o.place 0) 8)
  (recs = [] ∧ full = false → ∀ n, n < 16 + 8 * o.cap → u.byte (o.place n) = s.byte (o.place n)) ∧
  (recs ≠ [] ∨ full = true → (d.extractLsb' 0 32).toNat = o.count + recs.length ∧ d.extractLsb' 32 31 = o.d0.extractLsb' 32 31 ∧
    d.getLsbD 63 = (o.d0.getLsbD 63 || full)) ∧
  (∀ n r, recs[n]? = some r →
    leNat (u.bytes (o.place (16 + 8 * (o.count + n))) 4) = r.2 % 2 ^ 32 ∧ leNat (u.bytes (o.place (20 + 8 * (o.count + n))) 4) = r.1 % 2 ^ 32) ∧
  (∀ n, 8 ≤ n → n < 16 + 8 * o.cap → ¬(16 + 8 * o.count ≤ n ∧ n < 16 + 8 * (o.count + recs.length)) → u.byte (o.place n) = s.byte (o.place n))

/-- What issuing an engine job leaves (R210, R234, R236): a queued job with the tile's next serial number at the end of the jobs (the job
that bore the number before is gone), its titles, card and chain as at issue, a buffer kept where it sends a message; rd holds the
number, the chain knows it, the slot goes on to the next word, and no memory and no other slot changes. -/
structure State.IssuesJob (s t : State) (i : SlotId) (rd : XReg) (kind : JobKind) (c : Card) (src dst : Title) (msg : Bool) : Prop where
  job : ∃ j, t.jobs = s.jobs.filter (fun x => !(x.tile == i.tile && x.num == (s.tile i.tile).jobSerial)) ++ [j] ∧
    j.tile = i.tile ∧ j.num = (s.tile i.tile).jobSerial ∧ j.core = i.core ∧ j.slot = i.slot ∧ j.kind = kind ∧ j.card = c ∧
    j.imgS = src ∧ j.imgD = dst ∧ j.status = 0 ∧ j.ctx = (s.slot i).ctx ∧ j.chainId = (s.slot i).chainId ∧ j.buf.isSome = msg
  numbered : (t.tile i.tile).jobSerial = (s.tile i.tile).jobSerial + 1
  known : (s.tile i.tile).jobSerial ∈ (t.slot i).known
  result : ∀ q, (t.slot i).xr q = if q = rd ∧ q ≠ 0 then (s.tile i.tile).jobSerial.setWidth 64 else (s.slot i).xr q
  pc : (t.slot i).pc = (s.slot i).pc + 4
  others : ∀ j, j ≠ i → t.slot j = s.slot j
  mem : t.mem = s.mem

/-- A run of k steps that meets no fault and no refusal. -/
def State.safeFor : Nat → State → Prop
  | 0, _ => True
  | k + 1, s => ∃ t, step s = .next t ∧ t.safeFor k

end Sys2Proof.Machine
end

