-- ==== Sys2Proof/Certificates/Slice0/Obligations.lean ====
section
/-! DEFINITION. The statements for the provers, each with the rules of spec/ it formalises. `Runs i s t` says that exec of i at s
answers the next state t; `State.Ready` that nothing holds up the running slot. -/

open Sys2Proof Sys2Proof.Machine

/-! ### RV64I and M (R192) -/

/-- R192, R172: the immediate forms of the integer instructions, LUI and AUIPC among them, complete with the result that RISC-V
publishes, the W forms with the low 32 bits sign-extended. `retireX` is what `RetiringWrites` says.

R192, R172: the register forms of the integer instructions complete with the published results. -/
def Obligations.IntegerResults : Prop :=
  (∀ (s : State) (rd rs1 : XReg) (imm : BitVec 12) (u : BitVec 20) (sh : BitVec 6) (shw : BitVec 5), s.Ready [rs1] →
    let a := s.me.xr rs1
    let aw : BitVec 32 := a.setWidth 32
    let w32 := fun (z : Int) => BitVec.ofInt 64 (BitVec.ofInt 32 z).toInt
    let gives := fun (i : Instr) (w : Word) => Runs i s (s.retireX rd w)
    gives (.lui rd u) (BitVec.ofInt 64 (u.toInt * 4096)) ∧
    gives (.auipc rd u) (s.me.pc + BitVec.ofInt 64 (u.toInt * 4096)) ∧
    gives (.addi rd rs1 imm) (BitVec.ofInt 64 (a.toInt + imm.toInt)) ∧
    gives (.slti rd rs1 imm) (if a.toInt < imm.toInt then 1 else 0) ∧
    gives (.sltiu rd rs1 imm) (if a.toNat < (BitVec.ofInt 64 imm.toInt).toNat then 1 else 0) ∧
    gives (.xori rd rs1 imm) (a ^^^ BitVec.ofInt 64 imm.toInt) ∧
    gives (.ori rd rs1 imm) (a ||| BitVec.ofInt 64 imm.toInt) ∧
    gives (.andi rd rs1 imm) (a &&& BitVec.ofInt 64 imm.toInt) ∧
    gives (.slli rd rs1 sh) (BitVec.ofNat 64 (a.toNat * 2 ^ sh.toNat)) ∧
    gives (.srli rd rs1 sh) (BitVec.ofNat 64 (a.toNat / 2 ^ sh.toNat)) ∧
    gives (.srai rd rs1 sh) (BitVec.ofInt 64 (a.toInt / 2 ^ sh.toNat)) ∧
    gives (.addiw rd rs1 imm) (w32 (a.toInt + imm.toInt)) ∧
    gives (.slliw rd rs1 shw) (w32 (aw.toNat * 2 ^ shw.toNat : Nat)) ∧
    gives (.srliw rd rs1 shw) (w32 (aw.toNat / 2 ^ shw.toNat : Nat)) ∧
    gives (.sraiw rd rs1 shw) (w32 (aw.toInt / 2 ^ shw.toNat))) ∧
  (∀ (s : State) (rd rs1 rs2 : XReg), s.Ready [rs1, rs2] →
    let a := s.me.xr rs1
    let b := s.me.xr rs2
    let aw : BitVec 32 := a.setWidth 32
    let w32 := fun (z : Int) => BitVec.ofInt 64 (BitVec.ofInt 32 z).toInt
    let gives := fun (i : Instr) (w : Word) => Runs i s (s.retireX rd w)
    gives (.add rd rs1 rs2) (BitVec.ofInt 64 (a.toInt + b.toInt)) ∧
    gives (.sub rd rs1 rs2) (BitVec.ofInt 64 (a.toInt - b.toInt)) ∧
    gives (.sll rd rs1 rs2) (BitVec.ofNat 64 (a.toNat * 2 ^ (b.toNat % 64))) ∧
    gives (.slt rd rs1 rs2) (if a.toInt < b.toInt then 1 else 0) ∧
    gives (.sltu rd rs1 rs2) (if a.toNat < b.toNat then 1 else 0) ∧
    gives (.xor rd rs1 rs2) (a ^^^ b) ∧
    gives (.srl rd rs1 rs2) (BitVec.ofNat 64 (a.toNat / 2 ^ (b.toNat % 64))) ∧
    gives (.sra rd rs1 rs2) (BitVec.ofInt 64 (a.toInt / 2 ^ (b.toNat % 64))) ∧
    gives (.or rd rs1 rs2) (a ||| b) ∧
    gives (.and rd rs1 rs2) (a &&& b) ∧
    gives (.addw rd rs1 rs2) (w32 (a.toInt + b.toInt)) ∧
    gives (.subw rd rs1 rs2) (w32 (a.toInt - b.toInt)) ∧
    gives (.sllw rd rs1 rs2) (w32 (aw.toNat * 2 ^ (b.toNat % 32) : Nat)) ∧
    gives (.srlw rd rs1 rs2) (w32 (aw.toNat / 2 ^ (b.toNat % 32) : Nat)) ∧
    gives (.sraw rd rs1 rs2) (w32 (aw.toInt / 2 ^ (b.toNat % 32))))

/-- R192: products, quotients and remainders complete with the published results. A product's high half is of the exact product; a
quotient q and remainder r of a by b ≠ 0 satisfy a = q × b + r with r smaller than b in size and of a's sign, but for the one signed
overflow; a zero divisor gives all ones and the dividend. -/
def Obligations.MultiplyDivideResults : Prop :=
  ∀ (s : State) (rd rs1 rs2 : XReg), s.Ready [rs1, rs2] →
    let a := s.me.xr rs1
    let b := s.me.xr rs2
    let aw : BitVec 32 := a.setWidth 32
    let bw : BitVec 32 := b.setWidth 32
    let gives := fun (i : Instr) (w : Word) => Runs i s (s.retireX rd w)
    let wide := fun (v : BitVec 32) => BitVec.ofInt 64 v.toInt
    (∃ lo hi : Word, gives (.mul rd rs1 rs2) lo ∧ gives (.mulh rd rs1 rs2) hi ∧ a.toInt * b.toInt = hi.toInt * 2 ^ 64 + lo.toNat) ∧
    (∃ lo hi : Word, gives (.mul rd rs1 rs2) lo ∧ gives (.mulhsu rd rs1 rs2) hi ∧ a.toInt * b.toNat = hi.toInt * 2 ^ 64 + lo.toNat) ∧
    (∃ lo hi : Word, gives (.mul rd rs1 rs2) lo ∧ gives (.mulhu rd rs1 rs2) hi ∧ a.toNat * b.toNat = hi.toNat * 2 ^ 64 + lo.toNat) ∧
    gives (.mulw rd rs1 rs2) (wide (BitVec.ofInt 32 (aw.toInt * bw.toInt))) ∧
    (∃ q r : Word, gives (.div rd rs1 rs2) q ∧ gives (.rem rd rs1 rs2) r ∧
      (b = 0 → q = BitVec.allOnes 64 ∧ r = a) ∧
      (a = BitVec.intMin 64 ∧ b = BitVec.allOnes 64 → q = a ∧ r = 0) ∧
      (b ≠ 0 → ¬(a = BitVec.intMin 64 ∧ b = BitVec.allOnes 64) →
        a.toInt = q.toInt * b.toInt + r.toInt ∧ r.toInt.natAbs < b.toInt.natAbs ∧ 0 ≤ r.toInt * a.toInt)) ∧
    (∃ q r : Word, gives (.divu rd rs1 rs2) q ∧ gives (.remu rd rs1 rs2) r ∧
      (b = 0 → q = BitVec.allOnes 64 ∧ r = a) ∧
      (b ≠ 0 → a.toNat = q.toNat * b.toNat + r.toNat ∧ r.toNat < b.toNat)) ∧
    (∃ q r : BitVec 32, gives (.divw rd rs1 rs2) (wide q) ∧ gives (.remw rd rs1 rs2) (wide r) ∧
      (bw = 0 → q = BitVec.allOnes 32 ∧ r = aw) ∧
      (aw = BitVec.intMin 32 ∧ bw = BitVec.allOnes 32 → q = aw ∧ r = 0) ∧
      (bw ≠ 0 → ¬(aw = BitVec.intMin 32 ∧ bw = BitVec.allOnes 32) →
        aw.toInt = q.toInt * bw.toInt + r.toInt ∧ r.toInt.natAbs < bw.toInt.natAbs ∧ 0 ≤ r.toInt * aw.toInt)) ∧
    (∃ q r : BitVec 32, gives (.divuw rd rs1 rs2) (wide q) ∧ gives (.remuw rd rs1 rs2) (wide r) ∧
      (bw = 0 → q = BitVec.allOnes 32 ∧ r = aw) ∧
      (bw ≠ 0 → aw.toNat = q.toNat * bw.toNat + r.toNat ∧ r.toNat < bw.toNat))

/-- R109, R173: the frame of an instruction that retires with result w in rd (all of the three statements above, and every other
statement that ends in `retireX`): rd alone among the registers changes, and x0 not even then; rd loses its marks and a reply due to
it (the model's reading, log 49 DEDUCED: R247 lets only readers wait for a reply, so a writer goes on and the reply is dropped); the PC moves on by 4, the count of retired instructions by 1; nothing else of the slot, no other slot, and no other part of the
package changes. -/
def Obligations.RetiringWrites : Prop :=
  ∀ (s : State) (rd : XReg) (w : Word),
    let t := s.retireX rd w
    (∀ r : XReg, t.me.xr r = if r = rd ∧ r ≠ 0 then w else s.me.xr r) ∧
    (∀ r : XReg, t.me.poisonMark r = if r = rd ∧ r ≠ 0 then false else s.me.poisonMark r) ∧
    (∀ r : XReg, t.me.indetMark r = if r = rd ∧ r ≠ 0 then false else s.me.indetMark r) ∧
    (∀ r : XReg, t.me.dueOf r = if r = rd then false else s.me.dueOf r) ∧
    t.me.pc = s.me.pc + 4 ∧ t.me.instret = s.me.instret + 1 ∧
    { t.me with x := s.me.x, marks := s.me.marks, due := s.me.due, pc := s.me.pc, instret := s.me.instret, granted := s.me.granted } = s.me ∧
    (∀ j, j ≠ s.cur → t.slot j = s.slot j) ∧
    { t with slots := s.slots } = s ∧
    (∀ k, t.byte k = s.byte k)

/-- R192, R174: jumps and branches complete. A jump writes the address after it and goes to its target; a branch goes to its target
where its comparison holds and on to the next word where not; a target with bit 1 set raises 0x00 at the jump or taken branch.

R172, R173: the fences and the pause retire with no effect; a read of a counter gives it (`cycle` that of the tile's die, whose clock it counts; outside rerun, which R145 logs), and
every form of a CSR instruction that would write, or names another CSR, raises 0x00. -/
def Obligations.JumpsFencesAndCounters : Prop :=
  (∀ (s : State) (rd rs1 rs2 : XReg) (imm : BitVec 12) (j : BitVec 20), s.Ready [rs1, rs2] →
    let a := s.me.xr rs1
    let b := s.me.xr rs2
    let pc := s.me.pc
    let goes := fun (i : Instr) (r : XReg) (target : Word) =>
      if target.getLsbD 1 then Runs i s (s.fault s.cur { cause := 0x00 })
      else Runs i s (s.setMe { (s.me.setX r (pc + 4)) with pc := target, instret := s.me.instret + 1, granted := false })
    let branch := fun (i : Instr) (taken : Prop) =>
      (taken → goes i 0 (pc + BitVec.ofInt 64 (imm.toInt * 2))) ∧ (¬taken → Runs i s s.retire)
    goes (.jal rd j) rd (pc + BitVec.ofInt 64 (j.toInt * 2)) ∧
    goes (.jalr rd rs1 imm) rd (BitVec.ofNat 64 ((a + BitVec.ofInt 64 imm.toInt).toNat / 2 * 2)) ∧
    branch (.beq rs1 rs2 imm) (a = b) ∧ branch (.bne rs1 rs2 imm) (a ≠ b) ∧
    branch (.blt rs1 rs2 imm) (a.toInt < b.toInt) ∧ branch (.bge rs1 rs2 imm) (b.toInt ≤ a.toInt) ∧
    branch (.bltu rs1 rs2 imm) (a.toNat < b.toNat) ∧ branch (.bgeu rs1 rs2 imm) (b.toNat ≤ a.toNat)) ∧
  (∀ (s : State) (rd rs1 : XReg) (u : BitVec 5) (csr : BitVec 12) (fm pred succ : BitVec 4) (imm : BitVec 12),
    s.Ready [] → (s.ctxOf s.cur).rerun = 0 →
    let illegal := s.fault s.cur { cause := 0x00 }
    Runs (.fence fm pred succ rs1 rd) s s.retire ∧ Runs (.fenceTso rs1 rd) s s.retire ∧ Runs .pause s s.retire ∧
    Runs (.fenceI imm rs1 rd) s s.retire ∧
    (∀ i ∈ [Instr.csrrs rd 0, Instr.csrrc rd 0, Instr.csrrsi rd 0, Instr.csrrci rd 0],
      Runs (i 0xC00) s (s.retireX rd s.cycles[(dieOf s.cur.tile).toNat]) ∧ Runs (i 0xC01) s (s.retireX rd s.time) ∧
      Runs (i 0xC02) s (s.retireX rd s.me.instret) ∧
      (csr ≠ 0xC00 → csr ≠ 0xC01 → csr ≠ 0xC02 → Runs (i csr) s illegal)) ∧
    Runs (.csrrw rd rs1 csr) s illegal ∧ Runs (.csrrwi rd u csr) s illegal ∧
    (rs1 ≠ 0 → Runs (.csrrs rd rs1 csr) s illegal ∧ Runs (.csrrc rd rs1 csr) s illegal) ∧
    (u ≠ 0 → Runs (.csrrsi rd u csr) s illegal ∧ Runs (.csrrci rd u csr) s illegal))

/-- R93, R94, R192: loads from the slot's own region of the slot-private window complete with the little-endian value of the bytes,
extended by sign or with zeros, and change no memory.

R93, R94, R192: stores into the slot's own region of the slot-private window complete: the low bytes of rs2 stand at the address,
lowest first, every other byte of memory reads as before, no register changes but the PC and the count, and nothing else does.

R93, R94, R108: loads from the code window complete. The address is translated for the context, with no title, and read from its place
in HBM as the base die has it for the context's domain (the read beside the line cache is the model's choice, log 39 DESIGN CHOICE); the
result is extended as the width says. Where a unit that it reads is poisoned or uncorrectable, the load raises 0x33 with the address and
rd stays.

R94: the checks of an x-register access of n bytes at an address, in their order: where the address is not canonical 0x38; in the
slot-private window outside the slot's own region 0x37, misaligned 0x39; outside that window and the code window 0x37; in the code
window a store 0x3A, a misaligned load 0x39. -/
def Obligations.PrivateWindow : Prop :=
  (∀ (s : State) (rd rs1 : XReg) (imm : BitVec 12), s.Ready [rs1] →
    let addr := s.me.xr rs1 + BitVec.ofInt 64 imm.toInt
    let own := fun (n : Nat) => s.cur.slot.toNat * 0x2000 ≤ addr.toNat ∧ addr.toNat < (s.cur.slot.toNat + 1) * 0x2000 ∧ addr.toNat % n = 0
    let v := fun (n : Nat) => leNat (s.bytes (coreKey s.cur.tile s.cur.core addr.toNat) n)
    let signed := fun (n : Nat) => BitVec.ofInt 64 (if v n < 2 ^ (8 * n - 1) then (v n : Int) else (v n : Int) - 2 ^ (8 * n))
    let gives := fun (i : Instr) (w : Word) => Runs i s (s.retireX rd w)
    (own 1 → gives (.lb rd rs1 imm) (signed 1) ∧ gives (.lbu rd rs1 imm) (BitVec.ofNat 64 (v 1))) ∧
    (own 2 → gives (.lh rd rs1 imm) (signed 2) ∧ gives (.lhu rd rs1 imm) (BitVec.ofNat 64 (v 2))) ∧
    (own 4 → gives (.lw rd rs1 imm) (signed 4) ∧ gives (.lwu rd rs1 imm) (BitVec.ofNat 64 (v 4))) ∧
    (own 8 → gives (.ld rd rs1 imm) (signed 8))) ∧
  (∀ (s : State) (rs1 rs2 : XReg) (imm : BitVec 12), s.Ready [rs1, rs2] → s.MemOk →
    let addr := s.me.xr rs1 + BitVec.ofInt 64 imm.toInt
    let key := coreKey s.cur.tile s.cur.core addr.toNat
    let stores := fun (i : Instr) (n : Nat) =>
      s.cur.slot.toNat * 0x2000 ≤ addr.toNat → addr.toNat < (s.cur.slot.toNat + 1) * 0x2000 → addr.toNat % n = 0 →
      ∃ t, Runs i s t ∧ t.MemOk ∧ leNat (t.bytes key n) = (s.me.xr rs2).toNat % 2 ^ (8 * n) ∧
        (∀ k, ¬(key ≤ k ∧ k < key + n) → t.byte k = s.byte k) ∧
        t.me = s.me.retire ∧ (∀ j, j ≠ s.cur → t.slot j = s.slot j) ∧ { t with slots := s.slots, mem := s.mem } = s
    stores (.sb rs1 rs2 imm) 1 ∧ stores (.sh rs1 rs2 imm) 2 ∧ stores (.sw rs1 rs2 imm) 4 ∧ stores (.sd rs1 rs2 imm) 8) ∧
  (∀ (s s1 s2 : State) (rd rs1 : XReg) (imm : BitVec 12) (pa key : Nat) (leaf : TlbEntry), s.Ready [rs1] →
    let i := s.cur
    let e := s.entryOf i
    let c := s.ctxOf i
    let cl := clusterOf i.tile
    let a := (s.me.xr rs1 + BitVec.ofInt 64 imm.toInt).toNat
    let p : Purpose := { ctx := s.me.ctx, world := c.world, domain := c.domain, title := none, by_ := s.walkerOf i }
    s.translate cl p a .read = .ok (.here pa leaf) → pa < hbmEnd → s.setAccessed cl leaf true = .ok s1 →
    s1.request { die := dieOf i.tile } c.domain pa = .ok (key, s2) →
    let v := fun (n : Nat) => leNat (s2.hbmRead c.domain key n)
    let signed := fun (n : Nat) => BitVec.ofInt 64 (if v n < 2 ^ (8 * n - 1) then (v n : Int) else (v n : Int) - 2 ^ (8 * n))
    let unsigned := fun (n : Nat) => BitVec.ofNat 64 (v n)
    let gives := fun (n : Nat) (j : Instr) (w : Nat → Word) =>
      0x10000 ≤ a → a < 2 ^ 56 → e.codeLo.toNat ≤ a → a + n ≤ e.codeHi.toNat → a % n = 0 → pa % 64 + n ≤ 64 →
      if s2.hbmPoison key n then Runs j s (s.fault i { cause := 0x33, addrKind := 1, addr := BitVec.ofNat 56 a, hbm := some (s2.eccCount key n).hbm })
      else Runs j s ((s2.eccCount key n).retireX rd (w n))
    gives 1 (.lb rd rs1 imm) signed ∧ gives 1 (.lbu rd rs1 imm) unsigned ∧ gives 2 (.lh rd rs1 imm) signed ∧
    gives 2 (.lhu rd rs1 imm) unsigned ∧ gives 4 (.lw rd rs1 imm) signed ∧ gives 4 (.lwu rd rs1 imm) unsigned ∧
    gives 8 (.ld rd rs1 imm) signed) ∧
  (∀ (s : State) (rd rs1 rs2 : XReg) (imm : BitVec 12), s.Ready [rs1, rs2] →
    let addr := s.me.xr rs1 + BitVec.ofInt 64 imm.toInt
    let a := addr.toNat
    let e := s.entryOf s.cur
    let priv := a < 0x10000
    let own := s.cur.slot.toNat * 0x2000 ≤ a ∧ a < (s.cur.slot.toNat + 1) * 0x2000
    let code := e.codeLo.toNat ≤ a ∧ a < e.codeHi.toNat
    let cause := fun (n : Nat) (store : Bool) (c : BitVec 7) =>
      (2 ^ 56 ≤ a ∧ c = 0x38) ∨ (priv ∧ ¬own ∧ c = 0x37) ∨ (priv ∧ own ∧ a % n ≠ 0 ∧ c = 0x39) ∨
      (a < 2 ^ 56 ∧ ¬priv ∧ ¬code ∧ c = 0x37) ∨ (a < 2 ^ 56 ∧ ¬priv ∧ code ∧ store = true ∧ c = 0x3A) ∨
      (a < 2 ^ 56 ∧ ¬priv ∧ code ∧ store = false ∧ a % n ≠ 0 ∧ c = 0x39)
    let raises := fun (i : Instr) (n : Nat) (store : Bool) => ∀ c, cause n store c →
      Runs i s (s.fault s.cur { cause := c, addrKind := 1, addr := BitVec.ofNat 56 a })
    raises (.lb rd rs1 imm) 1 false ∧ raises (.lh rd rs1 imm) 2 false ∧ raises (.lw rd rs1 imm) 4 false ∧
    raises (.ld rd rs1 imm) 8 false ∧ raises (.lbu rd rs1 imm) 1 false ∧ raises (.lhu rd rs1 imm) 2 false ∧
    raises (.lwu rd rs1 imm) 4 false ∧
    raises (.sb rs1 rs2 imm) 1 true ∧ raises (.sh rs1 rs2 imm) 2 true ∧ raises (.sw rs1 rs2 imm) 4 true ∧ raises (.sd rs1 rs2 imm) 8 true)

/-! ### Faults and the trap handler (chapter 09) -/

/-- R125, R126, R132: a precise fault c of a slot that can take it enters the handler; outside the causes of the terminal ring its
record joins the queue of the ring of its context's function (R134). -/
def Obligations.PreciseFaultEntersHandler : Prop :=
  ∀ (s : State) (i : SlotId) (c : TrapInfo), s.CanTrap i →
    ∃ rec, EntersHandler s (s.fault i c) i c rec ∧
      (terminalCause c.cause = false →
        ((s.fault i c).func (s.ctxOf i).func).queue = (s.func (s.ctxOf i).func).queue ++ [rec])

/-- R128: any precise fault but a second watchdog expiry, met in handler mode, does not enter the handler again: the firing begins to
end as by ABANDON, its registers, frame and PC stay, and 0x74 is recorded to the terminal ring and, as TYPE 0b11, to the function's
(that the terminal ring's own copy keeps TYPE 0 is the model's reading, log 25 DEDUCED).

R377: while a reply is due to a register of the slot, a precise fault waits: no register, mark, PC or frame changes and nothing is
recorded. A register whose request has been given up awaits nothing: the fault makes it indeterminate and does not wait for it. The event TRAP_ENTRY waits with it, and once no reply is due, it enters the handler with the record made at the fault, the
replies' values in the frame. -/
def Obligations.FaultsThatWaitOrEnd : Prop :=
  (∀ (s : State) (i : SlotId) (c : TrapInfo), (s.slot i).handler = true →
    let t := s.fault i c
    ∃ rec : FaultRec, rec.cause = 0x74 ∧ rec.typ = 0 ∧ rec.ctx = (s.slot i).ctx ∧ rec.pc = (s.slot i).pc.setWidth 56 ∧
      t.rings.termQ = s.rings.termQ ++ [rec] ∧
      (t.func (s.ctxOf i).func).queue = (s.func (s.ctxOf i).func).queue ++ [{ rec with typ := 3 }] ∧
      (t.slot i).ending = some .abandon ∧ (t.slot i).x = (s.slot i).x ∧ (t.slot i).pc = (s.slot i).pc ∧
      (t.slot i).frame = (s.slot i).frame ∧ (t.slot i).k = (s.slot i).k ∧ (∀ j, j ≠ i → t.slot j = s.slot j) ∧ t.mem = s.mem) ∧
  (∀ (s : State) (i : SlotId),
    (∀ c, (s.slot i).handler = false → (s.slot i).anyDue = true → (∀ r, s.lostDue i r = false) →
      let t := s.fault i c
      (t.slot i).trap = some (s.recordOf i c) ∧ (t.slot i).x = (s.slot i).x ∧ (t.slot i).marks = (s.slot i).marks ∧
      (t.slot i).pc = (s.slot i).pc ∧ (t.slot i).frame = (s.slot i).frame ∧ (t.slot i).handler = false ∧
      t.funcs = s.funcs ∧ t.rings = s.rings ∧ t.mem = s.mem) ∧
    (∀ c (r : XReg), (s.slot i).handler = false → r ≠ 0 → s.lostDue i r = true → s.frameBad i = false →
      (∀ q, (s.slot i).dueOf q = true → s.lostDue i q = true) → (∀ q ∈ s.reqs, s.givesUp i q = false) →
      let t := s.fault i c
      (t.slot i).handler = true ∧ (t.slot i).frame.record = some (s.recordOf i c) ∧ (t.slot i).frame.x = (s.slot i).x ∧
      (t.slot i).frame.marks.getLsbD (32 + r.toNat) = true ∧ (t.slot i).dueOf r = false ∧ t.mem = s.mem) ∧
    ((s.slot i).trap.isSome → (s.slot i).anyDue = true → Runs (.trapEntry i) s s) ∧
    (∀ rec, (s.slot i).trap = some rec → s.CanTrap i →
      ∃ t, Runs (.trapEntry i) s t ∧ (t.slot i).handler = true ∧ (t.slot i).pc = (s.entryOf i).trapPc.setWidth 64 ∧
        (t.slot i).frame.record = some rec ∧ (t.slot i).frame.x = (s.slot i).x ∧ (t.slot i).frame.marks = (s.slot i).marks ∧
        (t.slot i).xr 10 = rec.cause.setWidth 64 ∧ (t.slot i).trap = none ∧ t.mem = s.mem))

/-- R211, R172: ECALL, EBREAK and TRAP complete by raising 0x02, 0x03 and 0x04 precisely, with ADDRKIND 0b00 and INFO 0, and do not
retire: in the handler, KSAVE reads the value of rs, RESUME goes back to the instruction and SKIPF goes on after it. -/
def Obligations.SystemTraps : Prop :=
  ∀ (s : State) (rs rd a : XReg), s.Ready [rs] → s.CanTrap s.cur → rd ≠ 0 → a ≠ 0 →
    ∀ p ∈ [(Instr.ecall, (0x02 : BitVec 7)), (.ebreak, 0x03), (.trap rs, 0x04)],
      ∃ t rec, Runs p.1 s t ∧ EntersHandler s t s.cur { cause := p.2, addrKind := 0, info := 0 } rec ∧
        (let asks := t.setMe { t.me with x := t.me.x.set a.toNat (BitVec.ofNat 64 rs.toNat) }
         ∃ u, Runs (.ksave rd a 0) asks u ∧ u.me.xr rd = s.me.xr rs) ∧
        (∃ u, Runs .resume t u ∧ u.me.handler = false ∧ u.me.pc = s.me.pc ∧ u.me.x = s.me.x) ∧
        (∃ u, Runs .skipf t u ∧ u.me.handler = false ∧ u.me.pc = s.me.pc + 4 ∧ u.me.x = s.me.x)

/-- R127, R212: in handler mode KFAULT reads a double word of the record, KSAVE reads and may replace one saved register, RESUME
returns to the frame's PC and SKIPF past it with the frame's registers, marks, links and chain; outside handler mode these, and ABANDON,
raise 0x08. Titles, views and memory stay. -/
def Obligations.HandlerInstructions : Prop :=
  ∀ (s : State) (rd rs1 rs2 : XReg), s.Ready [rs1, rs2] →
    let v := s.me
    let f := v.frame
    let n := (v.xr rs1).toNat
    let i := n % 64
    let bad := s.fault s.cur { cause := 0x08 }
    let back := fun (pc : Word) => s.setMe { v with
      x := f.x, marks := f.marks, links := f.links, chain := f.chain, pc := pc, instret := v.instret + 1, handler := false,
      due := Vector.replicate 32 none }
    (v.handler = false → Runs (.kfault rd rs1) s bad ∧ Runs (.ksave rd rs1 rs2) s bad ∧ Runs .resume s bad ∧ Runs .skipf s bad ∧
      Runs .abandon s bad) ∧
    (v.handler = true →
      (∀ r, f.record = some r → n < 24 → Runs (.kfault rd rs1) s (s.retireX rd (r.dwords.getD n 0))) ∧
      (24 ≤ n → Runs (.kfault rd rs1) s (s.retireX rd 0)) ∧
      (∃ t, Runs (.ksave rd rs1 rs2) s t ∧
        t.me.xr rd = (if rd = 0 ∨ i = 0 then 0 else if i < 32 then f.x.toList.getD i 0 else if i = 32 then f.pc
                      else if i = 33 then f.marks else 0) ∧
        (∀ q, q ≠ rd → t.me.xr q = v.xr q) ∧ t.me.pc = v.pc + 4 ∧
        (let put := (v.xr rs1).getLsbD 8
         let marks := if put = true ∧ i = 33 then v.xr rs2
           else if put = true ∧ 0 < i ∧ i < 32 then f.marks &&& ~~~((1#64 <<< i) ||| (1#64 <<< (32 + i))) else f.marks
         t.me.frame = { f with
           x := if put = true ∧ 0 < i ∧ i < 32 then f.x.set! i (v.xr rs2) else f.x
           pc := if put = true ∧ i = 32 then v.xr rs2 else f.pc
           marks := marks }) ∧
        (∀ j, j ≠ s.cur → t.slot j = s.slot j) ∧ { t with slots := s.slots } = s) ∧
      Runs .resume s (back f.pc) ∧
      (v.skipCheck = false → Runs .skipf s (back (f.pc + 4))))

/-- R57, R61, R128, R289, R308: EXIT in handler mode raises 0x74. Else, at depth 0, it waits, and changes nothing, while an operation of the
firing is under way that is a vector or matrix operation, a copy that writes the own tile SRAM or a byte copy that lands there, a write to the
slab, or a read of the slab that is not done; with none under way it ends the firing, as the next statements say (which operations count for
which of these is the model's reading, log 31 DEDUCED; the fault in handler mode log 30 DEDUCED). At a greater depth it returns to the caller: ra, the links and the PC
come back, the RSPAWN's rd is 0 (x0 stays), and nothing outside the slot changes.

R57, R83, R119, R146: the end of a firing frees its slot whatever it held: registers, titles, views, allotment, reservations and the
claim are gone; the serial, the atomics' and the messages' sequence numbers and the protected frame stay with the slot. No message that
the firing has reserved is left in its primary or secondary channel. (That the serial and the frame stay is the model's reading, log 29
DEDUCED.)

R57, R83: what becomes of the titles that a firing holds at its end. One under which an access or job is under way waits with the titles
of ended firings. Of the others, when the firing holds that one alone and no message: a share joins its root, whose SHARES falls by one; a
WHOLE from an arena, without shares or parts that others hold, is freed to the arena, its generation one higher and its blocks free again;
with shares or such parts, and every other root, it becomes unheld and its entry keeps what it says. A part of such a WHOLE that the firing
holds beside it is released first, unheld, and does not keep the WHOLE. (That a title waits for its accesses apart from the slot, and the
order of release, are the model's readings, logs 46 and 71, both DEDUCED.)

R127, R128, R289: ABANDON in handler mode: jobs of the firing that have not started are cancelled and its matrix instructions that have
not started are discarded; while a started job, or a running vector or matrix operation of the slot, is left, the firing keeps its slot,
ending; with none left the slot is freed. (What counts as started, and the cancelling, are log 27 DEDUCED.) -/
def Obligations.FiringsEnd : Prop :=
  (∀ (s : State), s.Ready [1] →
    let v := s.me
    let i := s.cur
    let held := fun (f : Flight) => f.core = i.core ∧ f.slot = i.slot ∧
      (f.vm = true ∨ f.lands = some (.tile i.tile) ∨ (∃ r ∈ f.writes, r.space = .tile i.tile ∨ r.space = .slab i.tile) ∨
       (f.consumed = false ∧ ∃ r ∈ f.reads, r.space = .slab i.tile))
    (v.handler = true → Runs .exit s (s.fault s.cur { cause := 0x74 })) ∧
    (v.handler = false → v.links = [] → (∀ f ∈ (s.tile i.tile).flight, ¬held f) → Runs .exit s (s.endFiring i)) ∧
    (v.handler = false → v.links = [] → (∃ f ∈ (s.tile i.tile).flight, held f) → Runs .exit s s) ∧
    (∀ l ls, v.handler = false → v.links = l :: ls →
      ∃ t, Runs .exit s t ∧ t.me.pc = v.xr 1 ∧ t.me.links = ls ∧ t.me.instret = v.instret + 1 ∧
        (∀ q, t.me.xr q = if q = 0 then 0 else if q = l.rd then 0 else if q = 1 then l.ra else v.xr q) ∧
        (∀ j, j ≠ s.cur → t.slot j = s.slot j) ∧ { t with slots := s.slots } = s)) ∧
  (∀ (s : State) (i : SlotId),
    let v := s.slot i
    let t := s.endFiring i
    t.slot i = { ({} : Slot) with serial := v.serial, aseq := v.aseq, mseq := v.mseq, frame := v.frame } ∧
    (i.core = true → (t.tile i.tile).mxu.claim ≠ some i.slot) ∧
    (∀ r ∈ (t.chan i.tile v.entry).recs, r.holder ≠ some (i.core, i.slot)) ∧
    (∀ c, (s.entry i.tile v.entry).sec = some c → ∀ r ∈ (t.chan i.tile c).recs, r.holder ≠ some (i.core, i.slot))) ∧
  (∀ (s : State) (i : SlotId) (w c : Title), (∀ r ∈ s.reqs, s.givesUp i r = false) →
    let v := s.slot i
    let t := s.endFiring i
    let e := s.tte w
    let table := (s.ctx w.ctx).table
    let quiet := s.late = [] ∧ s.reservedMsgs i v.entry = [] ∧ s.titleBusy i.tile w = false ∧ w.kind ≠ 0 ∧ w.index ≠ 0
    let clean := w.loc.toNat < 2 ∨
      ∀ l ∈ (s.cluster (clusterOf i.tile)).lines, ¬(l.ctx = w.ctx ∧ l.index = w.index ∧ l.dirty = true)
    let unheld := fun (x : Tte) => (t.tte w).state = 3 ∧ (t.tte w).kind = x.kind ∧ (t.tte w).gen = x.gen ∧ (t.tte w).rights = x.rights ∧
      (t.tte w).base = x.base ∧ (t.tte w).len = x.len ∧ (t.tte w).shares = x.shares ∧ (t.tte w).carved = x.carved ∧ t.late = []
    let freed := t.tte w = { ({} : Tte) with gen := e.gen + 1 } ∧ t.late = [] ∧
      t.arenaMap w.ctx e.parent = (s.arenaMap w.ctx e.parent).filter
        (fun r => r.1 ≠ (w.base.toNat - (find {} table e.parent.toNat).base.toNat) / 256)
    (w ∈ v.heldTitles → s.titleBusy i.tile w = true → (i.tile, w) ∈ t.late) ∧
    (v.heldTitles = [w] → quiet → w.isShare = true → e.shares ≠ 1 → t.tte w = { e with shares := e.shares - 1 } ∧ t.late = []) ∧
    (v.heldTitles = [w] → quiet → w.isShare = true → e.shares = 1 → (t.tte w).shares = 0 ∧ t.late = []) ∧
    (v.heldTitles = [w] → quiet → w.isShare = false → w.kind = 1 → s.arenaParent w = true → e.parent ≠ w.index → e.shares = 0 →
      (∀ x ∈ table, x.2.parent = w.index → x.2.state = 0) → clean → freed) ∧
    (v.heldTitles = [w] → quiet → w.isShare = false →
      (w.kind ≠ 1 ∨ s.arenaParent w = false ∨ e.shares ≠ 0 ∨ ∃ x ∈ table, x.2.parent = w.index ∧ x.2.state = 1) → unheld e) ∧
    ((v.heldTitles = [w, c] ∨ v.heldTitles = [c, w]) → quiet → s.titleBusy i.tile c = false → w.isShare = false → w.kind = 1 →
      s.arenaParent w = true → e.rights.getLsbD rARENA = false → e.shares = 0 →
      c.isShare = false → c.kind ≠ 0 → c.index ≠ 0 → c.ctx = w.ctx → (s.tte c).shares = 0 →
      table.filter (fun x => x.2.parent == w.index) = [(c.index.toNat, s.tte c)] → (∀ x ∈ table, x.2.parent ≠ c.index) →
      clean → freed ∧ (t.tte c).state = 3 ∧ (t.tte c).parent = 0)) ∧
  (∀ (s : State), s.Ready [] → s.me.handler = true →
    let i := s.cur
    let started := s.jobs.any (fun j => j.isOf i s.me.chainId && (j.status == 1 || j.status == 2) && !j.cancelled)
    let running := ∃ f ∈ (s.tile i.tile).flight, f.vm = true ∧ f.core = i.core ∧ f.slot = i.slot ∧
      ¬(i.core = true ∧ ∃ o ∈ (s.tile i.tile).mxu.queue, o.slot = i.slot ∧ o.ord = f.ord) ∧
      ¬∃ j ∈ s.jobs, j.isOf i s.me.chainId = true ∧ j.status = 0 ∧ j.ord = f.ord
    (started = true ∨ running → ∃ t, Runs .abandon s t ∧ (t.slot i).ending = some .abandon ∧ (t.slot i).busy = s.me.busy ∧ t.mem = s.mem ∧
      (∀ j ∈ t.jobs, j.isOf i s.me.chainId → j.status ≠ 0) ∧ (∀ j, j ≠ i → t.slot j = s.slot j)) ∧
    (started = false → ¬running → ∃ t, Runs .abandon s t ∧ (t.slot i).busy = false ∧ (t.slot i).ending = none ∧
      (t.slot i).serial = s.me.serial))

/-! ### Creating work (chapters 03 and 15) -/

/-- R59, R197: SPAWN of a valid entry of the context with an aligned PC within its bounds completes: the record joins the tile's
pending pool while the pool has room and no record of the same tile and entry waits in the context's spawn queue, else the queue where that has more than
8 free records, or any and the firing came from the queue; else it waits, and nothing changes. An entry that is not valid or of another
context raises 0x53, a PC out of bounds or misaligned 0x52 with the entry and the tile in INFO. (0x52 for a misaligned PC and the rule on
records of the same tile and entry are the model's readings, log 17 DEDUCED; what INFO holds is log 24 DEDUCED.)

R58, R196: EXIT.S of a valid entry of the same context and class, at depth 0 and below chain 16, in a running context outside rerun,
completes: the same slot goes on at the entry's ENTRYPC with a0 the count of its primary channel, a1 the tile, a2 to a5 kept, sp and gp
as at a dispatch and every other register 0, watchdog 0 and chain one higher; the allotment stays, and so do the title registers where no
title waits to be released. The successor is no firing from the spawn queue (R59). Otherwise it raises 0x74 in handler mode, 0x53, or 0x54
at chain 16. (The new serial and the fresh watchdog are the model's reading, log 32 DEDUCED.) -/
def Obligations.WorkIsCreated : Prop :=
  (∀ (s : State) (rs1 rs2 : XReg), s.Ready [rs1, rs2, 12, 13, 14, 15] →
    let i := s.cur
    let v := s.me
    let n : BitVec 6 := (v.xr rs1).setWidth 6
    let e := s.entry i.tile n
    let pc := v.xr rs2
    let named := (v.xr rs1).toNat < 64 ∧ e.valid = true ∧ e.ctx = v.ctx
    let inside := pc.toNat % 4 = 0 ∧ e.codeLo.toNat ≤ pc.toNat ∧ pc.toNat < e.codeHi.toNat
    let r : SpawnRec := { tile := i.tile, entry := n, pc := pc, args := [v.xr 12, v.xr 13, v.xr 14, v.xr 15] }
    let q := (s.ctx v.ctx).spawnQ
    let poolRoom := (s.tile i.tile).pool.length < 64 ∧ ∀ x ∈ q, ¬(x.tile = i.tile ∧ x.entry = n)
    let free := (s.ctx v.ctx).spawnCap - q.length
    let queueRoom := free > 8 ∨ (free > 0 ∧ v.fromQueue = true)
    (¬named → Runs (.spawn rs1 rs2) s (s.fault i { cause := 0x53 })) ∧
    (named → ¬inside → Runs (.spawn rs1 rs2) s (s.fault i { cause := 0x52, info := chanInfo n i.tile })) ∧
    (named → inside → poolRoom →
      Runs (.spawn rs1 rs2) s (s.modTile i.tile (fun t => { t with pool := t.pool ++ [r] })).retire) ∧
    (named → inside → ¬poolRoom → queueRoom →
      Runs (.spawn rs1 rs2) s (s.modCtx v.ctx (fun c => { c with spawnQ := c.spawnQ ++ [r] })).retire) ∧
    (named → inside → ¬poolRoom → ¬queueRoom → Runs (.spawn rs1 rs2) s s)) ∧
  (∀ (s : State) (rs : XReg), s.Ready [rs] →
    let i := s.cur
    let v := s.me
    let n : BitVec 6 := (v.xr rs).setWidth 6
    let e := s.entry i.tile n
    let legal := v.links = [] ∧ (v.xr rs).toNat < 64 ∧ e.valid = true ∧ e.ctx = v.ctx ∧ e.cclass = i.core
    (v.handler = true → Runs (.exitS rs) s (s.fault i { cause := 0x74 })) ∧
    (v.handler = false → ¬legal → Runs (.exitS rs) s (s.fault i { cause := 0x53 })) ∧
    (v.handler = false → legal → 16 ≤ v.chain.toNat → Runs (.exitS rs) s (s.fault i { cause := 0x54 })) ∧
    (v.handler = false → legal → v.chain.toNat < 16 → (s.ctxOf i).state = 1 → (s.ctxOf i).rerun = 0 →
      ∃ t, Runs (.exitS rs) s t ∧ t.me.busy = v.busy ∧ t.me.entry = n ∧ t.me.pc = e.entryPc.setWidth 64 ∧
        (∀ q : XReg, t.me.xr q =
          if q = 2 then BitVec.ofNat 64 (i.slot.toNat * 0x2000 + 0x2000)
          else if q = 3 then (s.ctxOf i).globals.setWidth 64
          else if q = 10 then BitVec.ofNat 64 (t.chan i.tile n).recs.length
          else if q = 11 then i.tile.setWidth 64
          else if q = 12 ∨ q = 13 ∨ q = 14 ∨ q = 15 then v.xr q
          else 0) ∧
        t.me.chain = v.chain + 1 ∧ t.me.wdog = 0 ∧ t.me.instret = 0 ∧ t.me.links = [] ∧ t.me.serial = v.serial + 1 ∧
        t.me.slabBase = v.slabBase ∧ t.me.slabLen = v.slabLen ∧ t.me.outRes ≤ e.prod.toNat ∧ t.me.known = v.known ∧
        t.me.chainId = v.chainId ∧ t.me.fromQueue = false ∧
        (s.late = [] → s.reservedMsgs i v.entry = [] → t.me.k = v.k ∧ t.mem = s.mem ∧ (∀ j, j ≠ i → t.slot j = s.slot j))))

/-- R60, R186, R198: RSPAWN to a tile in service that the links reach sends the request with a2 to a5 and the child PC, numbered as the
slot's messages to that tile and channel, and the slot waits for the reply; nothing else changes but, where the tile is on another die,
the links that the message crosses and the number of its packet. A target word above 16 bits raises 0x58, a tile out of service 0x53, one that no link reaches 0x59.

R18, R56, R60, R61: a request to spawn whose entry is valid, of the caller's context, with the PC in bounds, for which the target has a
slot, starts the child there and is answered 1; with no slot, 0, and nothing else of the package changes but the packets. A request or reply
that has not come to its die yet changes no slot and no tile (R18). The reply 1 writes 1 to rd and the caller goes on; the reply 0 runs the
child inline, within the caller's own bounds and at a depth below 16: ra and rd's number are pushed, ra is the next address, a2 to a5 are
the four registers, and the PC is the child's. -/
def Obligations.RemoteSpawns : Prop :=
  (∀ (s : State) (rd rs1 rs2 : XReg), s.Ready [rs1, rs2, 1, 12, 13, 14, 15] → (s.ctxOf s.cur).rerun ≠ 2 →
    let i := s.cur
    let v := s.me
    let w := v.xr rs1
    let t : BitVec 10 := w.extractLsb' 6 10
    let served := (s.tile t).inService = true
    let reached := s.reach (dieOf i.tile) (dieOf t) = true
    let r : Req := { id := s.nextId, src := i, chainId := v.chainId, ctx := v.ctx, seq := 0, home := .tile t, rd := some rd,
                     kind := .spawn (w.extractLsb' 0 6) (v.xr rs2) [v.xr 12, v.xr 13, v.xr 14, v.xr 15], entry := v.entry }
    let key := seqKey 0x3FF t (w.extractLsb' 0 6)
    (65536 ≤ w.toNat → Runs (.rspawn rd rs1 rs2) s (s.fault i { cause := 0x58, info := chanInfo (w.extractLsb' 0 6) t })) ∧
    (w.toNat < 65536 → ¬served → Runs (.rspawn rd rs1 rs2) s (s.fault i { cause := 0x53 })) ∧
    (w.toNat < 65536 → served → ¬reached → Runs (.rspawn rd rs1 rs2) s (s.fault i { cause := 0x59 })) ∧
    (w.toNat < 65536 → served → reached →
      ∃ u q, Runs (.rspawn rd rs1 rs2) s u ∧ u.reqs = s.reqs ++ [{ r with packet := q }] ∧
        (q = none ↔ dieOf t = dieOf i.tile) ∧
        u.me = { v with wait := some (.reply s.nextId), mseq := put v.mseq key (find 0 v.mseq key + 1) } ∧
        (∀ j, j ≠ i → u.slot j = s.slot j) ∧ (dieOf t = dieOf i.tile → u.links = s.links) ∧
        { u with reqs := s.reqs, slots := s.slots, nextId := s.nextId, links := s.links } = s)) ∧
  (∀ (s : State) (id : Nat) (r : Req) (n : BitVec 6) (pc a2 a3 a4 a5 : Word) (t : BitVec 10) (rd : XReg),
    s.req? id = some r → r.kind = .spawn n pc [a2, a3, a4, a5] → r.home = .tile t → r.rd = some rd → (s.ctx r.ctx).rerun = 0 →
    (s.slot r.src).ctx = r.ctx →
    let e := s.entry t n
    let i := r.src
    let v := s.slot i
    let home := (s.landed r).1 = true
    let s0 := (s.landed r).2
    (r.state = .sent → ¬home → Runs (.rspawnRequest id) s s0 ∧ s0.slots = s.slots ∧ s0.tiles = s.tiles ∧ s0.mem = s.mem) ∧
    (∀ w m, r.state = .replied w m → ¬home → Runs (.rspawnReply id) s s0 ∧ s0.slots = s.slots ∧ s0.tiles = s.tiles ∧ s0.mem = s.mem) ∧
    (r.state = .sent → home → e.valid = true → e.ctx = r.ctx → pc.toNat % 4 = 0 → e.codeLo.toNat ≤ pc.toNat → pc.toNat < e.codeHi.toNat →
      (∀ j, s.spawnSlot t n = some j →
        ∃ u, Runs (.rspawnRequest id) s u ∧ (u.slot j).busy = true ∧ (u.slot j).entry = n ∧ (u.slot j).ctx = e.ctx ∧
          (u.slot j).pc = pc ∧ (u.slot j).xr 10 = 0 ∧ (u.slot j).xr 11 = r.src.tile.setWidth 64 ∧ (u.slot j).xr 12 = a2 ∧
          (u.slot j).xr 13 = a3 ∧ (u.slot j).xr 14 = a4 ∧ (u.slot j).xr 15 = a5 ∧ (u.slot j).chain = 1 ∧
          (u.slot j).k = Vector.replicate 16 {} ∧ (u.slot j).outRes = e.prod.toNat ∧
          ∃ q, u.req? id = some q ∧ q.state = .replied 1 .none) ∧
      (s.spawnSlot t n = none →
        ∃ u q, Runs (.rspawnRequest id) s u ∧ u.req? id = some q ∧ q.state = .replied 0 .none ∧ u.slots = s.slots ∧ u.tiles = s.tiles ∧
          u.mem = s.mem)) ∧
    (r.state = .replied 1 .none → home → v.wait = some (.reply id) →
      Runs (.rspawnReply id) s ((s0.dropReq id).setSlot i ({ v with wait := none }.setX rd 1).retire)) ∧
    (r.state = .replied 0 .none → home → v.wait = some (.reply id) → (s.entryOf i).holds pc = true → v.links.length < 16 →
      ∃ u, Runs (.rspawnReply id) s u ∧ (u.slot i).wait = none ∧ (u.slot i).pc = pc ∧
        (u.slot i).links = { ra := v.xr 1, rd := rd } :: v.links ∧ (u.slot i).instret = v.instret + 1 ∧
        (∀ q, (u.slot i).xr q = if q = 1 then v.pc + 4 else if q = 12 then a2 else if q = 13 then a3 else if q = 14 then a4
          else if q = 15 then a5 else v.xr q) ∧ (u.slot i).k = v.k ∧
        { u with slots := s.slots, reqs := s.reqs, board := { u.board with home := s.board.home } } = s))

/-- R54, R56, R59, R162: a selection with a candidate completes: the entry of the highest EPRIO, the first one after the core's last in
cyclic order, is taken; its AGE returns to 0 and its EPRIO to PRIO; the firing starts in the lowest-numbered free slot of the core, with the
registers of R56, its outbox reservation, the lowest run of slab that is free (`lowestRun` is what ArenasAllot says) and L seeded. With a
pending spawn record of the entry the oldest one gives the PC and a2 to a5. Else the oldest RATEP and RATES unreserved messages are
reserved, and the first of them gives a1, a spawn message also the PC and a2 to a5, and the titles of k0 and on; a spawn message with its PC
out of bounds starts nothing. (The own tile in a1 where no message is reserved is the model's choice, log 70 DESIGN CHOICE; the serial that
L takes is log 9 DEDUCED, the generation of a title taken from the table log 45 DEDUCED.) -/
def Obligations.SelectionDispatches : Prop :=
  ∀ (s : State) (tile : BitVec 10) (core : Bool) (i : SlotId) (n : BitVec 6),
    let t := s.tile tile
    let e := s.entry tile n
    let c := s.ctx e.ctx
    let last := if core then t.lastC else t.lastS
    let cand := fun (m : BitVec 6) => (s.entry tile m).cclass = core ∧ s.runnable tile m = true
    let after := fun (m : BitVec 6) => (m - last - 1).toNat
    let h := (i.core, i.slot)
    let prim := (s.chan tile n).recs
    let secR := match e.sec with
      | some k => (s.chan tile k).recs
      | none => []
    let oldest := fun (rate : BitVec 6) (rs : List ChRec) =>
      if rate = 0 then none else (rs.find? (fun r => r.holder.isNone)).map ChRec.msg
    let first := (oldest e.rateP prim).or (oldest e.rateS secR)
    let inside := fun (pc : Word) => e.codeLo.toNat ≤ pc.toNat ∧ pc.toNat < e.codeHi.toNat
    let taken := fun (u : State) =>
      (u.entry tile n).age = 0 ∧ (u.entry tile n).eprio = e.prio ∧ (if core then (u.tile tile).lastC else (u.tile tile).lastS) = n
    let starts := fun (u : State) (pc a0 a1 : Word) (args : List Word) (titles : List Title) =>
      let v := u.slot i
      let seed : BitVec 16 := c.rseed ^^^ (((s.slot i).serial + 1).setWidth 16) ^^^
        BitVec.ofNat 16 ((tile.toNat * 8 + (if core then 4 else 0) + i.slot.toNat) * 8)
      v.busy = true ∧ v.entry = n ∧ v.ctx = e.ctx ∧ v.pc = pc ∧
      (∀ q : XReg, v.xr q =
        if q = 2 then BitVec.ofNat 64 (i.slot.toNat * 0x2000 + 0x2000) else if q = 3 then c.globals.setWidth 64
        else if q = 10 then a0 else if q = 11 then a1
        else if q = 12 then args.getD 0 0 else if q = 13 then args.getD 1 0 else if q = 14 then args.getD 2 0
        else if q = 15 then args.getD 3 0 else 0) ∧
      (∀ q : Fin 16, v.k[q] = match titles[q.val]? with
        | some w => { img := if w.isShare then w else { w with gen := (s.tte w).gen } }
        | none => {}) ∧
      v.vw = startViews ∧ v.wdog = 0 ∧ v.chain = 1 ∧ v.serial = (s.slot i).serial + 1 ∧ v.outRes = e.prod.toNat ∧
      v.lfsr = (if seed = 0 then 0xACE1 else seed) ∧
      v.slabLen = (if e.partner.isSome then 0 else e.slab.toNat * 4096) ∧
      (e.partner.isSome ∨ e.slab = 0 → v.slabBase = 0) ∧
      (e.partner = none → e.slab ≠ 0 → ∃ b, lowestRun e.slab.toNat 64 0 (s.slabRuns tile) = some b ∧ v.slabBase = b * 4096) ∧
      taken u
    let reserved := fun (u : State) (k : BitVec 6) (rate : BitVec 6) =>
      ∀ j r, (s.chan tile k).recs[j]? = some r → ∃ r', (u.chan tile k).recs[j]? = some r' ∧ r'.msg.hdr = r.msg.hdr ∧
        r'.msg.payload = r.msg.payload ∧
        r'.holder = if r.holder = none ∧ (((s.chan tile k).recs.take j).filter (fun x => x.holder.isNone)).length < rate.toNat
                    then some h else r.holder
    s.replayingCtxs = [] → (∀ c, (s.ctx c).rerun = 0) →
    i.tile = tile → i.core = core → (s.slot i).busy = false →
    (∀ j : BitVec 2, j.toNat < i.slot.toNat → (s.slot ⟨tile, core, j⟩).busy = true) → cand n →
    (∀ m, cand m → (s.entry tile m).eprio.toNat ≤ e.eprio.toNat) →
    (∀ m, cand m → (s.entry tile m).eprio = e.eprio → after n ≤ after m) →
    (∀ r ∈ prim ++ secR, r.holder ≠ some h) → e.sec ≠ some n →
    (∀ r, t.pool.find? (fun x => x.entry == n) = some r → inside r.pc →
      ∃ u, Runs (.selection tile core) s u ∧ starts u r.pc 0 (tile.setWidth 64) r.args [] ∧ (u.slot i).fromQueue = r.queued) ∧
    ((∀ x ∈ t.pool, x.entry ≠ n) →
      let a0 := BitVec.ofNat 64 prim.length
      let res := fun (u : State) => reserved u n e.rateP ∧ ∀ k, e.sec = some k → reserved u k e.rateS
      (first = none →
        ∃ u, Runs (.selection tile core) s u ∧ starts u (e.entryPc.setWidth 64) a0 (tile.setWidth 64) [] [] ∧ res u) ∧
      (∀ m, first = some m → m.titles.length ≤ 3 → (∀ w ∈ m.titles, w.kind ≠ 0 ∧ (w.isShare = true ∨ w.ctx = e.ctx)) →
        (hdrKind m.hdr ≠ 1 →
          ∃ u, Runs (.selection tile core) s u ∧
            starts u (e.entryPc.setWidth 64) a0 ((hdrTile m.hdr).setWidth 64) [] m.titles ∧ res u) ∧
        (hdrKind m.hdr = 1 → inside (m.payload.getD 0 0) →
          ∃ u, Runs (.selection tile core) s u ∧
            starts u (m.payload.getD 0 0) a0 ((hdrTile m.hdr).setWidth 64) ((m.payload.drop 1).take 4) m.titles ∧ res u) ∧
        (hdrKind m.hdr = 1 → ¬inside (m.payload.getD 0 0) → m.titles = [] →
          ∃ u, Runs (.selection tile core) s u ∧ u.slot i = s.slot i ∧ taken u)))

/-! ### Messages, channels, handlers, semaphores (chapters 03 and 15) -/

/-- R51, R186, R199, R201, R203: SEND of a block, its short form and POST complete where the destination is served, the block is sound, a
buffer is granted and one is free: one message goes to the outbox with the block's payload, no title here; a POST's is held until what
the slot has under way is performed (R117). Where no buffer is granted the slot joins the line for one and nothing else changes. (The line for
a buffer, and that a send leaves the firing's reservation in place, are the model's readings, log 15 DEDUCED.) -/
def Obligations.SendsPlaceMessages : Prop :=
  ∀ (s : State) (rs1 rs2 : XReg) (tile : BitVec 10) (chan : BitVec 6), s.Ready [rs1, rs2] →
    (s.tile s.cur.tile).outbox.length < 128 →
    let i := s.cur
    (∀ d, s.dest i { peer := 0x3FF, tile := tile, chan := chan } = .ok d → d.chan = chan ∧ d.tile = tile ∧
      (s.outGranted i = true → ∃ t, Runs (.sendShort rs1 tile chan) s t ∧ Sends s t i d 0 [] [s.me.xr rs1] false ∧ t.me.k = s.me.k) ∧
      (s.outGranted i = false → Runs (.sendShort rs1 tile chan) s (s.queueOut i))) ∧
    (∀ d b, s.destOf i (s.me.xr rs1) = .ok d → readBlock s i (s.me.xr rs2) (chanInfo d.chan d.tile) = .ok b → b.regs = [] →
      (s.outGranted i = true →
        (∃ t, Runs (.send rs1 rs2) s t ∧ Sends s t i d b.kind [] b.payload false ∧ t.me.k = s.me.k) ∧
        (∃ t, Runs (.post rs1 rs2) s t ∧ Sends s t i d b.kind [] b.payload true ∧ t.me.k = s.me.k)) ∧
      (s.outGranted i = false → Runs (.send rs1 rs2) s (s.queueOut i) ∧ Runs (.post rs1 rs2) s (s.queueOut i)))

/-- R74, R201, R225: TSEND, its short form and a SEND of a block with one title complete where the checks of TitleOut pass, a buffer is
granted and free, no access or job of the slot under the title is under way and the move needs no scan (it stays in the cluster or lies
in SRAM): the title leaves its register and travels in the message; its entry, if it is a root's, is in flight without an owner; no
other register changes. (That a share's TitleOut leaves the entry of its root as it was is the model's reading, log 14 DEDUCED; the
reservation of the buffer log 15 DEDUCED.)

R74, R76, R123, R241: an empty register, or one that a queued MV.XFER has locked, raises 0x10 as the source of a TSEND. A title that fails a check of TitleOut stays: TSEND raises the first failing check's cause, naming the title: no SEND
right 0x1D, carved parts 0x15, a share that would leave its package or context 0x1E, shares of a WHOLE that would leave them 0x17 (0x1E
before 0x17 is the model's reading, log 13 DEDUCED). -/
def Obligations.TitlesTravelOrStay : Prop :=
  (∀ (s : State) (k : KReg) (rs1 rs2 : XReg) (tile : BitVec 10) (chan : BitVec 6) (d : Dest) (x : Title), s.Ready [rs1, rs2] →
    let i := s.cur
    (s.tile i.tile).outbox.length < 128 → s.outGranted i = true →
    (s.me.kr k).img = x → x.kind ≠ 0 → (s.me.kr k).locked = false → s.outChecks i x d false = .ok () →
    s.busyUnder i x = false → needsScan i x d false = false →
    let moved := fun (t : State) => t.me.k = s.me.k.set k.toNat {} ∧
      (x.isShare = false → (t.tte x).state = 2 ∧ (t.tte x).ownTile = 0 ∧ (t.tte x).gen = (s.tte x).gen) ∧
      (x.isShare = true → t.ctxs = s.ctxs) ∧
      (∀ c (n : BitVec 20), ¬(c = x.ctx ∧ n = x.index) → find {} (t.ctx c).table n.toNat = find {} (s.ctx c).table n.toNat)
    (s.destOf i (s.me.xr rs1) = .ok d → ∃ t, Runs (.tsend k rs1) s t ∧ Sends s t i d 0 [x] [] false ∧ moved t) ∧
    (s.dest i { peer := 0x3FF, tile := tile, chan := chan } = .ok d →
      ∃ t, Runs (.tsendShort k tile chan) s t ∧ Sends s t i d 0 [x] [] false ∧ moved t) ∧
    (∀ b, s.destOf i (s.me.xr rs1) = .ok d → readBlock s i (s.me.xr rs2) (chanInfo d.chan d.tile) = .ok b → b.regs = [k] →
      ∃ t, Runs (.send rs1 rs2) s t ∧ Sends s t i d b.kind [x] b.payload false ∧ moved t)) ∧
  (∀ (s : State) (k : KReg) (rs : XReg) (d : Dest) (x : Title), s.Ready [rs] →
    let i := s.cur
    (s.me.kr k).img = x → s.destOf i (s.me.xr rs) = .ok d →
    (x.kind = 0 ∨ (s.me.kr k).locked = true → Runs (.tsend k rs) s (s.fault i { cause := 0x10 })) ∧
    (x.kind ≠ 0 → (s.me.kr k).locked = false →
    let far := d.peer ≠ 0x3FF ∨ d.ctx ≠ x.ctx
    let raises := fun (c : BitVec 7) => Runs (.tsend k rs) s (s.fault i { cause := c, tindex := x.index, tgen := x.gen })
    (x.rights.getLsbD 1 = false → raises 0x1D) ∧
    (x.rights.getLsbD 1 = true → x.kind = 1 → (s.tte x).carved ≠ 0 → raises 0x15) ∧
    (x.rights.getLsbD 1 = true → x.isShare = true → far → raises 0x1E) ∧
    (x.rights.getLsbD 1 = true → x.isShare = false → (x.kind = 1 → (s.tte x).carved = 0) → s.rightsOnly x d = false → raises 0x1E) ∧
    (x.rights.getLsbD 1 = true → x.kind = 1 → (s.tte x).carved = 0 → s.rightsOnly x d = true → (s.tte x).shares ≠ 0 → far → raises 0x17)))

/-- R202, R256: SENDV of a view within the slab sends its 256 bytes as 32 double words once no edge holds the read and a buffer is granted;
a STRIDE of 0 raises 0x05, a view beyond the allotment 0x06; SENDV of vin sends the message that it pops, whatever vw0 says (that vin does
not look at STRIDE is the model's choice, log 68 DESIGN CHOICE).

R62, R204: VOLLEY sends one message with one copy to each tile in service of the product of its masks, each with its own sequence
number, from one buffer; an empty set or a block with titles raises 0x58 (tile 0 in its INFO is the model's reading, log 24 DEDUCED). -/
def Obligations.WideSends : Prop :=
  (∀ (s : State) (rs : XReg) (vs : VReg) (d : Dest), s.Ready [rs] →
    let i := s.cur
    let w := s.me.vwr 0
    let o := w.base + 256 * w.stride * vs.toNat
    let (b, l) := s.slabOf i
    s.destOf i (s.me.xr rs) = .ok d →
    (vs ≠ vin → w.stride = 0 → Runs (.sendv rs vs) s (s.fault i { cause := 0x05 })) ∧
    (vs ≠ vin → w.stride ≠ 0 → l < o + 256 → Runs (.sendv rs vs) s (s.fault i { cause := 0x06 })) ∧
    (vs ≠ vin → w.stride ≠ 0 → o + 256 ≤ l →
      (s.tile i.tile).edgeFree i.core [{ space := .slab i.tile, lo := b + o, hi := b + o + 256 }] [] s.nextId = true →
      s.outGranted i = true → (s.tile i.tile).outbox.length < 128 →
      ∃ t, Runs (.sendv rs vs) s t ∧ Sends s t i d 0 [] (dwords 32 (s.bytes (slabKey i.tile (b + o)) 256)) false) ∧
    (vs = vin → ∀ n r, (s.ctxOf i).rerun = 0 → s.vinChoose i = .ok (n, s) → (s.chan i.tile s.me.entry).recs[n]? = some r →
      s.outGranted i = true → (s.tile i.tile).outbox.length < 128 →
      ∃ t, Runs (.sendv rs vs) s t ∧ Sends s t i d 0 [] (dwords 32 (vinBytes r.msg)) false ∧
        (t.chan i.tile s.me.entry).recs = (s.chan i.tile s.me.entry).recs.eraseIdx n)) ∧
  (∀ (s : State) (rs1 rs2 : XReg) (b : Block), s.Ready [rs1, rs2] →
    let i := s.cur
    let w := s.me.xr rs1
    let inSet := fun (t : BitVec 10) => w.getLsbD (t.toNat / 128) = true ∧ w.getLsbD (8 + t.toNat / 16 % 8) = true ∧
      w.getLsbD (16 + t.toNat % 16) = true ∧ (s.tile t).inService = true
    let info := chanInfo (w.extractLsb' 32 6) 0
    readBlock s i (s.me.xr rs2) info = .ok b →
    (2 ^ 38 ≤ w.toNat → Runs (.volley rs1 rs2) s (s.fault i { cause := 0x58, info := info })) ∧
    (w.toNat < 2 ^ 38 → b.regs ≠ [] → Runs (.volley rs1 rs2) s (s.fault i { cause := 0x58, info := info })) ∧
    (w.toNat < 2 ^ 38 → b.regs = [] → (∀ t, ¬inSet t) → Runs (.volley rs1 rs2) s (s.fault i { cause := 0x58, info := info })) ∧
    (w.toNat < 2 ^ 38 → b.regs = [] → (∃ t, inSet t) → (∀ t, inSet t → s.reach (dieOf i.tile) (dieOf t) = true) →
      s.outGranted i = true → (s.tile i.tile).outbox.length < 128 →
      ∃ u n m, Runs (.volley rs1 rs2) s u ∧ n < 128 ∧ (∀ e ∈ (s.tile i.tile).outbox, e.1 ≠ n) ∧
        (u.tile i.tile).outbox = put (s.tile i.tile).outbox n m ∧ m.msg.payload = b.payload ∧ m.msg.titles = [] ∧ m.peer = 0x3FF ∧
        (∀ t, (∃ c ∈ m.copies, c.tile = t) ↔ inSet t) ∧ (m.copies.map Copy.tile).Nodup ∧
        (∀ c ∈ m.copies, c.refused = false ∧ hdrChan c.hdr = w.extractLsb' 32 6 ∧
          hdrSeq c.hdr = find 0 s.me.mseq (seqKey 0x3FF c.tile (w.extractLsb' 32 6))) ∧
        u.me.pc = s.me.pc + 4 ∧ u.me.x = s.me.x ∧ u.me.k = s.me.k ∧ u.mem = s.mem ∧ (∀ j, j ≠ i → u.slot j = s.slot j)))

/-- R205 to R207: with a message to take (the oldest that the slot has reserved, else the oldest unreserved one), RECV writes its header
to rd, its payload where rs asks for it, and pops it; CHPOP writes the header of one without titles and pops it; CHCNT counts the messages that
are unreserved or reserved by the slot. With none, RECV waits, CHPOP gives all ones and CHCNT 0. A secondary channel where the entry
has none raises 0x5A. (That CHPOP judges by the header and RECV by the titles that the record still holds is the model's reading, log 16
DEDUCED; the own tile in INFO of CHPOP's 0x58 log 24 DEDUCED.)

R75, R205: RECV of a message with titles. The registers from kd on that they go to must exist (up to k15) and be empty and not locked,
else 0x1F is raised and the message stays. Roots of the own context, and shares, come into kd and on in order, a root with the generation of
its entry, which is held by the slot again. A root of another context gets the lowest free entry of the own table, as a root without parent,
shares or parts, and the entry it came from is free; with no free entry RECV raises 0x1B (R72). (The generation that a title takes is the
model's reading, log 45 DEDUCED; that RECV goes by the titles of the record log 16 DEDUCED.) -/
def Obligations.Receiving : Prop :=
  (∀ (s : State) (rd rs : XReg) (kd : KReg) (c : BitVec 6), s.Ready [rs] → (s.ctxOf s.cur).rerun = 0 →
    let i := s.cur
    let v := s.me
    let w := v.xr rs
    let h := (i.core, i.slot)
    let e := s.entryOf i
    let second := w.getLsbD 0
    let recs := (s.chan i.tile c).recs
    let after := fun (n : Nat) => s.modChan i.tile c (fun x => x.pop n)
    let keep := rs ≠ 0 ∧ w.getLsbD 1 = false
    let addr := w.toNat / 8 * 8
    (second = true → e.sec = none → Runs (.chpop rd rs) s (s.fault i { cause := 0x5A }) ∧ Runs (.chcnt rd rs) s (s.fault i { cause := 0x5A }) ∧
      Runs (.recv rd kd rs) s (s.fault i { cause := 0x5A })) ∧
    ((if second then e.sec else some v.entry) = some c →
      Runs (.chcnt rd rs) s (s.retireX rd (BitVec.ofNat 64 (recs.filter (fun r => r.holder.isNone || r.holder == some h)).length)) ∧
      ((s.chan i.tile c).choose h = none →
        Runs (.chpop rd rs) s (s.retireX rd (BitVec.allOnes 64)) ∧ (¬keep → Runs (.recv rd kd rs) s s)) ∧
      (∀ n r, (s.chan i.tile c).choose h = some n → recs[n]? = some r →
        (hdrNt r.msg.hdr = 0 → Runs (.chpop rd rs) s ((after n).retireX rd r.msg.hdr)) ∧
        (hdrNt r.msg.hdr ≠ 0 → Runs (.chpop rd rs) s (s.fault i { cause := 0x58, info := chanInfo c i.tile })) ∧
        (r.msg.titles = [] → ¬keep → Runs (.recv rd kd rs) s ((after n).retireX rd r.msg.hdr)) ∧
        (r.msg.titles = [] → keep → i.slot.toNat * 0x2000 ≤ addr → addr + 256 ≤ (i.slot.toNat + 1) * 0x2000 →
          e.holds (BitVec.ofNat 64 addr) = false →
          Runs (.recv rd kd rs) s (((after n).store (coreKey i.tile i.core addr) (wordsBytes r.msg.payload)).retireX rd r.msg.hdr))))) ∧
  (∀ (s : State) (rd : XReg) (kd : KReg) (n : Nat) (r : ChRec), s.Ready [0] → (s.ctxOf s.cur).rerun = 0 →
    let i := s.cur
    let v := s.me
    let xs := r.msg.titles
    let fits := kd.toNat + xs.length ≤ 16 ∧ ∀ j < xs.length, (v.kr (BitVec.ofNat 4 (kd.toNat + j))).img.kind = 0 ∧
      (v.kr (BitVec.ofNat 4 (kd.toNat + j))).locked = false
    let taken := fun (t : State) => t.me.xr rd = (if rd = 0 then 0 else r.msg.hdr) ∧
      (t.chan i.tile v.entry).recs = (s.chan i.tile v.entry).recs.eraseIdx n ∧ t.mem = s.mem
    (s.chan i.tile v.entry).choose (i.core, i.slot) = some n → (s.chan i.tile v.entry).recs[n]? = some r →
    (¬fits → Runs (.recv rd kd 0) s (s.fault i { cause := 0x1F })) ∧
    (fits → (∀ x ∈ xs, x.kind ≠ 0 ∧ (x.isShare = true ∨ x.ctx = v.ctx)) →
      ∃ t, Runs (.recv rd kd 0) s t ∧ taken t ∧
        (∀ q : KReg, t.me.kr q = if kd.toNat ≤ q.toNat then
          match xs[q.toNat - kd.toNat]? with
          | some x => { img := if x.isShare then x else { x with gen := (s.tte x).gen } }
          | none => v.kr q
          else v.kr q) ∧
        (∀ x ∈ xs, x.isShare = false → (t.tte x).state = 1 ∧ (t.tte x).ownTile = i.tile ∧ (t.tte x).ownCore = i.core ∧
          (t.tte x).ownSlot = i.slot ∧ (t.tte x).gen = (s.tte x).gen)) ∧
    (∀ x, fits → xs = [x] → x.kind ≠ 0 → x.isShare = false → x.ctx ≠ v.ctx →
      ((s.ctx v.ctx).freeIndex = none → Runs (.recv rd kd 0) s (s.fault i { cause := 0x1B })) ∧
      (∀ m, (s.ctx v.ctx).freeIndex = some m →
        let idx : BitVec 20 := BitVec.ofNat 20 m
        1 ≤ m ∧ (find {} (s.ctx v.ctx).table m).state = 0 ∧ (∀ l, 1 ≤ l → l < m → (find {} (s.ctx v.ctx).table l).state ≠ 0) ∧
        ∃ t, Runs (.recv rd kd 0) s t ∧ taken t ∧ t.me.kr kd = { img := { x with ctx := v.ctx, index := idx } } ∧
          (∀ q, q ≠ kd → t.me.kr q = v.kr q) ∧
          find {} (t.ctx v.ctx).table idx.toNat = {
            state := 1, kind := x.kind, gen := x.gen, ownTile := i.tile, ownCore := i.core, ownSlot := i.slot, rights := x.rights,
            loc := x.loc, base := x.base, len := x.len, place := x.place, world := x.world, domain := x.domain } ∧
          (t.tte x).state = 0 ∧ (t.tte x).gen = (s.tte x).gen ∧ (t.tte x).parent = 0 ∧ (t.tte x).shares = 0 ∧ (t.tte x).carved = 0)))

/-- R47, R208: HMASK, HUNMASK and HPRIO of a valid entry of the issuing context complete and change that entry alone: MASK, or PRIO with
EPRIO not below it; any other operand raises 0x53.

R117, R191, R209: semaphores. SEM.V, once the slot's writes to SRAM and slab are performed, hands its unit to the slot that has waited
longest, or raises a count below 65 535; SEM.P takes a unit where the count is above 0, else the slot joins the line once: behind the
waits that began in earlier cycles, and in the order of core and slot among those of the same cycle; SEM.TRY takes one and gives 1, or
gives 0. -/
def Obligations.HandlersAndSemaphores : Prop :=
  (∀ (s : State) (rs1 rs2 : XReg), s.Ready [rs1, rs2] →
    let i := s.cur
    let w := s.me.xr rs1
    let n : BitVec 6 := w.setWidth 6
    let e := s.entry i.tile n
    let named := w.toNat < 64 ∧ e.valid = true ∧ e.ctx = s.me.ctx
    let p : BitVec 3 := (s.me.xr rs2).setWidth 3
    let sets := fun (ins : Instr) (e' : Entry) =>
      ∃ t, Runs ins s t ∧ t.entry i.tile n = e' ∧ (∀ m, m ≠ n → t.entry i.tile m = s.entry i.tile m) ∧ t.me = s.me.retire ∧
        (∀ u, u ≠ i.tile → t.tile u = s.tile u) ∧ (t.tile i.tile).chans = (s.tile i.tile).chans ∧
        (t.tile i.tile).pool = (s.tile i.tile).pool ∧ (∀ j, j ≠ i → t.slot j = s.slot j) ∧
        { t with slots := s.slots, tiles := s.tiles } = s
    (named → sets (.hmask rs1) { e with mask := true } ∧ sets (.hunmask rs1) { e with mask := false } ∧
      sets (.hprio rs1 rs2) { e with prio := p, eprio := BitVec.ofNat 3 (Nat.max e.eprio.toNat p.toNat) }) ∧
    (¬named → Runs (.hmask rs1) s (s.fault i { cause := 0x53 }) ∧ Runs (.hunmask rs1) s (s.fault i { cause := 0x53 }) ∧
      Runs (.hprio rs1 rs2) s (s.fault i { cause := 0x53 }))) ∧
  (∀ (s : State) (n : SemNo) (rd : XReg), s.Ready [] → (s.ctxOf s.cur).rerun = 0 →
    let i := s.cur
    let t := s.tile i.tile
    let k := (find (0, 0) t.semBlocks s.me.ctx.toNat).1 + n.toNat
    let c := find 0 t.sems k
    let set := fun (c : BitVec 16) => s.modTile i.tile (fun t => { t with sems := put t.sems k c })
    let line := t.semWaiters.filter (fun w => w.1 == k)
    let now := s.cycles[(dieOf i.tile).toNat]
    let same := fun (x : Nat × Bool × BitVec 2) => t.semLast == now && t.semSame.contains x
    let rank := fun (x : Nat × Bool × BitVec 2) => (if x.2.1 then 4 else 0) + x.2.2.toNat
    let ahead := fun (x : Nat × Bool × BitVec 2) => decide (rank x < rank (k, i.core, i.slot))
    (s.releaseReady i = false → Runs (.semV n) s s) ∧
    (s.releaseReady i = true → line = [] → c.toNat < 65535 → Runs (.semV n) s (set (c + 1)).retire) ∧
    (s.releaseReady i = true → line = [] → c.toNat = 65535 → Runs (.semV n) s s) ∧
    (∀ core slot rest, s.releaseReady i = true → line = (k, core, slot) :: rest → (⟨i.tile, core, slot⟩ : SlotId) ≠ i →
      ∃ u, Runs (.semV n) s u ∧ (u.tile i.tile).sems = t.sems ∧ (u.tile i.tile).semWaiters.filter (fun w => w.1 == k) = rest ∧
        u.slot ⟨i.tile, core, slot⟩ = (s.slot ⟨i.tile, core, slot⟩).retire ∧ u.me = s.me.retire) ∧
    (0 < c.toNat → Runs (.semP n) s (set (c - 1)).retire ∧ Runs (.semTry rd n) s ((set (c - 1)).retireX rd 1)) ∧
    (c.toNat = 0 → Runs (.semTry rd n) s (s.retireX rd 0) ∧
      ∃ u, Runs (.semP n) s u ∧ u.me = s.me ∧ (u.tile i.tile).sems = t.sems ∧
        (u.tile i.tile).semWaiters = (if t.semWaiters.contains (k, i.core, i.slot) then t.semWaiters
          else t.semWaiters.filter (fun x => !same x) ++ t.semWaiters.filter (fun x => same x && ahead x) ++
            (k, i.core, i.slot) :: t.semWaiters.filter (fun x => same x && !ahead x))))

/-! ### Status, views, identity, titles (chapters 05, 15 and 17) -/

/-- R215: SLOTID and TILEID complete with the words of the table, bits above them 0.

R227: TINFO completes with the field of the image that n names, zero-extended; an empty register raises 0x10.

R228: TCHK completes with 0 where R73 would admit the access, else with the first of 0x12, 0x13, 0x14 and 0x15; an empty register
raises 0x10. -/
def Obligations.TitleAndIdentityReads : Prop :=
  (∀ (s : State) (rd : XReg), s.Ready [] →
    let v := s.me
    let i := s.cur
    (∃ w : Word, Runs (.slotid rd) s (s.retireX rd w) ∧ w.extractLsb' 27 37 = 0 ∧ w.extractLsb' 22 5 = v.chain ∧
      (v.links.length ≤ 16 → (w.extractLsb' 17 5).toNat = v.links.length) ∧ w.extractLsb' 11 6 = v.entry ∧
      w.extractLsb' 3 8 = v.ctx ∧ w.getLsbD 2 = i.core ∧ w.extractLsb' 0 2 = i.slot) ∧
    (∃ w : Word, Runs (.tileid rd) s (s.retireX rd w) ∧ w.extractLsb' 20 44 = 0 ∧ w.extractLsb' 10 10 = s.board.accelId ∧
      w.extractLsb' 0 10 = i.tile)) ∧
  (∀ (s : State) (rd : XReg) (ks : KReg), s.Ready [] →
    let x := (s.me.kr ks).img
    let gives := fun (n : BitVec 5) (w : Nat) => Runs (.tinfo rd ks n) s (s.retireX rd (BitVec.ofNat 64 w))
    (x.kind = 0 → ∀ n, Runs (.tinfo rd ks n) s (s.fault s.cur { cause := 0x10 })) ∧
    (x.kind ≠ 0 → (s.me.kr ks).locked = false →
      gives 0 x.kind.toNat ∧ gives 1 x.rights.toNat ∧ gives 2 x.loc.toNat ∧ gives 3 (256 * x.len.toNat) ∧ gives 4 x.base.toNat ∧
      gives 5 x.place.toNat ∧ gives 6 x.index.toNat ∧ gives 7 x.gen.toNat ∧ gives 8 x.domain.toNat ∧ gives 9 (b2n x.world) ∧
      gives 10 x.ctx.toNat)) ∧
  (∀ (s : State) (rd rs : XReg) (ks : KReg), s.Ready [rs] →
    let x := (s.me.kr ks).img
    let w := s.me.xr rs
    let off := w.toNat % 2 ^ 48
    let n := w.toNat / 2 ^ 48 % 256
    let needs := w.extractLsb' 59 5
    let rights := ∀ b : Nat, b < 5 → needs.getLsbD b = true → x.rights.getLsbD b = true
    let inside := off + n + 1 ≤ 256 * x.len.toNat
    let unshared := needs.getLsbD 3 = true → (s.tte x).shares = 0
    let uncarved := x.kind = 1 → (s.tte x).carved = 0
    let gives := fun (w : Word) => Runs (.tchk rd ks rs) s (s.retireX rd w)
    (x.kind = 0 → Runs (.tchk rd ks rs) s (s.fault s.cur { cause := 0x10 })) ∧
    (x.kind ≠ 0 → (s.me.kr ks).locked = false →
      (¬rights → gives 0x12) ∧ (rights → ¬inside → gives 0x13) ∧ (rights → inside → ¬unshared → gives 0x14) ∧
      (rights → inside → unshared → ¬uncarved → gives 0x15) ∧ (rights → inside → unshared → uncarved → gives 0)))

/-- R213, R216: VIEWQ reads a double word of a view register; RERUN.MARK outside rerun has no effect, and in a recording context with
room appends its operand with KIND 0x0D; VIEW loads a register from a legal descriptor of 32 bytes under a title that admits the read, and raises 0x05 for a
misaligned offset or a descriptor with a reserved bit set, the view unchanged.

R210: WAITJ and JSTAT of a known job write its status, WAITJ once it is final; a status of FAULT raises 0x30 with the job number in
INFO and no register is written, and is then told (R141); any other number raises 0x62.

R145, R146, R148, R209, R210: recording and replay. A recording context's SEM.TRY and JSTAT append their results with KIND 0x09 and 0x0A, and wait
where the staging area is full. In replay JSTAT takes the logged value whatever the status is, SEM.TRY and RERUN.MARK what they are checked
against; where that differs 0x70 is raised with the logged value in INFO where it fits, and the instruction that RESUME repeats takes the logged value
(log 20, DEDUCED). Past the end of the log the result is the machine's own, with 0x71. -/
def Obligations.ViewsMarksAndJobs : Prop :=
  (∀ (s : State) (rd rs : XReg) (vw : VwReg) (n : BitVec 2) (ks : KReg), s.Ready [rs] →
    let i := s.cur
    let v := s.me.vw[vw.toNat]
    let o := (s.me.xr rs).toNat
    Runs (.viewq rd vw n) s (s.retireX rd (if n = 0 then v.d0 else if n = 1 then v.d1 else if n = 2 then v.d2 else v.d3)) ∧
    ((s.ctxOf i).rerun = 0 → Runs (.rerunMark rs) s s.retire) ∧
    (s.isRecording s.me.ctx = true → (s.tile i.tile).staging.length < 1024 →
      ∃ t, Runs (.rerunMark rs) s t ∧ t.me = s.me.retire ∧
        (t.tile i.tile).staging = (s.tile i.tile).staging ++ [(s.me.ctx,
          { kind := 0x0D, tile := i.tile, core := i.core, slot := i.slot, serial := s.me.serial, value := s.me.xr rs })]) ∧
    (o % 32 ≠ 0 → Runs (.view vw ks rs) s (s.fault i { cause := 0x05 })) ∧
    (∀ t bs s', o % 32 = 0 → s.allow s.me ks rRD o 32 = .ok t →
      (s.tile i.tile).edgeFree i.core [t.region o 32] [] s.nextId = true → s.titleLoad i t o 32 = .ok (bs, s') →
      let d : View := { d0 := leWord (bs.take 8), d1 := leWord ((bs.drop 8).take 8), d2 := leWord ((bs.drop 16).take 8),
                        d3 := leWord ((bs.drop 24).take 8) }
      (d.legal = true → Runs (.view vw ks rs) s (s'.setMe { s'.me with vw := s'.me.vw.set vw.toNat d }).retire) ∧
      (d.legal = false → Runs (.view vw ks rs) s (s.fault i { cause := 0x05 })))) ∧
  (∀ (s : State) (rd rs : XReg) (j : Job), s.Ready [rs] → (s.ctxOf s.cur).rerun = 0 →
    let i := s.cur
    let w := s.me.xr rs
    let n : BitVec 16 := w.setWidth 16
    let known := w.toNat < 65536 ∧ n ∈ s.me.known ∧ s.job? i.tile n = some j
    let failed := s.fault i { cause := 0x30, info := j.num.setWidth 32 }
    (known → j.status ≠ 6 → Runs (.jstat rd rs) s (s.retireX rd (j.status.setWidth 64))) ∧
    (known → j.status ≠ 6 → 3 ≤ j.status.toNat → Runs (.waitj rd rs) s (s.retireX rd (j.status.setWidth 64))) ∧
    (known → j.status.toNat < 3 → Runs (.waitj rd rs) s s) ∧
    (known → j.status = 6 → Runs (.jstat rd rs) s failed ∧ Runs (.waitj rd rs) s failed ∧
      failed.job? i.tile n = some { j with untold := none }) ∧
    (65536 ≤ w.toNat ∨ n ∉ s.me.known →
      Runs (.jstat rd rs) s (s.fault i { cause := 0x62 }) ∧ Runs (.waitj rd rs) s (s.fault i { cause := 0x62 }))) ∧
  (∀ (s : State) (n : SemNo) (rd rs : XReg) (j : Job) (e : LogEntry), s.Ready [rs] → (s.ctxOf s.cur).logStopped = false →
    let i := s.cur
    let v := s.me
    let c := s.ctxOf i
    let t := s.tile i.tile
    let w := v.xr rs
    let k := (find (0, 0) t.semBlocks v.ctx.toNat).1 + n.toNat
    let up := find 0 t.sems k
    let gives : Word := if 0 < up.toNat then 1 else 0
    let known := w.toNat < 65536 ∧ (w.setWidth 16 : BitVec 16) ∈ v.known ∧ s.job? i.tile (w.setWidth 16) = some j ∧ j.status ≠ 6
    let logs := fun (u : State) (kind : Byte) (x : Word) => (u.tile i.tile).staging = t.staging ++ [(v.ctx,
      { kind := kind, tile := i.tile, core := i.core, slot := i.slot, serial := v.serial, value := x })]
    let mine := fun (x : LogEntry) => x.tile == i.tile && x.core == i.core && x.slot == i.slot
    let pops := fun (u : State) => u.ctxOf i = { c with replay := removeFirst mine c.replay }
    let took := fun (u : State) (x : Word) => (u.tile i.tile).sems = if x = 1 ∧ 0 < up.toNat then put t.sems k (up - 1) else t.sems
    let v' : Slot := { v with skipCheck := false }
    let differs := fun (ins : Instr) => s.CanTrap i → ∃ u rec, Runs ins s u ∧ (u.ctxOf i).replay = c.replay ∧ u.me.skipCheck = true ∧
      EntersHandler s u i { cause := 0x70, info := if e.value.toNat < 2 ^ 32 then e.value.setWidth 32 else 0 } rec
    (c.rerun = 1 → t.staging.length < 1024 →
      (∃ u, Runs (.semTry rd n) s u ∧ u.me = (v.setX rd gives).retire ∧ took u gives ∧ logs u 0x09 gives) ∧
      (known → ∃ u, Runs (.jstat rd rs) s u ∧ u.me = (v.setX rd (j.status.setWidth 64)).retire ∧ logs u 0x0A (j.status.setWidth 64))) ∧
    (c.rerun = 1 → 1024 ≤ t.staging.length → Runs (.semTry rd n) s s ∧ Runs (.rerunMark rs) s s ∧ (known → Runs (.jstat rd rs) s s)) ∧
    (c.rerun = 2 → c.replay.find? mine = some e →
      (known → e.kind = 0x0A → ∃ u, Runs (.jstat rd rs) s u ∧ u.me = (v'.setX rd e.value).retire ∧ pops u) ∧
      (e.kind = 0x09 → e.value = gives ∨ v.skipCheck = true → ∃ u, Runs (.semTry rd n) s u ∧ u.me = (v'.setX rd e.value).retire ∧ took u e.value ∧
        pops u) ∧
      (e.kind = 0x09 → e.value ≠ gives → v.skipCheck = false → differs (.semTry rd n)) ∧
      (e.kind = 0x0D → e.value = w ∨ v.skipCheck = true → ∃ u, Runs (.rerunMark rs) s u ∧ u.me = v'.retire ∧ pops u) ∧
      (e.kind = 0x0D → e.value ≠ w → v.skipCheck = false → differs (.rerunMark rs))) ∧
    (c.rerun = 2 → c.replay.find? mine = none →
      ∃ u rec, Runs (.semTry rd n) s u ∧ u.me = (v.setX rd gives).retire ∧ took u gives ∧ u.ctxOf i = { c with logStopped := true } ∧
        rec.cause = 0x71 ∧ rec.typ = 2 ∧ rec.ctx = v.ctx ∧ u.funcs = (s.pushFunc rec).funcs))

/-- R127, R212: CTXKILL in a context of function 0: a context that is running, in the same world, becomes stopping and killed, each of its
firings begins to end, and 0x72 is recorded against it to the terminal ring; a free context or one of the other world is left alone. In a
context of another function it raises 0x08. The issuing firing goes on, but where it kills its own context: then it is the last to end, at
the CTXKILL itself. (0x72 for a context that is stopping already, its source fields 0, and the firing that ends last are the model's
readings, log 27 DEDUCED.)

R52, R63, R129: AGE_PROMOTION of a runnable entry with AGE at its last count sets it to 0 and raises EPRIO by one step, up to 7; an
entry that is not runnable keeps both (promotion at the count of 4095 is the model's reading, log 28 DEDUCED). A watchdog at its limit
raises 0x56 once, at the instruction issuing or waiting (not where that has had its effect already and is about to complete: an RSPAWN that
is accepted, a TSENDR whose copy is placed; log 62 DEDUCED); at its limit again, or in handler mode, the firing begins to end and 0x57 is recorded to the
terminal ring, and the watchdog is over. A firing that is ending counts on (R308), and its expiry is recorded so too (log 47). -/
def Obligations.KillsAndWatchdogs : Prop :=
  (∀ (s : State) (rs : XReg), s.Ready [rs] →
    let i := s.cur
    let c : BitVec 8 := (s.me.xr rs).setWidth 8
    let own := s.ctxOf i
    (own.func ≠ 0 → Runs (.ctxkill rs) s (s.fault i { cause := 0x08 })) ∧
    (own.func = 0 → (s.ctx c).state = 0 ∨ (s.ctx c).world ≠ own.world → Runs (.ctxkill rs) s s.retire) ∧
    (own.func = 0 → (s.ctx c).state ≠ 0 → (s.ctx c).world = own.world →
      ∃ t rec, Runs (.ctxkill rs) s t ∧ (t.ctx c).state = 2 ∧ (t.ctx c).killed = true ∧
        (∀ j, j ≠ i → (s.slot j).busy = true → (s.slot j).ctx = c → (t.slot j).ending = some .kill) ∧
        (∀ j, j ≠ i → (s.slot j).busy = false ∨ (s.slot j).ctx ≠ c → t.slot j = s.slot j) ∧
        (c ≠ s.me.ctx → t.me = s.me.retire) ∧
        (c = s.me.ctx → t.me.pc = s.me.pc ∧ t.me.busy = s.me.busy ∧ t.me.ending = some .last) ∧
        rec.cause = 0x72 ∧ rec.ctx = c ∧ t.rings.termQ = s.rings.termQ ++ [rec] ∧ t.mem = s.mem) ∧
    (∀ j, j ≠ i → s.me.ending = some .last → (s.slot j).busy = true → (s.slot j).ctx = s.me.ctx →
      ((s.tryEnd i).slot i).busy = s.me.busy)) ∧
  (∀ (s : State) (tile : BitVec 10) (e : BitVec 6) (i : SlotId) (n : Span),
    let v := s.slot i
    (s.runnable tile e = false → Runs (.agePromotion tile e) s s) ∧
    ((s.entry tile e).age = 4095 → s.runnable tile e = true →
      ∃ t, Runs (.agePromotion tile e) s t ∧ (t.entry tile e).age = 0 ∧
        (t.entry tile e).eprio.toNat = Nat.min 7 ((s.entry tile e).eprio.toNat + 1) ∧ { t with tiles := s.tiles } = s) ∧
    (s.watchOut i = true → v.ending = none → s.effective i = false → v.wdogTaken = false → v.handler = false →
      Runs (.watchdogExpiry i) s (s.fault i { cause := 0x56 })) ∧
    (s.watchOut i = true → v.ending = none → s.effective i = false → v.wdogTaken = false → s.CanTrap i →
      ∃ t, Runs (.watchdogExpiry i) s t ∧ (t.slot i).wdog = 0 ∧ (t.slot i).wdogTaken = true ∧ (t.slot i).handler = true) ∧
    (s.watchOut i = true → v.wdogTaken = true ∨ v.handler = true ∨ v.ending ≠ none →
      ∃ t rec, Runs (.watchdogSecondExpiry i) s t ∧ (t.slot i).ending = some (v.ending.getD .abandon) ∧ rec.cause = 0x57 ∧
        rec.ctx = v.ctx ∧ t.watchOut i = false ∧
        t.rings.termQ = s.rings.termQ ++ [rec] ∧ (∀ j, j ≠ i → t.slot j = s.slot j) ∧ t.mem = s.mem) ∧
    (v.busy = true → v.wdogOver = false → ((s.pass n).slot i).wdog = v.wdog + (if s.watchStopped i then 0 else n.clocks (dieOf i.tile))))

/-- R69, R82: over a list of allotted runs in rising order that do not meet, the run that an allotment takes is the lowest one that is free:
it lies within the size, meets no allotted run, and no lower place does; none is found exactly where none is free.

R82, R220: TNEW under an arena into an empty register: with a run of the size and a free entry it completes with the new WHOLE, its
rights RD, WR and SEND, over the lowest run, counted as held by the slot under its arena, and rs the bytes granted; with no run, or for a size of
0, rs is 0 and nothing else changes. A title that is no arena raises 0x11, a full register 0x1F. -/
def Obligations.ArenasAllot : Prop :=
  (∀ (n size : Nat) (m : List (Nat × Nat)), 0 < n → (∀ r ∈ m, 0 < r.2) → m.Pairwise (fun a b => a.1 + a.2 ≤ b.1) →
    let free := fun (x : Nat) => x + n ≤ size ∧ ∀ r ∈ m, x + n ≤ r.1 ∨ r.1 + r.2 ≤ x
    (∀ r ∈ m, r.1 + r.2 ≤ size) →
    (∀ x, lowestRun n size 0 m = some x → free x ∧ ∀ y, free y → x ≤ y) ∧ (lowestRun n size 0 m = none → ∀ x, ¬free x)) ∧
  (∀ (s : State) (kd ka : KReg) (rs : XReg) (a : Title), s.Ready [rs] → (s.ctxOf s.cur).rerun = 0 →
    let i := s.cur
    let n := ((s.me.xr rs).toNat + 255) / 256
    let run := lowestRun n a.len.toNat 0 (s.arenaMap a.ctx a.index)
    let empty := (s.me.kr kd).img.kind = 0 ∧ (s.me.kr kd).locked = false
    (s.me.kr ka).img = a → a.kind ≠ 0 → (s.me.kr ka).locked = false →
    (¬(a.kind = 1 ∧ a.rights.getLsbD 0 = true) →
      Runs (.tnew kd ka rs) s (s.fault i { cause := 0x11, tindex := a.index, tgen := a.gen })) ∧
    (a.isArena = true → ¬empty → Runs (.tnew kd ka rs) s (s.fault i { cause := 0x1F })) ∧
    (a.isArena = true → empty → n = 0 ∨ run = none → Runs (.tnew kd ka rs) s (s.retireX rs 0)) ∧
    (a.isArena = true → empty → n ≠ 0 → run.isSome → (s.ctx a.ctx).freeIndex = none →
      Runs (.tnew kd ka rs) s (s.fault i { cause := 0x1B, tindex := a.index, tgen := a.gen })) ∧
    (∀ b idx, a.isArena = true → empty → n ≠ 0 → run = some b → (s.ctx a.ctx).freeIndex = some idx → idx < 2 ^ 20 →
      ∃ t, Runs (.tnew kd ka rs) s t ∧
        (let x := (t.me.kr kd).img
         let e := find {} (t.ctx a.ctx).table idx
         x.kind = 1 ∧ x.rights = 0b11010 ∧ x.loc = a.loc ∧ x.place = a.place ∧ x.world = a.world ∧ x.domain = a.domain ∧ x.ctx = a.ctx ∧
         x.index.toNat = idx ∧ x.base = a.base + BitVec.ofNat 56 (256 * b) ∧ x.len = BitVec.ofNat 41 n ∧ x.gen = e.gen ∧
         e.state = 1 ∧ e.parent = a.index ∧ e.shares = 0 ∧ e.carved = 0 ∧ e.ownTile = i.tile ∧ e.ownCore = i.core ∧ e.ownSlot = i.slot ∧
         e.kind = 1 ∧ e.base = x.base ∧ e.len = x.len) ∧
        (∀ q, q ≠ kd → t.me.kr q = s.me.kr q) ∧ t.arenaMap a.ctx a.index = insertRun b n (s.arenaMap a.ctx a.index) ∧
        (∀ q, t.me.xr q = if q = rs ∧ q ≠ 0 then BitVec.ofNat 64 (256 * n) else s.me.xr q) ∧ t.mem = s.mem))

/-- R79, R81, R222, R224: TSPLIT of a title that may be split, and TNARROW of a share, complete with a share of it whose rights are masked
(TSPLIT's also by the kind's limit), counted at the root; TNARROW of a WHOLE makes a child with an entry of its own, counted as carved.
What the slot has written under a WHOLE in memory is first written back (the model's reading, log 22 DEDUCED). The source stays.

R80, R82, R221, R223: TJOIN of a share with its root lowers SHARES, and where a WHOLE's SHARES comes to 0 the generation rises in the
entry and in the holder's image; of a carved part with its parent it frees the part's entry and lowers CARVED; other pairs raise 0x16. TFREE
returns a WHOLE's blocks to its arena, frees its entry and empties its register; it raises 0x18 or 0x17 where that is not allowed. (That the
freed entry of a carved part takes a new generation is the model's reading, log 45 DEDUCED; the write-backs log 22 DEDUCED.)

R68, R79 to R82: what else TSPLIT, TNARROW, TJOIN and TFREE refuse. A full destination, or one that is the source, raises 0x1F, and a title
joined to itself 0x16; an arena cannot be split, and COMMONS, POOL and an arena cannot be narrowed: 0x11; a WHOLE with parts cannot be
split: 0x15; SHARES at 2^20 − 1 and CARVED at 4095 raise 0x1C; a TFREE to a title that is no arena raises 0x11. -/
def Obligations.SharesPartsAndFrees : Prop :=
  (∀ (s s' : State) (kd ks : KReg) (m : BitVec 5) (rs : XReg) (x : Title), s.Ready [rs, rs + 1] →
    let i := s.cur
    let v := s.me
    (v.kr kd).img.kind = 0 → (v.kr kd).locked = false → kd ≠ ks →
    (v.kr ks).img = x → x.kind ≠ 0 → (v.kr ks).locked = false → s.writesUnder i x = false →
    (if x.kind = 1 ∧ 2 ≤ x.loc.toNat then s.scanWB (clusterOf i.tile) x.ctx x.index = .ok s' else s' = s) →
    let e := s.tte x
    let whole := x.kind = 1 ∨ x.kind = 2
    let split : Title := { x with kind := if whole then 2 else 4, rights := x.rights &&& m &&& (if whole then 0b10010 else 0b10110) }
    let counted := fun (u : Title) => ((s'.modTte x.ctx x.index (fun e => { e with
      shares := e.shares + 1, splitAt := if e.shares = 0 then s'.ticks else e.splitAt })).modSlot i
      (fun v => v.setK kd { img := u })).retire
    let off := (v.xr rs).toNat
    let lw := v.xr (rs + 1)
    let len := lw.toNat / 256
    let sound := lw.toNat / 32 % 8 = 0 ∧ off % 256 = 0 ∧ len ≠ 0 ∧ off + 256 * len ≤ 256 * x.len.toNat
    let part : Title := { x with base := x.base + BitVec.ofNat 56 off, len := BitVec.ofNat 41 len, rights := x.rights &&& lw.setWidth 5 }
    (x.isArena = false → (x.kind = 1 → e.carved = 0) → e.shares ≠ BitVec.allOnes 20 → Runs (.tsplit kd ks m) s (counted split)) ∧
    (x.isShare = true → sound → e.shares ≠ BitVec.allOnes 20 → Runs (.tnarrow kd ks rs) s (counted part)) ∧
    (¬sound → Runs (.tnarrow kd ks rs) s (s.fault i (if lw.toNat / 32 % 8 = 0 then { cause := 0x19, tindex := x.index, tgen := x.gen }
      else { cause := 0x19 }))) ∧
    (∀ n, x.kind = 1 → x.isArena = false → sound → e.carved ≠ 4095 → (s.ctx x.ctx).freeIndex = some n → n < 2 ^ 20 → n ≠ x.index.toNat →
      ∃ t, Runs (.tnarrow kd ks rs) s t ∧
        (let c := find {} (t.ctx x.ctx).table n
         (t.me.kr kd).img = { part with index := BitVec.ofNat 20 n, gen := c.gen } ∧ c.state = 1 ∧ c.parent = x.index ∧ c.kind = 1 ∧
         c.base = part.base ∧ c.len = part.len ∧ c.shares = 0 ∧ c.carved = 0) ∧
        (t.tte x).carved = (s'.tte x).carved + 1 ∧ (∀ q, q ≠ kd → t.me.kr q = s'.me.kr q))) ∧
  (∀ (s s' : State) (kd ks : KReg) (r x : Title), s.Ready [] → kd ≠ ks →
    let i := s.cur
    let v := s.me
    (v.kr kd).img = r → r.kind ≠ 0 → (v.kr kd).locked = false → (v.kr ks).img = x → x.kind ≠ 0 → (v.kr ks).locked = false →
    (if 2 ≤ x.loc.toNat then s.scanWB (clusterOf i.tile) x.ctx x.index = .ok s' else s' = s) →
    let e := s.tte x
    let raises := fun (ins : Instr) (c : BitVec 7) => Runs ins s (s.fault i { cause := c, tindex := x.index, tgen := x.gen })
    (x.isShare = true → r.isShare = false → r.ctx = x.ctx → r.index = x.index →
      ∃ t, Runs (.tjoin kd ks) s t ∧ t.me.kr ks = {} ∧ (t.tte x).shares = e.shares - 1 ∧
        (t.tte x).gen = (if e.shares = 1 ∧ e.kind = 1 then e.gen + 1 else e.gen) ∧
        (e.shares = 1 → e.kind = 1 → e.state = 1 → (⟨e.ownTile, e.ownCore, e.ownSlot⟩ : SlotId) = i →
          (t.me.kr kd).img = { r with gen := e.gen + 1 }) ∧ t.mem = s.mem) ∧
    (x.isShare = true → ¬(r.isShare = false ∧ r.ctx = x.ctx ∧ r.index = x.index) → raises (.tjoin kd ks) 0x16) ∧
    (x.isShare = false → ¬(x.kind = 1 ∧ r.kind = 1 ∧ r.isArena = false ∧ x.ctx = r.ctx ∧ e.parent = r.index) →
      raises (.tjoin kd ks) 0x16) ∧
    (x.kind = 1 → r.kind = 1 → r.isArena = false → x.ctx = r.ctx → e.parent = r.index →
      (e.shares ≠ 0 ∨ e.carved ≠ 0 → raises (.tjoin kd ks) 0x17) ∧
      (e.shares = 0 → e.carved = 0 → s.busyUnder i x = false → r.index ≠ x.index →
        ∃ t, Runs (.tjoin kd ks) s t ∧ t.me.kr ks = {} ∧ t.me.kr kd = s'.me.kr kd ∧ (t.tte x).state = 0 ∧
          (t.tte x).gen = (s'.tte x).gen + 1 ∧ (t.tte r).carved = (s'.tte r).carved - 1)) ∧
    (r.kind = 1 → r.isArena = true → ¬(x.kind = 1 ∧ x.ctx = r.ctx ∧ e.parent = r.index) → raises (.tfree ks kd) 0x18) ∧
    (r.kind = 1 → r.isArena = true → x.kind = 1 → x.ctx = r.ctx → e.parent = r.index →
      (e.shares ≠ 0 ∨ e.carved ≠ 0 → raises (.tfree ks kd) 0x17) ∧
      (e.shares = 0 → e.carved = 0 → s.busyUnder i x = false → r.index ≠ x.index →
        ∃ t, Runs (.tfree ks kd) s t ∧ t.me.kr ks = {} ∧ t.me.kr kd = s'.me.kr kd ∧ (t.tte x).state = 0 ∧
          (t.tte x).gen = (s'.tte x).gen + 1 ∧
          t.arenaMap x.ctx (s'.tte x).parent = (s'.arenaMap x.ctx (s'.tte x).parent).filter
            (fun q => q.1 != (x.base.toNat - (find {} (s'.ctx x.ctx).table (s'.tte x).parent.toNat).base.toNat) / 256)))) ∧
  (∀ (s : State) (kd ks : KReg) (m : BitVec 5) (rs : XReg) (x : Title), s.Ready [rs, rs + 1] →
    let i := s.cur
    let v := s.me
    (v.kr ks).img = x → x.kind ≠ 0 → (v.kr ks).locked = false →
    let e := s.tte x
    let off := (v.xr rs).toNat
    let lw := v.xr (rs + 1)
    let len := lw.toNat / 256
    let sound := lw.toNat / 32 % 8 = 0 ∧ off % 256 = 0 ∧ len ≠ 0 ∧ off + 256 * len ≤ 256 * x.len.toNat
    let full := (v.kr kd).img.kind ≠ 0 ∨ (v.kr kd).locked = true
    let raises := fun (ins : Instr) (c : BitVec 7) => Runs ins s (s.fault i { cause := c, tindex := x.index, tgen := x.gen })
    (full → Runs (.tsplit kd ks m) s (s.fault i { cause := 0x1F }) ∧ (sound → Runs (.tnarrow kd ks rs) s (s.fault i { cause := 0x1F }))) ∧
    Runs (.tjoin ks ks) s (s.fault i { cause := 0x16 }) ∧
    (¬full → kd ≠ ks →
      (x.isArena = true → raises (.tsplit kd ks m) 0x11) ∧
      (x.kind = 1 → x.isArena = false → e.carved ≠ 0 → raises (.tsplit kd ks m) 0x15) ∧
      (x.isArena = false → (x.kind = 1 → e.carved = 0) → e.shares = BitVec.allOnes 20 → raises (.tsplit kd ks m) 0x1C) ∧
      (sound → x.isShare = true → e.shares = BitVec.allOnes 20 → raises (.tnarrow kd ks rs) 0x1C) ∧
      (sound → x.isShare = false → (x.kind ≠ 1 ∨ x.isArena = true) → raises (.tnarrow kd ks rs) 0x11) ∧
      (sound → x.kind = 1 → x.isArena = false → e.carved = 4095 → raises (.tnarrow kd ks rs) 0x1C)) ∧
    (x.isArena = false → raises (.tfree kd ks) 0x11))

/-- R186, R226: TSENDR to a peer, its checks passed, a buffer granted and nothing under way, begins a copy with the buffer held for its
message; its turns read the bytes of the title, and with the last of them the request leaves; it waits, and on the answer 0x3 or 0x5 the
source is zeroed, its entry freed and its register emptied, the message with the fresh WHOLE stands in the buffer, numbered as a message of
the slot, and rd takes the answer; on 0x4 the title stays and the buffer is free again. A destination on this package raises 0x58, no live
port 0x59, both only before the copy begins. (When the number is taken, and that the turns of the copy go on by the pages that they were
checked for, are the model's readings, log 71 DEDUCED; the line for a buffer log 15 DEDUCED.) -/
def Obligations.CopyToPeer : Prop :=
  ∀ (s : State) (rd rs : XReg) (ks : KReg) (x : Title), s.Ready [rs] → (∀ r ∈ s.reqs, r.id < s.nextId) →
    let i := s.cur
    let w := s.me.xr rs
    let p : BitVec 10 := w.extractLsb' 16 10
    let sound := w.toNat < 2 ^ 26 ∧ p ≠ 0x3FF
    let pieces := fun (n : Nat) => unitPieces n (x.bytes - n)
    (s.me.kr ks).img = x → x.kind ≠ 0 → (s.me.kr ks).locked = false →
    (s.copyOf i = none →
      (¬sound → Runs (.tsendr rd ks rs) s (s.fault i { cause := 0x58, info := chanInfo (w.extractLsb' 0 6) (w.extractLsb' 6 10) })) ∧
      (sound → s.livePorts = [] → Runs (.tsendr rd ks rs) s (s.fault i { cause := 0x59, peer := p })) ∧
      (sound → s.livePorts ≠ [] → s.copyChecks i x = .ok () → s.outGranted i = false → Runs (.tsendr rd ks rs) s (s.queueOut i)) ∧
      (sound → s.livePorts ≠ [] → s.copyChecks i x = .ok () → s.outGranted i = true → (s.tile i.tile).outbox.length < 128 →
        s.busyUnder i x = false → x.loc.toNat < 2 →
        ∃ t q n, Runs (.tsendr rd ks rs) s t ∧ t.me = { s.me with granted := t.me.granted } ∧ (∀ j, j ≠ i → t.slot j = s.slot j) ∧
          t.mem = s.mem ∧ t.reqs = s.reqs ++ [q] ∧ q.id = s.nextId ∧ q.src = i ∧ q.home = .peer p ∧ q.rd = some rd ∧
          q.kind = .titleCopy ks w [] false ∧ q.state = .unsent ∧ q.buf = some n ∧ n < 128 ∧
          (∀ e ∈ (s.tile i.tile).outbox, e.1 ≠ n) ∧
          (t.tile i.tile).outbox = put (s.tile i.tile).outbox n { forJob := true, departed := false, res := s.outTag i })) ∧
    (∀ q got bad s' c, s.copyOf i = some q → q.state = .unsent → q.kind = .titleCopy ks w got bad → s'.req? q.id = some q →
      let copied : Req := { q with kind := .titleCopy ks w c.bytes c.bad, pages := c.pages }
      (s.copyMore (s.engOf i) x (pieces got.length) { bytes := got, bad := bad, pages := q.pages } = (s', c, .all) →
        ∃ t, Runs (.tsendr rd ks rs) s t ∧ t.req? q.id = some { copied with state := .sent } ∧ t.slots = s'.slots) ∧
      (s.copyMore (s.engOf i) x (pieces got.length) { bytes := got, bad := bad, pages := q.pages } = (s', c, .waits) →
        ∃ t, Runs (.tsendr rd ks rs) s t ∧ t.req? q.id = some copied ∧ t.slots = s'.slots)) ∧
    (∀ q m got bad, s.copyOf i = some q → q.state = .replied 4 m → q.kind = .titleCopy ks w got bad →
      Runs (.tsendr rd ks rs) s ((s.dropCopy q).retireX rd 4)) ∧
    (∀ q v m got bad s' z, s.copyOf i = some q → q.state = .replied v m → v ≠ 4 → q.kind = .titleCopy ks w got bad →
      (s.wipeMore (s.engOf i) x q.pages (pieces q.zeroed) q.zeroed = (s', z, false) →
        ∃ t, Runs (.tsendr rd ks rs) s t ∧ t.slots = s'.slots ∧ t.ctxs = s'.ctxs) ∧
      (s.wipeMore (s.engOf i) x q.pages (pieces q.zeroed) q.zeroed = (s', z, true) → s'.livePorts ≠ [] →
        ∃ t, Runs (.tsendr rd ks rs) s t ∧ t.me.kr ks = {} ∧ t.me.xr rd = (if rd = 0 then 0 else v) ∧ (t.tte x).state = 0 ∧
          t.req? q.id = none ∧
          ∀ n, q.buf = some n → ∃ o, find {} (t.tile i.tile).outbox n = o ∧ o.peer = p ∧
            o.msg.titles = [{ x with index := 0, gen := 0, rights := x.rights &&& 0b11010 }] ∧ o.msg.payload = [] ∧
            hdrSeq o.msg.hdr = find 0 s'.me.mseq (seqKey p (w.extractLsb' 6 10) (w.extractLsb' 0 6))))

/-! ### Loads and stores under titles (chapters 07 and 17) -/

/-- R73, R95, R229, R230: the scalar loads under a title complete where the register holds a data title with RD, nothing carved, the bytes
lie inside it, BASE + o is a multiple of the size and no edge holds the read: rd takes what the title's storage gives, by sign or with
zeros. For a TILE or CLUSTER title of the place's world, that is the bytes of the SRAM at BASE + o, and nothing but rd and the PC
changes.

R73, R95, R229, R230: the scalar stores under a title complete likewise with WR and no shares; for a TILE or CLUSTER title the low bytes
of rs stand at BASE + o of the SRAM, lowest first, every other byte of memory reads as before, and nothing else but the PC and
the count changes.

R73, R124, R230, R241: the checks of a load or store under a title, in their order, name the title: an empty register, or one that a queued
MV.XFER has locked, 0x10, a kind that serves
no data 0x11, the right missing 0x12, a byte outside 0x13, a write while shared 0x14, a carved WHOLE 0x15, and then 0x39 for a misaligned
address. (What ADDRKIND and ADDR hold, an offset or a virtual address for 0x39 and none for the others, is the model's reading, log 24
DEDUCED.) -/
def Obligations.ScalarTitleAccesses : Prop :=
  (∀ (s : State) (rd rs : XReg) (k : KReg) (imm : BitVec 10) (zero : Bool), s.Ready [rs] →
    let i := s.cur
    let x := (s.me.kr k).img
    x.kind ≠ 0 → (s.me.kr k).locked = false → x.isData = true → x.rights.getLsbD 4 = true → (x.kind = 1 → (s.tte x).carved = 0) →
    let value := fun (n : Nat) (signed : Bool) (bs : List Byte) => BitVec.ofInt 64
      (if signed = true ∧ 2 ^ (8 * n - 1) ≤ leNat bs then (leNat bs : Int) - 2 ^ (8 * n) else leNat bs)
    let gives := fun (ins : Instr) (n : Nat) (signed : Bool) (o : Int) =>
      let a := x.base.toNat + o.toNat
      0 ≤ o → o + n ≤ (256 * x.len.toNat : Nat) → a % n = 0 →
      (s.tile i.tile).edgeFree i.core [x.region o.toNat n] [] s.nextId = true →
      (∀ bs s', bs.length = n → s.titleLoad i x o.toNat n = .ok (bs, s') → Runs ins s (s'.retireX rd (value n signed bs))) ∧
      (x.loc = 0 → (s.tile x.place).world = x.world →
        Runs ins s (s.retireX rd (value n signed (s.bytes (tileKey x.place a) n)))) ∧
      (x.loc = 1 → (s.cluster (x.place.extractLsb' 4 6)).world = x.world →
        Runs ins s (s.retireX rd (value n signed (s.bytes (clusterKey (x.place.extractLsb' 4 6) a) n))))
    let o := imm.toInt
    let ox := (s.me.xr rs).toInt
    gives (.ldkB rd k imm) 1 true o ∧ gives (.ldkH rd k imm) 2 true (2 * o) ∧ gives (.ldkW rd k imm) 4 true (4 * o) ∧
    gives (.ldkD rd k imm) 8 true (8 * o) ∧ gives (.ldkBN rd k imm) 1 false o ∧ gives (.ldkHN rd k imm) 2 false (2 * o) ∧
    gives (.ldkWN rd k imm) 4 false (4 * o) ∧ gives (.ldkX rd k rs .b zero) 1 (!zero) ox ∧ gives (.ldkX rd k rs .h zero) 2 (!zero) (2 * ox) ∧
    gives (.ldkX rd k rs .w zero) 4 (!zero) (4 * ox) ∧ gives (.ldkX rd k rs .d false) 8 true (8 * ox)) ∧
  (∀ (s : State) (rs : XReg) (k : KReg) (imm : BitVec 10), s.Ready [rs] → s.MemOk →
    let i := s.cur
    let x := (s.me.kr k).img
    x.kind ≠ 0 → (s.me.kr k).locked = false → x.isData = true → x.rights.getLsbD 3 = true → (s.tte x).shares = 0 →
    (x.kind = 1 → (s.tte x).carved = 0) →
    let stores := fun (ins : Instr) (n : Nat) =>
      let o := (n : Int) * imm.toInt
      let a := x.base.toNat + o.toNat
      let v := (s.me.xr rs).toNat % 2 ^ (8 * n)
      let at_ := fun (key : Nat) => ∃ t, Runs ins s t ∧ t.MemOk ∧ leNat (t.bytes key n) = v ∧
        (∀ j, ¬(key ≤ j ∧ j < key + n) → t.byte j = s.byte j) ∧ t.me = s.me.retire ∧ (∀ j, j ≠ i → t.slot j = s.slot j) ∧
        { t with slots := s.slots, mem := s.mem } = s
      0 ≤ o → o + n ≤ (256 * x.len.toNat : Nat) → a % n = 0 →
      (s.tile i.tile).edgeFree i.core [] [x.region o.toNat n] s.nextId = true →
      (∀ bs s', bs.length = n → leNat bs = v → s.titleStore i x o.toNat bs = .ok s' → Runs ins s s'.retire) ∧
      (x.loc = 0 → (s.tile x.place).world = x.world → at_ (tileKey x.place a)) ∧
      (x.loc = 1 → (s.cluster (x.place.extractLsb' 4 6)).world = x.world → at_ (clusterKey (x.place.extractLsb' 4 6) a))
    stores (.stkB rs k imm) 1 ∧ stores (.stkH rs k imm) 2 ∧ stores (.stkW rs k imm) 4 ∧ stores (.stkD rs k imm) 8) ∧
  (∀ (s : State) (r : XReg) (k : KReg) (imm : BitVec 10), s.Ready [r] →
    let i := s.cur
    let x := (s.me.kr k).img
    let o := 8 * imm.toInt
    let raises := fun (write : Bool) (c : BitVec 7) =>
      Runs (if write then .stkD r k imm else .ldkD r k imm) s (s.fault i { cause := c, tindex := x.index, tgen := x.gen })
    let data := x.kind = 2 ∨ (x.kind = 1 ∧ x.rights.getLsbD 0 = false)
    (x.kind = 0 ∨ (s.me.kr k).locked = true → Runs (.ldkD r k imm) s (s.fault i { cause := 0x10 }) ∧ Runs (.stkD r k imm) s (s.fault i { cause := 0x10 })) ∧
    (x.kind ≠ 0 → (s.me.kr k).locked = false → ∀ write : Bool,
      let right := x.rights.getLsbD (if write then 3 else 4) = true
      let inside := 0 ≤ o ∧ o + 8 ≤ (256 * x.len.toNat : Nat)
      let unshared := write = true → (s.tte x).shares = 0
      let uncarved := x.kind = 1 → (s.tte x).carved = 0
      (¬data → raises write 0x11) ∧ (data → ¬right → raises write 0x12) ∧ (data → right → ¬inside → raises write 0x13) ∧
      (data → right → inside → ¬unshared → raises write 0x14) ∧ (data → right → inside → unshared → ¬uncarved → raises write 0x15) ∧
      (data → right → inside → unshared → uncarved → (x.base.toNat + o.toNat) % 8 ≠ 0 →
        let kind : BitVec 2 := if x.loc.toNat < 2 then 3 else 1
        let at_ := BitVec.ofNat 56 (x.base.toNat + o.toNat)
        Runs (if write then .stkD r k imm else .ldkD r k imm) s
          (s.fault i { cause := 0x39, addrKind := kind, addr := at_, tindex := x.index, tgen := x.gen }))))

/-- R104, R105, R112: a slot that stores a double word under an HBM title and then loads it under the same title gets it back, through the
line cache of its cluster: the page is one of HBM that the TLB holds with both permissions, in the title's world, no bank of it is opened
near-bank, the links reach its stack, the line holds no poison, and its set has room. -/
def Obligations.CachedStoreThenLoad : Prop :=
  ∀ (s : State) (rs rd : XReg) (k : KReg) (imm : BitVec 10) (e : TlbEntry), s.Ready [rs] →
    let i := s.cur
    let x := (s.me.kr k).img
    let cl := clusterOf i.tile
    let o := 8 * imm.toInt
    let a := x.base.toNat + o.toNat
    let pa := e.pa + (a - e.va)
    (s.me.kr k).locked = false → x.kind = 1 → x.rights.getLsbD 0 = false → x.rights.getLsbD 3 = true → x.rights.getLsbD 4 = true →
    x.loc = 2 → (s.tte x).shares = 0 → (s.tte x).carved = 0 → 0 ≤ o → o + 8 ≤ (256 * x.len.toNat : Nat) → a % 8 = 0 →
    (s.tile i.tile).flight = [] → (s.cluster cl).tlbFind s.me.ctx a = some e → e.rp = true → e.wp = true → e.peer = 0x3FF →
    e.aPending = false → e.va % 256 = 0 → e.pa % 256 = 0 → pa < s.hbm.liveCap.toNat → pa < hbmEnd → s.regionWorld pa = x.world →
    (∀ d, s.dieOfPa pa = some d → s.reach (dieOfCluster cl) d = true) → s.granOf (pa / 4096) = none →
    (∀ l ∈ (s.cluster cl).lines, l.isFor pa x = true → l.poison = 0) →
    ((s.cluster cl).lines.filter (fun l => Machine.setOf l.pa == Machine.setOf (pa / 256))).length < 16 →
    ∃ t u, Runs (.stkD rs k imm) s t ∧ Runs (.ldkD rd k imm) t u ∧ u.me.xr rd = (if rd = 0 then 0 else s.me.xr rs) ∧
      t.mem = s.mem ∧ u.mem = s.mem ∧ (∃ l ∈ (t.cluster cl).lines, l.isFor pa x = true ∧ l.dirty = true)

/-- R214, R231 to R233: the vector loads and stores under a title complete where the view lies in the slab, the title admits the range (each
unit of a gather or scatter) and no edge holds them: VLDK copies 256 bytes to the view, VSTK a view's (or vin's) bytes to the title's
storage; under a TILE title VGATHER copies each four-byte unit from its index, VSCATTER writes each unit, the highest of those with one
index remaining, and no other byte of memory changes. STRIDE 0 raises 0x05, a view beyond the allotment 0x06 (that vin does not look at STRIDE is the model's choice, log 70 DESIGN CHOICE). -/
def Obligations.VectorMemory : Prop :=
  ∀ (s : State) (v vi : VReg) (k : KReg) (imm : BitVec 10), s.Ready [] → s.MemOk → v ≠ vin → vi ≠ vin →
    let i := s.cur
    let x := (s.me.kr k).img
    let w := s.me.vwr 0
    let view := fun (n : VReg) => w.base + 256 * w.stride * n.toNat
    let (b, l) := s.slabOf i
    let key := fun (n : VReg) => slabKey i.tile (b + view n)
    let region := fun (n : VReg) => ({ space := .slab i.tile, lo := b + view n, hi := b + view n + 256 } : Region)
    let o : Int := imm.toInt * 256
    let free := fun (reads writes : List Region) => (s.tile i.tile).edgeFree i.core reads writes s.nextId = true
    let os := indexOffsets (s.bytes (key vi) 256)
    let all := fun (c : BitVec 7) => ∀ ins ∈ [Instr.vldk v k imm, .vstk v k imm, .vgather v k vi, .vscatter v k vi],
      Runs ins s (s.fault i { cause := c })
    (w.stride = 0 → all 0x05) ∧
    (w.stride ≠ 0 → l < view v + 256 → all 0x06) ∧
    (w.stride ≠ 0 → view v + 256 ≤ l →
      (∀ bs s', s.allow s.me k rRD o 256 = .ok x → free [x.region o.toNat 256] [region v] → s.titleLoad i x o.toNat 256 = .ok (bs, s') →
        Runs (.vldk v k imm) s (s'.store (key v) bs).retire) ∧
      (∀ s', s.allow s.me k rWR o 256 = .ok x → free [region v] [x.region o.toNat 256] →
        s.titleStore i x o.toNat (s.bytes (key v) 256) = .ok s' → Runs (.vstk v k imm) s s'.retire) ∧
      (∀ bs s', s.vinTake i = .ok bs → s.allow s.me k rWR o 256 = .ok x → free [] [x.region o.toNat 256] →
        s.titleStore i x o.toNat bs = .ok s' → Runs (.vstk vin k imm) s (s'.vinPop s'.cur).retire) ∧
      (view vi + 256 ≤ l → x.kind ≠ 0 → (s.me.kr k).locked = false → x.loc = 0 → (s.tile x.place).world = x.world →
        free [region vi] [] →
        (s.admitUnits s.me k rRD os = .ok () → free (region vi :: unitRegions x os) [region v] →
          ∃ t, Runs (.vgather v k vi) s t ∧ t.me = s.me.retire ∧
            (∀ j < 64, t.bytes (key v + 4 * j) 4 = s.bytes (tileKey x.place (x.base.toNat + (os.getD j 0).toNat)) 4) ∧
            (∀ j, ¬(key v ≤ j ∧ j < key v + 256) → t.byte j = s.byte j) ∧ { t with slots := s.slots, mem := s.mem } = s) ∧
        (s.admitUnits s.me k rWR os = .ok () → free [region v, region vi] (unitRegions x os) →
          ∃ t, Runs (.vscatter v k vi) s t ∧ t.me = s.me.retire ∧
            (∀ j < 64, (∀ j', j < j' → j' < 64 → os.getD j' 0 ≠ os.getD j 0) →
              t.bytes (tileKey x.place (x.base.toNat + (os.getD j 0).toNat)) 4 = s.bytes (key v + 4 * j) 4) ∧
            (∀ a, (∀ j < 64, ¬(tileKey x.place (x.base.toNat + (os.getD j 0).toNat) ≤ a ∧
              a < tileKey x.place (x.base.toNat + (os.getD j 0).toNat) + 4)) → t.byte a = s.byte a) ∧
            { t with slots := s.slots, mem := s.mem } = s)))

/-! ### Engine jobs and near-bank compute (chapters 17 and 25) -/

/-- R210, R234 to R237: a Tramontane instruction whose card, titles, slab range, destination and message pass the checks takes effect: with
16 jobs of the slot not final it waits; else, with a buffer granted where a message is due, the job is issued. `MV.XFER` locks its source
register, a carried title leaves its register, and the other title registers stay. A card that breaks its rules raises 0x60.

R237 to R240: an MV.COPY between tile SRAM titles. JOB_START of a ready job makes it Running; its last read and then its end, with no
other step between them, leave the destination range with the source's bytes as they were, every other byte of memory as it was, and the
job with status 0x3.

R237 to R240, R242 to R244: what the other jobs on SRAM write. From Running to Done, with no other step between, an MV.COPY or MV.GET moves
the source range, MV.FILL writes its pattern into every double word, MV.SLAB moves between the slab and a title, and MV.2D copies its rows in
rising order, a row read in full and written before the next is read; every byte that is not named is as it was. For storage anywhere: what
the reads gave is what the job then holds to write, poisoned where a unit was bad.

R106 to R108, R240: one 64-byte unit of HBM, or part of it, as an engine writes and reads it, where it is translated and the stack takes
the request. A full unit that is good is written and no longer poisoned; part of a good unit replaces those bytes alone; part of a bad one is
discarded with a deferred 0x34, and the unit poisoned; a unit that receives a bad byte is poisoned. A base die reads the bytes as its domain
has them, bad where the unit is.

R108, R210, R238: the end of a job (not an MV.XFER) whose writes are performed: it is final with the status 0x7 where it was cancelled,
0x6 after a fault, 0x5 with poison and else 0x3, and leaves the scoreboard. Where NOTIFY is set, the buffer held since issue carries its
message: KIND reply, the destination of CMPDST, the issuing tile, one double word with the TAG, the job number and the status, numbered
as the slot's next to that channel; with CARRY also the title of DK, in flight from then on.

R74, R78, R238, R241: the end of an MV.XFER whose firing's chain still holds its slot. Rights only: the title leaves for the message,
KIND data, its entry in flight, and SK is empty. A byte copy within the package: with no room in the landing arena it ends with status 0x4,
SK holds the title again and no message is sent; with room the copy has its fresh WHOLE, RD, WR and SEND at most; once its bytes are written
the source is zeroed, its entry freed, the message carries the fresh WHOLE, and SK is empty. (That a table without a free entry counts as no
room is the model's choice, log 70 DESIGN CHOICE; when TitleOut of a byte copy is made log 71 DEDUCED.) -/
def Obligations.MoveJobs : Prop :=
  (∀ (s : State) (rd rs : XReg) (ws : List Word), s.Ready [rs] → readCard s s.cur (s.me.xr rs) = .ok ws →
    let i := s.cur
    let c := cardOf ws
    let issues := fun (ins : Instr) (k : JobKind) =>
      (cardOk k ws = false → Runs ins s (s.fault i { cause := 0x60 })) ∧
      (∀ src dst d, cardOk k ws = true → s.jobSource k c = .ok src → s.jobTarget k c = .ok dst →
        (k = .slab → (if c.toslab then c.dstoff else c.srcoff) + c.len ≤ (s.slabOf i).2) → s.jobDest k c = .ok d →
        s.jobOut k c src dst d = .ok () →
        (16 ≤ s.placesUsed i → Runs ins s s) ∧
        (s.placesUsed i < 16 → (d.isSome = true → s.outGranted i = true) →
          ∃ t, Runs ins s t ∧ s.IssuesJob t i rd k c src dst d.isSome ∧
            (k = .xfer → t.me.kr c.sk = { s.me.kr c.sk with locked := true }) ∧ (c.carry = true → t.me.kr c.dk = {}) ∧
            (∀ q, (k = .xfer → q ≠ c.sk) → (c.carry = true → q ≠ c.dk) → t.me.kr q = s.me.kr q)))
    issues (.mvCopy rd rs) .copy ∧ issues (.mvGet rd rs) .get ∧ issues (.mvPut rd rs) .put ∧ issues (.mvXfer rd rs) .xfer ∧
    issues (.mvFill rd rs) .fill ∧ issues (.mv2D rd rs) .twoD ∧ issues (.mvSlab rd rs) .slab) ∧
  (∀ (s : State) (j : Job), s.job? j.tile j.num = some j → j.kind = .copy → j.paused = none → j.deferred = none →
    let src := tileKey j.imgS.place (j.imgS.base.toNat + j.card.srcoff)
    let dst := tileKey j.imgD.place (j.imgD.base.toNat + j.card.dstoff)
    (s.jobReady j = true → Runs (.jobStart j.tile j.num) s (s.setJob { j with status := 1 })) ∧
    (j.status = 1 → j.imgS.loc = 0 → j.imgD.loc = 0 → (s.tile j.imgS.place).world = j.imgS.world →
      (s.tile j.imgD.place).world = j.imgD.world → s.unitAdmits (.tramontane (clusterOf j.tile)) j.imgS.world = true →
      s.unitAdmits (.tramontane (clusterOf j.tile)) j.imgD.world = true → j.got = [] → j.gotBad = [] → j.poison = false → j.badUnits = [] →
      j.cancelled = false →
      j.buf = none → j.card.notify = false → j.card.carry = false → j.waits = [] → s.late = [] → (∀ r ∈ s.reqs, r.id < s.nextId) → s.MemOk →
      ∃ t u, Runs (.jobOperandsConsumed j.tile j.num) s t ∧ Runs (.jobDone j.tile j.num) t u ∧
        (t.job? j.tile j.num).map Job.status = some 2 ∧ t.mem = s.mem ∧ (u.job? j.tile j.num).map Job.status = some 3 ∧
        (∀ n, n < j.card.len → u.byte (dst + n) = s.byte (src + n)) ∧
        (∀ k, ¬(dst ≤ k ∧ k < dst + j.card.len) → u.byte k = s.byte k))) ∧
  (∀ (s : State) (j : Job), s.job? j.tile j.num = some j → j.status = 1 → j.paused = none → j.deferred = none → j.cancelled = false →
    j.got = [] → j.gotBad = [] → j.data = [] → j.row = 0 → j.poison = false → j.badUnits = [] → j.buf = none → j.card.notify = false →
    j.card.carry = false → j.waits = [] → s.late = [] → (∀ r ∈ s.reqs, r.id < s.nextId) → s.MemOk →
    let c := j.card
    let key := fun (x : Title) (o : Nat) =>
      if x.loc = 0 then tileKey x.place (x.base.toNat + o) else clusterKey (x.place.extractLsb' 4 6) (x.base.toNat + o)
    let onChip := fun (x : Title) =>
      ((x.loc = 0 ∧ (s.tile x.place).world = x.world) ∨ (x.loc = 1 ∧ (s.cluster (x.place.extractLsb' 4 6)).world = x.world)) ∧
      s.unitAdmits (.tramontane (clusterOf j.tile)) x.world = true
    let slab := fun (o : Nat) => slabKey j.tile (j.slabBase + o)
    let ends := fun (f : Nat → Byte) => ∃ t u, Runs (.jobOperandsConsumed j.tile j.num) s t ∧ Runs (.jobDone j.tile j.num) t u ∧
      (u.job? j.tile j.num).map Job.status = some 3 ∧ ∀ k, u.byte k = f k
    let moved := fun (src dst len : Nat) (old : Nat → Byte) (k : Nat) => if dst ≤ k ∧ k < dst + len then old (src + (k - dst)) else old k
    ((j.kind = .copy ∨ j.kind = .get) → onChip j.imgS → onChip j.imgD →
      ends (moved (key j.imgS c.srcoff) (key j.imgD c.dstoff) c.len s.byte)) ∧
    (j.kind = .fill → onChip j.imgD → c.len % 8 = 0 →
      let dst := key j.imgD c.dstoff
      ends (fun k => if dst ≤ k ∧ k < dst + c.len then (c.fill >>> (8 * ((k - dst) % 8))).setWidth 8 else s.byte k)) ∧
    (j.kind = .slab → c.toslab = true → onChip j.imgS → ends (moved (key j.imgS c.srcoff) (slab c.dstoff) c.len s.byte)) ∧
    (j.kind = .slab → c.toslab = false → onChip j.imgD → ends (moved (slab c.srcoff) (key j.imgD c.dstoff) c.len s.byte)) ∧
    (j.kind = .twoD → onChip j.imgS → onChip j.imgD → 0 < c.rows → 0 < c.len →
      ends (Nat.rec (motive := fun _ => Nat → Byte) s.byte (fun r old =>
        moved (key j.imgS (c.srcoff + r * c.sstride)) (key j.imgD (c.dstoff + r * c.dstride)) c.len old) c.rows)) ∧
    (∀ s' got bad, (j.kind = .copy ∨ j.kind = .get ∨ j.kind = .put) → s'.job? j.tile j.num = some j →
      s.engMore j.eng j.imgS (unitPieces c.srcoff c.len) [] [] = (s', got, bad, .all) →
      ∃ t q, Runs (.jobOperandsConsumed j.tile j.num) s t ∧ t.job? j.tile j.num = some q ∧ q.status = 2 ∧ q.poison = !bad.isEmpty ∧
        q.data.flatMap Chunk.bytes = got ∧ t.mem = s'.mem ∧
        (∀ x ∈ q.data, ∀ b ∈ x.bad, b ∈ bad) ∧ (∀ x ∈ q.data, x.dst / 64 = (x.dst + x.bytes.length - 1) / 64))) ∧
  (∀ (s s1 s2 : State) (g : Eng) (x : Title) (o : Nat) (bs : List Byte) (bad : Bool) (pa k : Nat) (leaf : TlbEntry),
    s.engAdmits g x = true → x.loc = 2 → pa < hbmEnd → 0 < bs.length → pa % 64 + bs.length ≤ 64 → k % 64 = pa % 64 → s.MemOk →
    s.setAccessed g.cl leaf true = .ok s1 → s1.request g.asker x.domain pa = .ok (k, s2) → s2.mem = s.mem → s2.units = s.units →
    let a := x.base.toNat + o
    let u := k - pa % 64
    (s.translate g.cl (g.purpose x) a .write = .ok (.here pa leaf) →
      ∃ t, s.engPut g x o bs bad = .ok t ∧ (∀ n, n / 64 ≠ k / 64 → t.byte n = s.byte n ∧ t.unit n = s.unit n) ∧
        (bad = true → (t.unit u).poison = true) ∧
        (bad = false → bs.length = 64 → t.bytes u 64 = bs ∧ (t.unit u).poison = false ∧ (t.unit u).domain = x.domain) ∧
        (bad = false → bs.length < 64 → (s.unit u).bad = false → (s.unit u).written = true → (s.unit u).domain = x.domain →
          (s.unit u).epoch = (s.domain x.domain).epoch →
          t.bytes k bs.length = bs ∧ (∀ n, u ≤ n → n < u + 64 → ¬(k ≤ n ∧ n < k + bs.length) → t.byte n = s.byte n) ∧
          (t.unit u).poison = false) ∧
        (bad = false → bs.length < 64 → (s.unit u).bad = true → (t.unit u).poison = true ∧ t.mem = s.mem ∧
          ∃ rec : FaultRec, rec.cause = 0x34 ∧ rec.ctx = g.ctx ∧ t.funcs = (s2.pushFunc rec).funcs)) ∧
    (g.base = true → s.translate g.cl (g.purpose x) a .read = .ok (.here pa leaf) →
      (∀ l ∈ (s2.cluster g.cl).lines, l.isFor pa x = false) →
      ∃ t, s.engPiece g x o bs.length = .ok (s2.hbmRead x.domain k bs.length, s2.hbmPoison k bs.length, t) ∧ t.mem = s.mem)) ∧
  (∀ (s : State) (j : Job), s.job? j.tile j.num = some j → j.isMove = true → j.kind ≠ .xfer → j.status = 2 → j.paused = none →
    j.data = [] → j.waits = [] → s.late = [] → (∀ r ∈ s.reqs, r.id < s.nextId) →
    let i := j.src
    let st : BitVec 4 := if j.cancelled then 7 else if j.deferred.isSome then 6 else if j.poison then 5 else 3
    let d := destWord j.card.cmpdst
    let seq := find 0 (s.slot i).mseq (seqKey d.peer d.tile d.chan)
    let ended := fun (u : State) => (u.job? j.tile j.num).map Job.status = some st ∧ u.mem = s.mem ∧
      ∀ f ∈ (u.tile j.tile).flight, f.ord ≠ j.ord
    let tells := fun (u : State) (b : Nat) (ts : List Title) =>
      ∃ o, find {} (u.tile j.tile).outbox b = o ∧ o.peer = d.peer ∧ o.copies = [{ tile := d.tile, hdr := o.msg.hdr }] ∧ o.msg.titles = ts ∧
        o.msg.payload = [j.card.tag ++ j.num ++ (0 : BitVec 28) ++ st] ∧ o.msg.ctx = j.ctx ∧
        o.msg.hdr = (2 : BitVec 2) ++ d.chan ++ j.tile ++ (0x3FF : BitVec 10) ++ (1 : BitVec 6) ++ BitVec.ofNat 2 ts.length ++
          (s.ctx j.ctx).key ++ seq ∧
        find 0 (u.slot i).mseq (seqKey d.peer d.tile d.chan) = seq + 1
    (j.card.notify = false → j.card.carry = false → j.buf = none → ∃ u, Runs (.jobDone j.tile j.num) s u ∧ ended u ∧
      (u.tile j.tile).outbox = (s.tile j.tile).outbox ∧ u.slots = s.slots) ∧
    (∀ b, j.card.notify = true → j.buf = some b → (d.peer = 0x3FF ∨ s.livePorts ≠ []) →
      (j.card.carry = false → ∃ u, Runs (.jobDone j.tile j.num) s u ∧ ended u ∧ tells u b []) ∧
      (j.card.carry = true → s.busyBefore i j.imgD j.ord = false → needsScan i j.imgD j.dest false = false →
        ∃ u, Runs (.jobDone j.tile j.num) s u ∧ ended u ∧ tells u b [j.imgD] ∧ (j.imgD.isShare = false → (u.tte j.imgD).state = 2)))) ∧
  (∀ (s : State) (j : Job) (b : Nat), s.job? j.tile j.num = some j → j.kind = .xfer → j.status = 2 → j.paused = none → j.cancelled = false →
    j.deferred = none → j.card.notify = false → j.buf = some b → s.late = [] → (s.slot j.src).busy = true → (s.slot j.src).chainId = j.chainId →
    let x := j.imgS
    let d := destWord j.card.cmpdst
    let sk := fun (u : State) => (u.slot j.src).kr j.card.sk
    let ends := fun (u : State) (st : BitVec 4) => (u.job? j.tile j.num).map Job.status = some st
    let tells := fun (u : State) (st : BitVec 4) (y : Title) => ∃ o, find {} (u.tile j.tile).outbox b = o ∧ o.peer = d.peer ∧
      o.msg.titles = [y] ∧ hdrKind o.msg.hdr = 0 ∧ hdrChan o.msg.hdr = d.chan ∧ hdrTile o.msg.hdr = j.tile ∧ hdrNt o.msg.hdr = 1 ∧
      o.msg.payload = [j.card.tag ++ j.num ++ (0 : BitVec 28) ++ st]
    let room := (s.landingArena j.dest x.onChip).bind (fun a => s.allotBlocks j.src a x.len.toNat)
    (j.far = false → s.busyBefore j.src x j.ord = false → needsScan j.src x j.dest false = false →
      (d.peer = 0x3FF ∨ s.livePorts ≠ []) →
      ∃ u, Runs (.jobDone j.tile j.num) s u ∧ ends u 3 ∧ sk u = {} ∧ tells u 3 x ∧ (x.isShare = false → (u.tte x).state = 2) ∧
        u.mem = s.mem) ∧
    (j.far = true → d.peer = 0x3FF → j.imgD.kind = 0 → room = none →
      ∃ u, Runs (.jobDone j.tile j.num) s u ∧ ends u 4 ∧ sk u = { img := x } ∧ u.mem = s.mem ∧ u.tte x = s.tte x ∧
        (∀ e ∈ (u.tile j.tile).outbox, e.1 ≠ b)) ∧
    (∀ y s', j.far = true → d.peer = 0x3FF → j.imgD.kind = 0 → room = some (y, s') →
      ∃ u q, Runs (.jobDone j.tile j.num) s u ∧ u.job? j.tile j.num = some q ∧ q.status = 2 ∧
        q.imgD = { y with rights := x.rights &&& 0b11010 } ∧ u.ctxs = s'.ctxs ∧ u.mem = s.mem ∧ sk u = sk s) ∧
    (j.far = true → d.peer = 0x3FF → j.imgD.kind ≠ 0 → j.data = [] → j.zeroed = 0 → s.MemOk →
      s.unitAdmits (.tramontane (clusterOf j.tile)) x.world = true → x.loc = 0 → (s.tile x.place).world = x.world →
      ¬(j.imgD.ctx = x.ctx ∧ j.imgD.index = x.index) →
      let lo := tileKey x.place x.base.toNat
      let st : BitVec 4 := if j.poison then 5 else 3
      ∃ u, Runs (.jobDone j.tile j.num) s u ∧ ends u st ∧ sk u = {} ∧ tells u st { j.imgD with gen := (s.tte j.imgD).gen } ∧
        (u.tte x).state = 0 ∧ (u.tte j.imgD).state = 2 ∧
        (∀ k, u.byte k = if lo ≤ k ∧ k < lo + 256 * x.len.toNat then 0 else s.byte k)))

/-- R346, R349, R350, R356: NB.OPEN, NB.CLOSE and NB.STAT on a granule operand that passes R346's checks (s' is the state with the translation's
traces). OPEN of a granule that is not open, in a live stack with fewer than 64 open by it, outside the migration window, waits for the
slot's operations on it, writes the cluster's lines of it back, and opens it for the chain with every register 0; an open one raises 0x3D.
CLOSE of the chain's granule waits for its jobs and closes it. STAT with bit 0 of rs set reads a migration register. -/
def Obligations.GranulesOpenAndClose : Prop :=
  ∀ (s s' : State) (rd rs : XReg) (k : KReg) (t : Title) (g : Nat), s.Ready [rs] →
    let i := s.cur
    let o := (s.me.xr rs).toNat
    let refused := fun (ins : Instr) => Runs ins s (s.fault i { cause := 0x3D, tindex := t.index, tgen := t.gen })
    (s.granuleOperand k (some rRD) o 0x13 .read = .ok (t, g, s') →
      ((s'.granOf g).isSome = true → refused (.nbOpen k rs)) ∧
      (∀ x off, s'.granOf g = none → s'.hbm.nowPlace g = some (x, off) →
        (s'.grans.filter (fun y => y.stack == x && y.byOpen)).length < 64 → s'.hbm.inWindow g = false →
        (s'.touches i t o = true → Runs (.nbOpen k rs) s s') ∧
        (∀ u, s'.touches i t o = false → s'.flushGranule (clusterOf i.tile) g = .ok u →
          ∃ y, Runs (.nbOpen k rs) s ({ u with grans := u.grans ++ [y] } : State).retire ∧ y.stack = x ∧ y.off = off ∧ y.g = g ∧
            y.bregs = [] ∧ y.acc = [] ∧ y.slots = [] ∧ y.upc = 0 ∧ y.lc = 0 ∧ y.rowOpen = false ∧ y.opener = i ∧ y.chainId = s.me.chainId ∧
            y.ctx = s.me.ctx ∧ y.index = t.index ∧ y.domain = t.domain)) ∧
      (((s.ctxOf i).rerun = 0 → o % 2 = 0 → ∃ w, Runs (.nbStat rd k rs) s (s'.retireX rd w) ∧
        ∀ x off, s'.hbm.nowPlace g = some (x, off) → w.extractLsb' 16 48 = 0 ∧ w.extractLsb' 12 4 = x ∧
          (w.extractLsb' 6 6).toNat = off % 64 ∧ w.extractLsb' 3 3 = 0 ∧ w.getLsbD 2 = s'.hbm.inWindow g ∧
          (w.getLsbD 0 = true ↔ ∃ y, s'.granOf g = some y ∧ y.opener = i ∧ y.chainId = s.me.chainId) ∧
          (w.getLsbD 1 = true ↔ w.getLsbD 0 = false ∧ (s'.granOf g).isSome = true)))) ∧
    (s.granuleOperand k none o 0x13 .read = .ok (t, g, s') →
      (∀ y, s'.granOf g = some y → y.opener = i → y.chainId = s.me.chainId →
        (s'.granBusy y = true → Runs (.nbClose k rs) s s') ∧
        (s'.granBusy y = false → Runs (.nbClose k rs) s ({ s' with grans := s'.grans.filter (fun y => y.g != g) } : State).retire)) ∧
      ((∀ y, s'.granOf g = some y → ¬(y.opener = i ∧ y.chainId = s.me.chainId)) → refused (.nbClose k rs))) ∧
    ((s.ctxOf i).rerun = 0 → o % 2 = 1 →
      let h := s.hbm
      let gives := fun (n : Nat) (w : Word) => o / 2 % 8 = n → Runs (.nbStat rd k rs) s (s.retireX rd w)
      gives 0 (h.liveCap.setWidth 64) ∧ gives 2 (h.wmark.setWidth 64) ∧ gives 3 (h.liveMask.setWidth 64) ∧
      gives 1 (BitVec.ofNat 64 (h.mphase.toNat * 65536 + h.target.toNat * 256 + h.state.toNat)) ∧
      gives 4 0 ∧ gives 5 0 ∧ gives 6 0 ∧ gives 7 0)

/-- R346 to R348, R351 to R355: a near-bank job whose card, granule and data title pass their checks is issued, with rd its number, or waits
while 16 jobs of the slot are not final; the granule must be open by the chain for NB.BCAST, NB.RUN and NB.READ, and not open for NB.RCOPY
and NB.ZERO. A card that breaks its rules raises 0x60, a granule in the wrong state 0x3D.

R344, R351 to R355: what near-bank jobs do when they run. NB.RUN reads its program at its start: poisoned, the job ends POISON with a
deferred 0x3F; with a word that is no micro-instruction, or a LOOP to COUNT or beyond, FAULT with 0x3E; else it runs from µPC 0 with LC 0, the
accumulators zeroed by MODE, bank registers and slots kept. NB.BCAST loads the eight bank registers of every bank, with MODE 1 each bank from
256 bytes of its own; poisoned, it loads none. NB.READ writes result slot n of bank b at 64 n + 4 b of its range. NB.ZERO leaves every byte of the
granule 0 and its units good, and NB.RCOPY leaves the destination granule with the bytes of the source; both drop the cluster's lines of what they
wrote. -/
def Obligations.NearBankJobsIssue : Prop :=
  (∀ (s : State) (rd rs : XReg) (k : KReg) (ws : List Word), s.Ready [rs] →
    let i := s.cur
    let c := cardOf ws
    let issued := fun (ins : Instr) (u : State) (kind : JobKind) (card : Card) (src dst : Title) (msg : Bool) =>
      (16 ≤ u.placesUsed i → Runs ins s u) ∧
      (u.placesUsed i < 16 → (msg = true → u.outGranted i = true) → ∃ t, Runs ins s t ∧ u.IssuesJob t i rd kind card src dst msg)
    let onOpen := fun (ins : Instr) (kind : JobKind) =>
      (nbCardOk kind ws = false → Runs ins s (s.fault i { cause := 0x60 })) ∧
      (∀ gt g u dt d, nbCardOk kind ws = true → s.granuleOperand c.sk (some rRD) c.srcoff 0x61 .read = .ok (gt, g, u) →
        ((∀ y, u.granOf g = some y → ¬(y.opener = i ∧ y.chainId = s.me.chainId)) →
          Runs ins s (s.fault i { cause := 0x3D, tindex := gt.index, tgen := gt.gen })) ∧
        ((∃ y, u.granOf g = some y ∧ y.opener = i ∧ y.chainId = s.me.chainId) →
          u.jobTitle c.dk (if kind = .read then rWR else rRD) c.dstoff (nbBytes kind c) = .ok dt → u.jobDest kind c = .ok d →
          issued ins u kind c gt dt d.isSome))
    (readCard s i (s.me.xr rs) = .ok ws →
      onOpen (.nbBcast rd rs) .bcast ∧ onOpen (.nbRun rd rs) .run ∧ onOpen (.nbRead rd rs) .read ∧
      (∀ gt g u dt h u' d, nbCardOk .rcopy ws = true → s.granuleOperand c.sk (some rRD) c.srcoff 0x61 .read = .ok (gt, g, u) →
        u.granOf g = none → u.granuleOperand c.dk (some rWR) c.dstoff 0x61 .write = .ok (dt, h, u') → u'.granOf h = none →
        u'.jobDest .rcopy c = .ok d → issued (.nbRcopy rd rs) u' .rcopy c gt dt d.isSome)) ∧
    (∀ t g u, s.granuleOperand k (some rWR) (s.me.xr rs).toNat 0x13 .write = .ok (t, g, u) →
      ((u.granOf g).isSome = true → Runs (.nbZero rd k rs) s (s.fault i { cause := 0x3D, tindex := t.index, tgen := t.gen })) ∧
      (u.granOf g = none → issued (.nbZero rd k rs) u .zero { dstoff := (s.me.xr rs).toNat } {} t false))) ∧
  (∀ (s : State) (j : Job), s.job? j.tile j.num = some j → j.paused = none → j.deferred = none → j.cancelled = false → j.poison = false →
    j.badUnits = [] → j.waits = [] → j.buf = none → j.card.notify = false → j.card.carry = false → s.late = [] →
    (∀ r ∈ s.reqs, r.id < s.nextId) → s.MemOk →
    let c := j.card
    let cl := clusterOf j.tile
    let fails := fun (ins : Instr) (s' : State) (st : BitVec 4) (cause : BitVec 7) =>
      ∃ t q rec, Runs ins s t ∧ t.job? j.tile j.num = some q ∧ q.status = 2 ∧ q.endStatus = st ∧ rec.cause = cause ∧ rec.ctx = j.ctx ∧
        t.funcs = (s'.pushFunc rec).funcs ∧ t.grans = s'.grans
    let page := fun (x : Title) (o : Nat) (kind : AccKind) (stack : BitVec 4) (off : Nat) => x.loc = 2 ∧ o % 64 = 0 ∧
      ∃ pa leaf, pa % 4096 = 0 ∧ pa + 4096 ≤ s.hbm.liveCap.toNat ∧ pa + 4096 ≤ hbmEnd ∧ s.hbm.map pa = .at_ stack off ∧
        s.reach (dieOfCluster cl) (BitVec.ofNat 3 (stack.toNat / 2)) = true ∧ leaf.aPending = false ∧
        (s.domain x.domain).actRate = 0 ∧ s.hbm.rfm = [] ∧ (∀ l ∈ (s.cluster cl).lines, l.pa / 16 ≠ pa / 4096) ∧
        ∀ n, n < 4096 → s.translate cl (j.eng.purpose x) (x.base.toNat + o + n) kind = .ok (.here (pa + n) leaf)
    (∀ g bs bads s', j.kind = .run → s.jobReady j = true → j.gran = some g.g → s'.granOf g.g = some g → s'.job? j.tile j.num = some j →
      s.engRange j.eng j.imgD c.dstoff (4 * c.len) = .ok (bs, bads, s') →
      let word := fun (n : Nat) => BitVec.ofNat 32 (leNat ((bs.drop (4 * n)).take 4))
      let sound := ∀ n, n < c.len → ∃ i, decodeMicro (word n) = some i ∧ ∀ n m, i = .loop n m → n.toNat < c.len
      (bads ≠ [] → fails (.jobStart j.tile j.num) s' 5 0x3F) ∧
      (bads = [] → ¬sound → fails (.jobStart j.tile j.num) s' 6 0x3E) ∧
      (bads = [] → sound → ∃ t q h, Runs (.jobStart j.tile j.num) s t ∧ t.job? j.tile j.num = some q ∧ q.status = 1 ∧
        q.prog.length = c.len ∧ (∀ n, n < c.len → q.prog[n]? = some (word n)) ∧ t.granOf g.g = some h ∧ h.upc = 0 ∧ h.lc = 0 ∧
        h.rowOpen = false ∧ h.acc = (if c.mode then [] else g.acc) ∧ h.slots = g.slots ∧ h.bregs = g.bregs ∧ t.mem = s'.mem)) ∧
    (∀ g bs bads s', j.kind = .bcast → j.status = 1 → j.gran = some g.g → s'.granOf g.g = some g → g.closing = false → s'.late = [] →
      s'.job? j.tile j.num = some j → s.engRange j.eng j.imgD c.dstoff (if c.mode then 4096 else 256) = .ok (bs, bads, s') →
      (bads ≠ [] → fails (.jobOperandsConsumed j.tile j.num) s' 5 0x3F) ∧
      (bads = [] → ∃ t u h, Runs (.jobOperandsConsumed j.tile j.num) s t ∧ Runs (.jobDone j.tile j.num) t u ∧
        (u.job? j.tile j.num).map Job.status = some 3 ∧ u.granOf g.g = some h ∧ h.acc = g.acc ∧ h.slots = g.slots ∧ u.mem = s'.mem ∧
        ∀ b r : Nat, b < 16 → r < 8 → find 0 h.bregs (8 * b + r) =
          BitVec.ofNat 256 (leNat ((bs.drop (if c.mode then 256 * b + 32 * r else 32 * r)).take 32)))) ∧
    (∀ g, j.kind = .read → s.jobReady j = true → j.gran.bind s.granOf = some g → c.len ≤ 16 → j.imgD.loc = 0 →
      (s.tile j.imgD.place).world = j.imgD.world →
      let dst := tileKey j.imgD.place (j.imgD.base.toNat + c.dstoff)
      ∃ t u, Runs (.jobStart j.tile j.num) s t ∧ Runs (.jobDone j.tile j.num) t u ∧ (u.job? j.tile j.num).map Job.status = some 3 ∧
        (∀ n b m : Nat, n < c.len → b < 16 → m < 4 →
          u.byte (dst + 64 * n + 4 * b + m) = ((find 0 g.slots (16 * b + n)) >>> (8 * m)).setWidth 8) ∧
        (∀ k, ¬(dst ≤ k ∧ k < dst + 64 * c.len) → u.byte k = s.byte k)) ∧
    (∀ stack off, j.kind = .zero → s.jobReady j = true → page j.imgD c.dstoff .write stack off →
      ∃ t u, Runs (.jobStart j.tile j.num) s t ∧ Runs (.jobDone j.tile j.num) t u ∧ (u.job? j.tile j.num).map Job.status = some 3 ∧
        (∀ n, n < 4096 → u.byte (hbmKey stack off n) = 0 ∧ (u.unit (hbmKey stack off n)).poison = false ∧
          (u.unit (hbmKey stack off n)).domain = j.imgD.domain) ∧
        (∀ k, ¬(hbmKey stack off 0 ≤ k ∧ k < hbmKey stack off 4096) → u.byte k = s.byte k) ∧
        (∀ g, j.gran = some g → ∀ l ∈ (u.cluster cl).lines, l.pa / 16 ≠ g)) ∧
    (∀ g stack off stack' off', j.kind = .rcopy → j.status = 1 → j.gran = some g → (∀ l ∈ (s.cluster cl).lines, l.pa / 16 ≠ g) →
      page j.imgS c.srcoff .read stack off → page j.imgD c.dstoff .write stack' off' → s.hbmPoison (hbmKey stack off 0) 4096 = false →
      ∃ t u, Runs (.jobOperandsConsumed j.tile j.num) s t ∧ Runs (.jobDone j.tile j.num) t u ∧
        (u.job? j.tile j.num).map Job.status = some 3 ∧
        (∀ n, n < 4096 → some (u.byte (hbmKey stack' off' n)) = (s.hbmRead j.imgS.domain (hbmKey stack off 0) 4096)[n]? ∧
          (u.unit (hbmKey stack' off' n)).poison = false) ∧
        (∀ k, ¬(hbmKey stack' off' 0 ≤ k ∧ k < hbmKey stack' off' 4096) → u.byte k = s.byte k)))

/-- R341, R343, R344: the micro-instructions of a running microprogram, in each of the 16 banks. With the row span not used up: ACT opens a closed row; MAC16 on an open row without poison adds the exact sum of 16 products to an accumulator, rounded to
binary32; ADDS adds and SCALE scales accumulators; NEXTROW closes the row; LOOP goes back until it has been met N times; PUTACC copies to a
result slot; HALT ends the run with its row closed. ACT on an open row, and MAC16 and NEXTROW on a closed one, end the job in FAULT with
0x3E; poisoned bank data in POISON. So do a 33rd MAC16 and a 65th micro-instruction since the last row boundary, and going on past the last word
of the program; HALT may stand in the last place (when the 65th and the end are met is the model's reading, log 58 DEDUCED). An arbitration window
opens at a row boundary reached since the run resumed where ordinary requests are queued at the pseudo-channel, and serves the first 64 of them in
order; amid a row, and with none queued, nothing happens. -/
def Obligations.MicroInstructions : Prop :=
  ∀ (s : State) (j : Job) (g : Gran) (a c d : BitVec 4) (u r : BitVec 3) (f : Bool) (e n : BitVec 8) (x : BitVec 6),
    s.runningMicro = some (j, g) →
    let more := g.upc.toNat + 1 < j.prog.length
    let within := g.rowOpen = true → g.execs < 64
    let queue := s.hbm.waiting.filter (fun w => w.1 == g.pc)
    let acc := fun (h : Gran) (b : Nat) (m : BitVec 4) => find 0 h.acc (16 * b + m.toNat)
    let num := fun (w : BitVec 32) => fmtF.value w.toNat
    let goes := fun (ins : Instr) (upc : BitVec 6) (row : Bool) (p : Gran → Prop) =>
      ∃ t h, Runs ins s t ∧ t.granOf g.g = some h ∧ h.upc = upc ∧ h.rowOpen = row ∧ h.execs = (if row then g.execs + 1 else 0) ∧ p h ∧
        t.mem = s.mem ∧ { t with grans := s.grans, hbm := s.hbm } = s
    let next := g.upc + 1
    let same := fun (h : Gran) => h.acc = g.acc ∧ h.slots = g.slots ∧ h.bregs = g.bregs ∧ h.lc = g.lc
    let sets := fun (m : BitVec 4) (v : Nat → Machine.Num) (h : Gran) => h.slots = g.slots ∧ h.bregs = g.bregs ∧ h.lc = g.lc ∧
      (∀ b, b < 16 → acc h b m = BitVec.ofNat 32 (toF32 (v b))) ∧ (∀ b q, b < 16 → q ≠ m → acc h b q = acc g b q)
    let fails := fun (ins : Instr) (cause : BitVec 7) (st : BitVec 4) => j.cancelled = false → ∃ t h, Runs ins s t ∧ t.granOf g.g = some h ∧ h.rowOpen = false ∧
      ∃ q, t.job? j.tile j.num = some q ∧ q.status = 2 ∧ q.endStatus = st ∧
        ∃ rec, t.funcs = (s.pushFunc rec).funcs ∧ rec.cause = cause ∧ rec.ctx = j.ctx
    (more → within →
    (g.rowOpen = false → s.activationHeld g = false →
      ∃ t h, Runs .act s t ∧ t.granOf g.g = some h ∧ h.upc = next ∧ h.rowOpen = true ∧ h.macs = 0 ∧ same h ∧ t.mem = s.mem) ∧
    (g.rowOpen = true → g.macs < 32 → (∀ b, b < 16 → (s.burst g b u.toNat).2 = false) →
      goes (.mac16 a u r f) next true (fun h => h.macs = g.macs + 1 ∧ sets a (fun b => (num (acc g b a)).add (Machine.Num.sum (List.zipWith Machine.Num.mul
        (elements16 f (s.burst g b u.toNat).1) (elements16 f (leBytes 32 (find 0 g.bregs (8 * b + r.toNat)).toNat))))) h)) ∧
    goes (.adds d a c) next g.rowOpen (sets d (fun b => (num (acc g b a)).add (num (acc g b c)))) ∧
    goes (.scale a e) next g.rowOpen (sets a (fun b => (num (acc g b a)).scale2 e.toInt)) ∧
    (g.rowOpen = true → goes .nextrow next false same) ∧
    (n.toNat ≤ g.lc.toNat + 1 → goes (.loop x n) next g.rowOpen (fun h => h.lc = 0 ∧ h.acc = g.acc ∧ h.slots = g.slots ∧ h.bregs = g.bregs)) ∧
    goes (.putacc a d) next g.rowOpen (fun h => h.acc = g.acc ∧ h.bregs = g.bregs ∧ h.lc = g.lc ∧
      (∀ b, b < 16 → find 0 h.slots (16 * b + d.toNat) = acc g b a) ∧
      (∀ b q : Nat, b < 16 → q < 16 → q ≠ d.toNat → find 0 h.slots (16 * b + q) = find 0 g.slots (16 * b + q)))) ∧
    (within → g.lc.toNat + 1 < n.toNat →
      goes (.loop x n) x g.rowOpen (fun h => h.lc = g.lc + 1 ∧ h.acc = g.acc ∧ h.slots = g.slots ∧ h.bregs = g.bregs)) ∧
    (g.rowOpen = false → s.activationHeld g = true → Runs .act s s) ∧
    (within → ∃ t h q, Runs .halt s t ∧ t.granOf g.g = some h ∧ h.rowOpen = false ∧ same h ∧ t.job? j.tile j.num = some q ∧ q.status = 2 ∧
      q.deferred = j.deferred ∧ q.poison = j.poison ∧ t.mem = s.mem) ∧
    (within → (g.rowOpen = true → fails .act 0x3E 6) ∧
      (g.rowOpen = false → fails .nextrow 0x3E 6 ∧ fails (.mac16 a u r f) 0x3E 6) ∧
      (g.rowOpen = true → 32 ≤ g.macs → fails (.mac16 a u r f) 0x3E 6) ∧
      (g.rowOpen = true → g.macs < 32 → j.deferred = none → (∃ b, b < 16 ∧ (s.burst g b u.toNat).2 = true) →
        fails (.mac16 a u r f) 0x3F 5)) ∧
    (g.rowOpen = true → 64 ≤ g.execs →
      ∀ ins ∈ [Instr.act, .mac16 a u r f, .adds d a c, .scale a e, .nextrow, .loop x n, .putacc a d, .halt], fails ins 0x3E 6) ∧
    (¬more → within →
      (∀ ins ∈ [Instr.adds d a c, .scale a e, .putacc a d], fails ins 0x3E 6) ∧ (g.rowOpen = true → fails .nextrow 0x3E 6) ∧
      (n.toNat ≤ g.lc.toNat + 1 → fails (.loop x n) 0x3E 6) ∧ (g.rowOpen = false → s.activationHeld g = false → fails .act 0x3E 6) ∧
      (g.rowOpen = true → g.macs < 32 → (∀ b, b < 16 → (s.burst g b u.toNat).2 = false) → fails (.mac16 a u r f) 0x3E 6)) ∧
    (g.suspended = false → (g.rowOpen = true ∨ g.ran = false ∨ queue = []) → Runs (.arbitrationWindow j.tile j.num) s s) ∧
    (g.suspended = false → g.rowOpen = false → g.ran = true → queue ≠ [] →
      ∃ t h, Runs (.arbitrationWindow j.tile j.num) s t ∧ t.granOf g.g = some h ∧ h.suspended = true ∧ h.served = Nat.min 64 queue.length ∧
        h.upc = g.upc ∧ h.lc = g.lc ∧ h.acc = g.acc ∧ h.bregs = g.bregs ∧ h.slots = g.slots ∧
        t.hbm.granted = s.hbm.granted ++ (queue.take 64).map Prod.snd ∧ (∀ w ∈ t.hbm.waiting, w ∈ s.hbm.waiting) ∧ t.mem = s.mem)

/-! ### Atomics and pools (chapters 17 and 23) -/

/-- R116, R119, R245 to R247: an atomic whose title passes its checks and whose home translation gives (u: the state with the translation's
traces) is sent to that home with the slot's next sequence number, as a packet where the home is on another die, unless 16 requests are
outstanding, one with `.ORD` is, or it carries `.ORD` itself and any is: then it waits, and leaves no trace. It retires when sent, its rd awaiting the reply, but for AMO.WAITGE, at which the slot waits. A title
that is no COMMONS, and no share of one, raises 0x11; one without RD for AMO.LD and AMO.WAITGE, without AMO for the others, 0x12. -/
def Obligations.AtomicsAsk : Prop :=
  ∀ (s : State) (rd rs : XReg) (k : KReg) (ord n : Bool), s.Ready [rd, rs] → (s.ctxOf s.cur).rerun = 0 →
    let i := s.cur
    let v := s.me
    let x := (v.kr k).img
    let asks := fun (ins : Instr) (op : BitVec 4) (n : Bool) (rd rs : XReg) (result : Bool) (right : Nat) =>
      let common := x.kind = 3 ∨ (x.kind = 4 ∧ (s.tte x).kind = 3)
      let arg := fun (key pa : Nat) => ReqKind.amo op n key pa (v.xr rs) (if op = 7 then v.xr rd else 0)
      let q : State → Home → Nat → Nat → Req := fun u h key pa => {
        id := u.nextId, src := i, chainId := v.chainId, ctx := v.ctx, seq := v.aseq, home := h, kind := arg key pa
        rd := if result then some rd else none, ord := ord, tindex := x.index, port := u.homePort h i.tile, entry := v.entry
        va := x.base.toNat }
      (x.kind ≠ 0 → (v.kr k).locked = false → ¬common → Runs ins s (s.fault i { cause := 0x11, tindex := x.index, tgen := x.gen })) ∧
      ((v.kr k).locked = false → common → x.rights.getLsbD right = false →
        Runs ins s (s.fault i { cause := 0x12, tindex := x.index, tgen := x.gen })) ∧
      (∀ h key pa u, (v.kr k).locked = false → common → x.rights.getLsbD right = true → x.len ≠ 0 → s.homeOf i x op = .ok (h, key, pa, u) →
        let out := s.amosOf i ++ s.reqs.filter (fun r => r.src == i && r.holdsPlace)
        let held := 16 ≤ out.length ∨ (∃ r ∈ out, r.ord = true) ∨ (ord = true ∧ out ≠ [])
        (held → Runs ins s s) ∧
        (¬held → ∃ t n, Runs ins s t ∧ t.reqs = u.reqs ++ [{ q u h key pa with packet := n }] ∧ u.nextId < t.nextId ∧
          (n = none ↔ ∀ d, h.die = some d → d = dieOf i.tile) ∧ t.me.aseq = v.aseq + 1 ∧
          t.me.x = v.x ∧ t.me.k = v.k ∧ (∀ j, j ≠ i → t.slot j = s.slot j) ∧ t.mem = u.mem ∧
          (if op = 12 then t.me.wait = some (.reply u.nextId) ∧ t.me.pc = v.pc ∧ t.me.due = v.due
           else t.me.wait = v.wait ∧ t.me.pc = v.pc + 4 ∧ t.me.instret = v.instret + 1 ∧
             ∀ r : XReg, t.me.due[r.toNat] = if result = true ∧ r = rd ∧ r ≠ 0 then some u.nextId else v.due[r.toNat])))
    asks (.amoAdd ord rd k rs) 0 false rd rs true 2 ∧ asks (.amoMin ord n rd k rs) 1 n rd rs true 2 ∧
    asks (.amoMax ord n rd k rs) 2 n rd rs true 2 ∧ asks (.amoAnd ord rd k rs) 3 false rd rs true 2 ∧
    asks (.amoOr ord rd k rs) 4 false rd rs true 2 ∧ asks (.amoXor ord rd k rs) 5 false rd rs true 2 ∧
    asks (.amoSwap ord rd k rs) 6 false rd rs true 2 ∧ asks (.amoCas ord rd k rs) 7 false rd rs true 2 ∧
    asks (.amoFadd ord rd k rs) 8 false rd rs true 2 ∧ asks (.amoLd ord rd k) 9 false rd 0 true 4 ∧
    asks (.amoSt ord k rs) 10 false 0 rs false 2 ∧ asks (.amoV ord k rs) 11 false 0 rs false 2 ∧
    asks (.amoWaitge ord n rd k rs) 12 n rd rs true 4

/-- R109, R116, R119, R246, R248: a request that arrives at its home in SRAM or HBM (where the address maps now, s1), with no earlier one of its
slot under way to it or under its title. A result the replay filter holds is the reply, and nothing is applied; a replay that it does not
hold is answered indeterminate, nothing applied. A granule that is poisoned or whose read is uncorrectable is poisoned then, and the reply
is poison. Else the old value is the reply, the object takes the new value of the operation's table row, every other byte of memory
stays, and the parked waits on the object that the new value satisfies are answered with it; AMO.WAITGE answers once its comparison holds,
parks with room for it, else is answered not-parked, or dropped where its slot no longer waits. The states of a request at its home are
the model's reading (log 44, DEDUCED).

R109, R119, R247, R248: the reply of an atomic, once its packet has come to the slot's die, writes rd and its mark where that is still due, and nothing where it is not; a slot that
waits for it goes on with the value in rd; without rd a poison reply records 0x35 and an indeterminate one 0x36. A request without its
reply for 50 µs is sent again as a replay, up to 8 times, then given up: 0x59 at a slot that waits. A wait answered not-parked is sent again
after 1 µs with the next sequence number. -/
def Obligations.AtomicsServed : Prop :=
  (∀ (s s1 : State) (id : Nat) (r : Req) (op : BitVec 4) (n : Bool) (key pa : Nat) (a cmp : Word) (at_ : Home) (k : Nat),
    s.req? id = some r → r.kind = .amo op n key pa a cmp → r.state = .sent →
    (∀ q ∈ s.reqs, ¬(q.src = r.src ∧ q.isAmo = true ∧ q.state = .sent ∧ q.id < r.id ∧
      (s.homeAt q = s.homeAt r ∨ (q.ctx = r.ctx ∧ q.tindex = r.tindex)))) →
    (∀ p, r.home ≠ .peer p) → (s.landed r).1 = true → (s.landed r).2.homeNow r key pa = .ok (at_, k, s1) → k % 64 ≤ 56 → s1.MemOk →
    let h := s1.home at_
    let d := (s.ctx r.ctx).domain
    let inHbm := ∃ y, at_ = .stack y
    let bad := inHbm ∧ s1.hbmPoison k 8 = true
    let read := fun (u : State) (a n : Nat) => match at_ with
      | .stack _ => u.hbmRead d a n
      | _ => u.bytes a n
    let stored := h.stored (SlotId_num r.src) r.seq
    let w := leWord (read s1 k 8)
    let answered := fun (u : State) (id : Nat) (st : ReqState) => ∃ q, u.req? id = some q ∧ q.state = st
    let untouched := fun (u : State) => { u with reqs := s1.reqs, links := s1.links, nextId := s1.nextId } = s1
    (¬inHbm → at_ = r.home ∧ k = key ∧ s1 = (s.landed r).2) ∧ s1.mem = s.mem ∧
    (∀ v m, stored = some (v, m) → ∃ u, Runs (.atomicArrive id) s u ∧ answered u id (.replied v m) ∧ untouched u) ∧
    (stored = none → r.replay = true → ∃ u, Runs (.atomicArrive id) s u ∧ answered u id (.replied 0 .indet) ∧ untouched u) ∧
    (stored = none → r.replay = false → bad →
      ∃ u, Runs (.atomicArrive id) s u ∧ answered u id (.replied 0 .poison) ∧ (u.unit k).poison = true ∧ u.mem = s.mem ∧
        (∀ c, c / 64 ≠ k / 64 → u.unit c = s1.unit c) ∧ (u.home at_).stored (SlotId_num r.src) r.seq = some (0, .poison) ∧
        (u.home at_).parks = h.parks) ∧
    (stored = none → r.replay = false → ¬bad → op.toNat ≤ 11 →
      ∃ u, Runs (.atomicArrive id) s u ∧ answered u id (.replied w .none) ∧
        (h.parks = [] → (u.home at_).stored (SlotId_num r.src) r.seq = some (w, .none)) ∧
        (∀ c, ¬(k ≤ c ∧ c < k + 8) → read u c 1 = read s1 c 1) ∧ u.slots = s.slots ∧
        (let x := leWord (read u k 8)
         AtomicTakes op n w a cmp x ∧
         (op ≠ 9 → (op = 7 → w = cmp) →
           let hit := fun (p : Parked) => p.key = k ∧ (if p.n then p.rs.toNat ≤ x.toNat else p.rs.toInt ≤ x.toInt)
           (∀ p, p ∈ (u.home at_).parks ↔ p ∈ h.parks ∧ ¬hit p) ∧
           ∀ p ∈ h.parks, hit p → p.id ≠ id → (s.req? p.id).isSome = true → answered u p.id (.replied x .none)))) ∧
    (stored = none → r.replay = false → ¬bad → op = 12 →
      let ge := if n then a.toNat ≤ w.toNat else a.toInt ≤ w.toInt
      ∃ u, Runs (.atomicArrive id) s u ∧ u.mem = s.mem ∧ u.slots = s.slots ∧
        (ge → answered u id (.replied w .none)) ∧
        (¬ge → h.parks.length < 256 → answered u id .parked ∧
          (u.home at_).parks = h.parks ++ [{ id := id, source := SlotId_num r.src, seq := r.seq, key := k, n := n, rs := a }]) ∧
        (¬ge → 256 ≤ h.parks.length → (u.home at_).parks = h.parks ∧
          ((s.slot r.src).wait = some (.reply r.id) → answered u id .notParked) ∧
          ((s.slot r.src).wait ≠ some (.reply r.id) → u.req? id = none)))) ∧
  (∀ (s : State) (id : Nat) (r : Req) (w : Word) (m : Mark),
    s.req? id = some r → r.isAmo = true → (s.ctx r.ctx).rerun = 0 → (s.slot r.src).ctx = r.ctx → (∀ q ∈ s.reqs, q.id ≠ s.nextId) →
    let i := r.src
    let v := s.slot i
    let s0 := (s.landed r).2
    let here := (s.landed r).1 = true
    let waits := v.wait = some (.reply id)
    (r.state = .replied w m → ¬here → Runs (.atomicReply id) s s0 ∧ (∃ q, s0.req? id = some q ∧ q.state = r.state)) ∧
    (∀ rd, here → r.state = .replied w m → ¬waits → r.rd = some rd →
      ∃ u, Runs (.atomicReply id) s u ∧ u.req? id = none ∧ u.mem = s.mem ∧ (∀ j, j ≠ i → u.slot j = s.slot j) ∧
        (u.slot i).pc = v.pc ∧
        (let hit := rd ≠ 0 ∧ v.due[rd.toNat] = some id
         (∀ q, (u.slot i).xr q = if hit ∧ q = rd then w else v.xr q) ∧
         (∀ q : XReg, (u.slot i).poisonMark q = if hit ∧ q = rd then decide (m = .poison) else v.poisonMark q) ∧
         (∀ q : XReg, (u.slot i).indetMark q = if hit ∧ q = rd then decide (m = .indet) else v.indetMark q))) ∧
    (∀ rd, here → r.state = .replied w m → waits → r.rd = some rd →
      ∃ u, Runs (.atomicReply id) s u ∧ u.req? id = none ∧ (u.slot i).wait = none ∧ (u.slot i).pc = v.pc + 4 ∧
        (∀ q, (u.slot i).xr q = if q = rd ∧ q ≠ 0 then w else v.xr q) ∧ u.mem = s.mem) ∧
    (here → r.state = .replied w m → ¬waits → r.rd = none →
      ∃ rec : FaultRec, rec.ctx = r.ctx ∧ rec.tindex = r.tindex ∧
        Runs (.atomicReply id) s (match m with
          | .none => s0.dropReq id
          | .poison => (s0.dropReq id).pushFunc { rec with cause := 0x35 }
          | .indet => (s0.dropReq id).pushFunc { rec with cause := 0x36 })) ∧
    (r.state = .sent → 50000 ≤ r.age → r.resends < 8 →
      ∃ u q, Runs (.atomicResend id) s u ∧ u.req? id = some q ∧ q.state = .sent ∧ q.replay = true ∧ q.seq = r.seq ∧ q.kind = r.kind ∧
        q.resends = r.resends + 1 ∧ { u with reqs := s.reqs, links := s.links, nextId := s.nextId } = s) ∧
    (r.state = .sent → 50000 ≤ r.age → 8 ≤ r.resends → waits →
      Runs (.atomicResend id) s (((s.dropReq id).modSlot i (fun v => { v with wait := none })).fault i { cause := 0x59 })) ∧
    (r.state = .notParked → waits → 1000 ≤ r.age →
      ∃ u q, Runs (.waitgeRetry i) s u ∧ (u.slot i).wait = some (.reply s.nextId) ∧ (u.slot i).aseq = v.aseq + 1 ∧
        u.req? s.nextId = some q ∧ q.state = .sent ∧ q.seq = v.aseq ∧ q.replay = false ∧ q.kind = r.kind ∧ u.mem = s.mem))

/-- R309, R312, R324 to R330, R366: the pool instructions on a title that passes R324's checks for pool p. Inserts and takes are sent to the local
shard with the slot's next sequence number while the slot has a free place, else they wait. PINS carries key and value; PINS.K the title of
kv, which leaves its register for state pooled; PTAKE.NB waits for its record; PTAKE.M holds an outbox buffer for the answer. PCFG on the pool's root
sets the word of the next cut; PSTAT reads its items; PDRAIN unconfigures and counts. A key of all ones raises 0x66, a pool that is not configured
0x64, PDRAIN outside function 0 raises 0x01; a backing storage at or above LIVECAP raises 0x3B (R366) before any world check. That PSTAT waits for
a free place, and what PCFG checks in which order, are the model's readings (logs 10 and 59, DEDUCED). -/
def Obligations.PoolInstructions : Prop :=
  ∀ (s : State) (rd rs1 rs2 : XReg) (kp kv : KReg) (p : BitVec 6) (t : Title), s.Ready [rs1, rs2] → (s.ctxOf s.cur).rerun = 0 →
    let i := s.cur
    let v := s.me
    let d := dieOf i.tile
    let key := v.xr rs1
    let sent := fun (ins : Instr) (kind : ReqKind) (after : State → Prop) => ∃ u q, Runs ins s u ∧ u.reqs = s.reqs ++ [q] ∧ q.id = s.nextId ∧
      q.src = i ∧ q.ctx = v.ctx ∧ q.chainId = v.chainId ∧ q.seq = v.aseq ∧ q.home = .shard p d ∧ q.kind = kind ∧ q.state = .sent ∧
      q.replay = false ∧ u.me.aseq = v.aseq + 1 ∧ (∀ r, u.me.xr r = v.xr r) ∧ u.mem = s.mem ∧ u.pools = s.pools ∧ after u
    let retired := fun (u : State) => u.me.pc = v.pc + 4 ∧ u.me.wait = v.wait
    ((v.kr kp).img = t → (v.kr kp).locked = false → t.kind = 5 → t.rights.getLsbD 2 = true → s.poolOf t = none →
      Runs (.pins kp rs1 rs2) s (s.fault i { cause := 0x64, tindex := t.index, tgen := t.gen })) ∧
    (∀ e at_, (v.kr kp).img = t → (v.kr kp).locked = false → t.kind = 5 → t.rights.getLsbD 2 = true → s.poolOf t = some p →
      s.walk t.ctx t.base.toNat = .leaf e at_ → ptePeer e = 0x3FF →
      (let pa := pteAddr e + t.base.toNat % leafBytes (pteSize e)
       s.hbm.liveCap.toNat ≤ pa ∧ pa < hbmEnd) →
      ∀ ins ∈ [Instr.pins kp rs1 rs2, .pinsK kp rs1 kv, .ptakeM kp rs1],
        Runs ins s (s.fault i { cause := 0x3B, tindex := t.index, tgen := t.gen })) ∧
    (s.poolCheck kp = .ok (p, t) →
      (key = BitVec.allOnes 64 → Runs (.pins kp rs1 rs2) s (s.fault i { cause := 0x66 }) ∧
        Runs (.pinsK kp rs1 kv) s (s.fault i { cause := 0x66 })) ∧
      (key ≠ BitVec.allOnes 64 → s.placeFree i = false → Runs (.pins kp rs1 rs2) s s) ∧
      (key ≠ BitVec.allOnes 64 → s.placeFree i = true →
        sent (.pins kp rs1 rs2) (.insert p key (v.xr rs2) none) (fun u => retired u ∧ u.me.k = v.k)) ∧
      (∀ x, (v.kr kv).img = x → (v.kr kv).locked = false → x.kind = 1 ∨ x.kind = 3 → x.rights.getLsbD 1 = true → (s.tte x).carved = 0 →
        (s.tte x).shares = 0 → s.openUnder i x = false → s.placeFree i = true → s.busyUnder i x = false → x.loc.toNat < 2 →
        key ≠ BitVec.allOnes 64 →
        sent (.pinsK kp rs1 kv) (.insert p key 0 (some x)) (fun u => retired u ∧ u.me.kr kv = {} ∧ (u.tte x).state = 5 ∧
          ∀ q, q ≠ kv → u.me.kr q = v.kr q)) ∧
      (∀ x s', (v.kr kv).img = x → (v.kr kv).locked = false → x.kind = 1 ∨ x.kind = 3 → x.rights.getLsbD 1 = true → (s.tte x).carved = 0 →
        (s.tte x).shares = 0 → s.openUnder i x = false → s.placeFree i = true → s.busyUnder i x = false → 2 ≤ x.loc.toNat →
        key ≠ BitVec.allOnes 64 → s.scanWB (clusterOf i.tile) x.ctx x.index = .ok s' →
        ∃ u q, Runs (.pinsK kp rs1 kv) s u ∧ u.reqs = s'.reqs ++ [q] ∧ q.home = .shard p d ∧ q.src = i ∧ q.seq = v.aseq ∧
          q.kind = .insert p key 0 (some { x with gen := (s.tte x).gen + 1 }) ∧ retired u ∧ u.me.kr kv = {} ∧ (u.tte x).state = 5 ∧
          (u.tte x).gen = (s.tte x).gen + 1 ∧ u.mem = s'.mem) ∧
      (key.toNat % 8 = 0 → i.slot.toNat * 0x2000 ≤ key.toNat → key.toNat + 32 ≤ (i.slot.toNat + 1) * 0x2000 →
        (v.kr kv).img.kind = 0 → (v.kr kv).locked = false → s.placeFree i = true →
        sent (.ptakeNb kv kp rs1) (.take p key kv) (fun u => u.me.wait = some (.reply s.nextId) ∧ u.me.pc = v.pc ∧ u.me.k = v.k)) ∧
      (64 ≤ key.toNat → Runs (.ptakeM kp rs1) s (s.fault i { cause := 0x58, info := chanInfo (key.setWidth 6) i.tile })) ∧
      (key.toNat < 64 → (∃ e ∈ (s.tile i.tile).entries, e.2.valid = true ∧ e.2.ctx = v.ctx ∧ (e.1 = key.toNat ∨ e.2.sec = some (key.setWidth 6))) →
        s.placeFree i = true → s.outGranted i = true →
        ∃ b, (find {} ((s.tile i.tile).outbox) b = ({} : OutBuf) ∨ 128 ≤ (s.tile i.tile).outbox.length) ∧
          sent (.ptakeM kp rs1) (.takeM p (key.setWidth 6) b) (fun u => retired u ∧ (find {} (u.tile i.tile).outbox b).forJob = true)) ∧
      (t.kind = 5 → cfgOk key = true → Runs (.pcfg kp rs1) s (s.modPool p (fun q => { q with next := key })).retire) ∧
      (t.kind = 5 → cfgOk key = false → Runs (.pcfg kp rs1) s (s.fault i { cause := 0x65 })) ∧
      (t.kind = 4 → Runs (.pcfg kp rs1) s (s.fault i { cause := 0x11, tindex := t.index, tgen := t.gen })) ∧
      (s.placeFree i = true → s.poolBefore i p s.nextId = false →
        let h := s.shard p d
        let gives := fun (n : BitVec 3) (w : Word) => Runs (.pstat rd kp n) s (s.retireX rd w)
        gives 0 (cfgWord (s.pool p).next p) ∧ gives 1 (BitVec.ofNat 64 h.round) ∧ gives 2 (BitVec.ofNat 64 (s.pool p).lastTotal) ∧
        gives 3 (match h.t with | some x => x.1 | none => BitVec.allOnes 64) ∧ gives 4 (BitVec.ofNat 64 h.elems.length) ∧
        gives 5 (BitVec.ofNat 64 (h.elems.filter Elem.overdue).length) ∧ gives 6 (BitVec.ofNat 64 h.blind) ∧
        gives 7 (BitVec.ofNat 64 (h.elems.filter Elem.spilled).length))) ∧
    ((v.kr kp).img = t → (v.kr kp).locked = false → t.kind = 1 → t.rights = 0b11010 → t.loc = 2 → (s.tte t).shares = 0 → (s.tte t).carved = 0 →
      t.len.toNat % 8 = 0 → cfgOk key = true → s.poolsOf t.ctx < (s.ctx t.ctx).poolGrant → s.freePool = some p →
      s.titleProbe i t 0 .write = .ok () → s.poolWorld t = .ok () → s.busyUnder i t = false →
      ∀ s', s.scanWB (clusterOf i.tile) t.ctx t.index = .ok s' →
      ∃ u, Runs (.pcfg kp rs1) s u ∧ (u.pool p).configured = true ∧ (u.pool p).ctx = t.ctx ∧ (u.pool p).word = key ∧
        (∀ e, (u.shard p e).elems = [] ∧ (u.shard p e).round = 0 ∧ (u.shard p e).t = none) ∧
        u.me.kr kp = { img := { t with kind := 5, rights := 0b00110 } } ∧ (u.tte t).kind = 5 ∧ (u.tte t).rights = 0b00110 ∧
        (∀ q, q ≠ p → u.pool q = s.pool q)) ∧
    ((s.ctxOf i).func ≠ 0 → Runs (.pdrain rd rs1) s (s.fault i { cause := 0x01 })) ∧
    ((s.ctxOf i).func = 0 → (s.pool (key.setWidth 6)).configured = false → Runs (.pdrain rd rs1) s (s.retireX rd 0)) ∧
    ((s.ctxOf i).func = 0 → (s.pool (key.setWidth 6)).configured = true →
      ∃ u, Runs (.pdrain rd rs1) s u ∧ (u.pool (key.setWidth 6)).configured = false ∧ (rd ≠ 0 → u.me.xr rd =
        BitVec.ofNat 64 (((dies.flatMap (fun e => (s.shard (key.setWidth 6) e).elems)).length +
          ((s.pool (key.setWidth 6)).moving.flatMap Transfer.elems).length) +
          (dies.flatMap (fun e => (s.shard (key.setWidth 6) e).held)).length)))

/-- R310, R311, R315 to R317, R321, R322, R324, R326, R327, R330: requests at the local shard of the pool they were issued to. An insert that the
replay filter knows is acknowledged, and not performed again. One that R316 does not hold is performed: one element with its
key, value and title and the round's next stamp, acknowledged; a blind one beyond β, or one past the round's stamps, is held; so is one between
cut and adoption. At its quota the shard first spills, the largest element, with a write of its record by the pool engine's own walk, and the
insert waits where that must; with shard and backing full it is refused, offered again after 256 cycles, discarded with 0x66 after 2,000,000. A take
receives an overdue element, oldest first, else the least servable one, and that element leaves the shard; with nothing to return it queues to
steal, or answers EMPTY or RETRY, and PTAKE.M parks. A take resent after its
answer is answered with the same record. A victim gives half of what it could serve, what is spilled of it once that is back. In the last round
2^48 - 1 an insert is refused with 0x65; a request issued to a pool drained since raises 0x64. That 0x65 is deferred here and precise at a
PTAKE.NB, what EMPTY needs, and the take resent after its answer are the model's readings (log 59, DEDUCED), as are the pool engine's own
accesses (log 71, DEDUCED) and the slot they work for (log 70, DESIGN CHOICE).

R313, R314, R316, R318, R320, R322, R328: the turn of a pool. A due turn reaches every shard; a shard without transfers is READY, and the eighth
READY brings the cut, from which the next configuration word applies; at its cut point a shard flags the elements older than PAGEMAX and
reports its count and its α least pairs to every shard; with eight reports it begins the next round with T the α-th least of all the pairs, and
counts of 0; one above its quota spills down before that. Elements that rebalancing moves arrive at their shard; below three quarters of the quota
spilled elements come back, the one a take waits for and then the least: each by a read of its record, or lost with 0x66 where that is
uncorrectable, and none while the engine awaits the answer of a retry record. The round that ages are taken in at a cut is log 11, what comes
back when is log 59 and the engine's own access log 71, all DEDUCED. -/
def Obligations.PoolsServe : Prop :=
  (∀ (s : State) (id : Nat) (r : Req) (p : BitVec 6), s.req? id = some r → (s.pool p).configured = true →
    let i := r.src
    let d := dieOf i.tile
    let q := s.pool p
    let h := s.shard p d
    let under := h.round < 2 ^ 48 - 1
    let has := fun (u : State) (f : Req → Prop) => ∃ x, u.req? id = some x ∧ f x
    let lives := r.serial = q.serial
    (∀ e, h.pick = some e → e ∈ h.elems ∧
      (if h.elems.any Elem.overdue then e.overdue = true ∧ ∀ x ∈ h.elems, x.overdue = true → e.stamp.toNat ≤ x.stamp.toNat
       else h.servable e = true ∧ ∀ x ∈ h.elems, h.servable x = true → e.pair ≤ x.pair)) ∧
    (h.pick = none ↔ ∀ x ∈ h.elems, x.overdue = false ∧ h.servable x = false) ∧
    (∀ key value title, r.kind = .insert p key value title → r.state = .sent → s.poolBefore i p id = false →
      (s.home (.shard p d)).stored (SlotId_num i) r.seq ≠ none →
      ∃ u, Runs (.poolInsertArrive id) s u ∧ has u (fun x => x.state = .replied 0 .none) ∧ { u with reqs := s.reqs } = s) ∧
    (∀ key value title, r.kind = .insert p key value title → r.state = .sent → s.poolBefore i p id = false → r.replay = false → lives →
      (s.home (.shard p d)).stored (SlotId_num i) r.seq = none → h.parked = [] → under →
      let full := q.quota ≤ h.onChip ∧ q.backing ≤ h.spilledCount
      let blind := h.blindKey key = true
      let later := (blind ∧ cfgBeta q.word ≤ h.blind) ∨ 8191 ≤ h.inserts
      let e : Elem := { key := key, value := value, title := title, stamp := BitVec.ofNat 64 (h.round * 65536 + d.toNat * 8192 + h.inserts) }
      (full → ∃ u, Runs (.poolInsertArrive id) s u ∧ has u (fun x => x.state = .notParked ∧ x.sinceOffer = 0) ∧ { u with reqs := s.reqs } = s) ∧
      let room := (s.modShard p d (fun h => { h with sinceCut := true })).makeRoom p d i 1
      (h.onChip < q.quota → room.2.shard p d = { h with sinceCut := true }) ∧ (h.onChip < q.quota → room.1 = true) ∧
      (¬full → h.phase ≠ .cut → ¬later → room.1 = false → Runs (.poolInsertArrive id) s room.2) ∧
      (¬full → h.phase ≠ .cut → ¬later → room.1 = true →
        ∃ u, Runs (.poolInsertArrive id) s u ∧ has u (fun x => x.state = .replied 0 .none) ∧
          (u.shard p d).elems = (room.2.shard p d).elems ++ [e] ∧
          (u.shard p d).inserts = h.inserts + 1 ∧ ((u.shard p d).blind = h.blind + 1 ↔ blind) ∧ (u.shard p d).sinceCut = true) ∧
      (¬full → h.phase ≠ .cut ∧ later ∨ h.phase = .cut →
        ∃ u, Runs (.poolInsertArrive id) s u ∧ has u (fun x => x.state = .parked) ∧ (u.shard p d).elems = h.elems ∧
          (u.shard p d).held = h.held ++ [{ id := id, key := key, value := value, title := title, afterCut := decide (h.phase = .cut) }])) ∧
    (∀ e n k pa s1, s.poolAccess q d (q.recordAddr d n) true = .ok (k, pa, s1) → k % 64 ≤ 32 → s1.hbmPoison (k / 64 * 64) 64 = false → s1.MemOk →
      ∃ u, s.spillOne p d e n = .ok u ∧ u.hbmRead q.title.domain k 24 = wordsBytes [e.key, e.value, e.stamp] ∧
        (u.shard p d).elems = h.elems.map (fun x => if x.stamp = e.stamp then { x with place := some n } else x) ∧
        (∀ c, ¬(k / 64 * 64 ≤ c ∧ c < k / 64 * 64 + 64) → u.byte c = s1.byte c)) ∧
    (∀ key value, r.kind = .insert p key value none → r.state = .sent → s.poolBefore i p id = false → r.replay = false →
      (s.home (.shard p d)).stored (SlotId_num i) r.seq = none →
      (lives → ¬under →
        ∃ rec : FaultRec, rec.ctx = r.ctx ∧ rec.cause = 0x65 ∧ Runs (.poolInsertArrive id) s ((s.dropReq id).pushFunc rec)) ∧
      (¬lives →
        ∃ rec : FaultRec, rec.ctx = r.ctx ∧ rec.cause = 0x64 ∧ Runs (.poolInsertArrive id) s ((s.dropReq id).pushFunc rec))) ∧
    (∀ key value, r.kind = .insert p key value none → r.state = .notParked →
      (256 ≤ r.sinceOffer → ∃ u, Runs (.poolInsertReoffer id) s u ∧ has u (fun x => x.state = .sent) ∧ { u with reqs := s.reqs } = s) ∧
      (2000000 ≤ r.sinceRefusal → ∃ rec : FaultRec, rec.ctx = r.ctx ∧ rec.cause = 0x66 ∧
        Runs (.poolInsertDiscard id) s ((s.dropReq id).pushFunc rec))) ∧
    (∀ a kd, r.kind = .take p a kd → r.state = .sent → s.poolBefore i p id = false → r.record ≠ [] →
      ∃ u, Runs (.poolTakeArrive id) s u ∧ has u (fun x => x.state = .replied 0 .none ∧ x.record = r.record) ∧ { u with reqs := s.reqs } = s) ∧
    (∀ a kd, r.kind = .take p a kd → r.state = .sent → s.poolBefore i p id = false → r.record = [] → ¬lives →
      (s.slot i).wait = some (.reply id) →
      Runs (.poolTakeArrive id) s (((s.dropReq id).modSlot i (fun v => { v with wait := none })).fault i { cause := 0x64 })) ∧
    (∀ a kd, r.kind = .take p a kd → r.state = .sent → s.poolBefore i p id = false → r.record = [] → lives → under → h.phase = .normal → h.parked = [] →
      (∀ t ∈ q.moving, t.for_ ≠ some id) →
      (∀ e, h.pick = some e → e.place ≠ none → Runs (.poolTakeArrive id) s s) ∧
      (∀ e, h.pick = some e → e.place = none →
        ∃ u, Runs (.poolTakeArrive id) s u ∧ (u.shard p d).elems = h.elems.filter (fun x => x != e) ∧
          has u (fun x => x.state = .replied 0 .none ∧ x.gotTitle = e.title ∧ ∃ w : Word, x.record = [w, e.key, if e.title.isSome then 0 else e.value, e.stamp] ∧
            w.extractLsb' 0 2 = 0 ∧ w.getLsbD 4 = e.overdue ∧ w.getLsbD 5 = e.title.isSome ∧ (h.round < 2 ^ 48 → (w.extractLsb' 16 48).toNat = h.round ∧
            (w.extractLsb' 8 8).toNat = Nat.min 255 (h.round - e.stamp.toNat / 65536)))) ∧
      (h.pick = none → (nextVictim h d r.asked).isSome = true → id ∉ h.queue →
        ∃ u, Runs (.poolTakeArrive id) s u ∧ (u.shard p d).queue = h.queue ++ [id] ∧ u.reqs = s.reqs) ∧
      (h.pick = none → nextVictim h d r.asked = none →
        ∃ u, Runs (.poolTakeArrive id) s u ∧ has u (fun x => x.state = .replied 0 .none ∧ x.record =
          [BitVec.ofNat 64 (h.round * 65536 + (if s.seesEmpty r p d then 1 else 2)), 0, 0, 0]) ∧ (u.shard p d).elems = h.elems)) ∧
    (∀ c b, r.kind = .takeM p c b → r.state = .sent → s.poolBefore i p id = false → r.record = [] → lives → under → h.phase = .normal → h.parked = [] →
      h.pick = none → nextVictim h d r.asked = none → (∀ t ∈ q.moving, t.for_ ≠ some id) →
      ∃ u, Runs (.poolTakeArrive id) s u ∧ (u.shard p d).parked = [id] ∧ has u (fun x => x.state = .parked)) ∧
    (∀ victim, r.poolNo = some p → id ∈ h.queue → h.phase = .normal → (s.shard p victim).phase = .normal → nextVictim h d r.asked = some victim →
      (∀ x ∈ q.moving, x.for_ ≠ some id) →
      let gives := fun (v : Shard) =>
        let late := v.elems.filter Elem.overdue
        let serv := v.elems.filter (fun e => !e.overdue && v.servable e)
        let n := Nat.min 32 ((late.length + serv.length + 1) / 2)
        oldest n late ++ largest (n - late.length) serv
      let back := s.refillAll p victim i [] 0 ((gives (s.shard p victim)).filter (fun e => e.place.isSome))
      let v := back.2.shard p victim
      let batch := (gives v).filter (fun e => e.place.isNone)
      ((∀ e ∈ gives (s.shard p victim), e.place = none) → back = (true, s)) ∧
      (back.1 = false → Runs (.stealRequest id victim) s back.2) ∧
      (back.1 = true → ∃ u, Runs (.stealRequest id victim) s u ∧ has u (fun x => x.asked = r.asked ++ [victim]) ∧
        (batch = [] → u.pools = back.2.pools) ∧
        (batch ≠ [] → (u.pool p).moving = q.moving ++ [{ src := victim, dst := d, elems := batch, for_ := some id }] ∧
          (u.shard p victim).elems = v.elems.filter (fun e => !batch.contains e)))) ∧
    (∀ t, s.batchPool id = some p → q.moving.find? (fun x => x.for_ == some id) = some t → (s.shard p t.dst).phase ≠ .normal →
      (s.shard p t.dst).onChip + t.elems.length ≤ q.quota →
      ∃ u, Runs (.stealBatch id) s u ∧ (u.shard p t.dst).elems = (s.shard p t.dst).elems ++ t.elems ∧
        (u.pool p).moving = removeFirst (fun x => x.for_ == some id) q.moving)) ∧
  (∀ (s : State) (p : BitVec 6) (d : BitVec 3),
    let q := s.pool p
    let h := s.shard p d
    let alpha := cfgAlpha q.word
    (q.turnDue = true → ∃ u, Runs (.poolTurn p) s u ∧ (u.pool p).turning = true ∧ (∀ e, u.shard p e = { s.shard p e with phase := .turned }) ∧
      { u with pools := s.pools } = s) ∧
    (q.turnDue = false → Runs (.poolTurn p) s s) ∧
    (h.phase = .turned → (∀ t ∈ q.moving, t.src ≠ d ∧ t.dst ≠ d) →
      ∃ u, Runs (.poolReady p d) s u ∧ u.shard p d = { h with phase := .ready } ∧ (∀ e, e ≠ d → u.shard p e = s.shard p e) ∧
        ((∀ e, e ≠ d → (s.shard p e).phase = .ready) → (u.pool p).word = q.next ∧ (u.pool p).sinceCut = 0) ∧
        ((∃ e, e ≠ d ∧ (s.shard p e).phase ≠ .ready) → (u.pool p).word = q.word ∧ (u.pool p).sinceCut = q.sinceCut)) ∧
    (h.phase = .ready → (∀ e, (s.shard p e).phase = .ready ∨ (s.shard p e).phase = .cut) → h.held = [] →
      let es := h.elems.map (fun e => if cfgPagemax q.word < h.round - e.stamp.toNat / 65536 then { e with overdue := true } else e)
      let rep := (d, es.length, (smallest alpha es).map (fun e => (e.key, e.stamp)))
      ∃ u, Runs (.poolCut p d) s u ∧ (u.shard p d).phase = .cut ∧ (u.shard p d).elems = es ∧ (u.shard p d).sinceCut = false ∧
        (∀ e, (u.shard p e).reports = (s.shard p e).reports ++ [rep]) ∧ (∀ e, e ≠ d → (u.shard p e).phase = (s.shard p e).phase)) ∧
    (h.phase = .cut → 8 ≤ h.reports.length → h.held = [] → h.parked = [] → h.onChip ≤ q.quota →
      ∃ u, Runs (.poolReport p d) s u ∧ (u.shard p d).phase = .normal ∧ (u.shard p d).round = h.round + 1 ∧
        (u.shard p d).t = thresholdOf alpha (h.reports.flatMap (fun r => r.2.2)) ∧ (u.shard p d).blind = 0 ∧ (u.shard p d).inserts = 0 ∧
        (u.shard p d).reports = [] ∧ (u.pool p).lastTotal = (h.reports.map (fun r => r.2.1)).sum ∧
        ((∃ e, e ≠ d ∧ (s.shard p e).phase ≠ .normal) → (u.shard p d).elems = h.elems ∧ (u.pool p).turning = q.turning) ∧
        ((∀ e, e ≠ d → (s.shard p e).phase = .normal) → (u.pool p).turning = false)) ∧
    (∀ pairs : List (Word × Word), (pairs.map (fun x => pairOf x.1 x.2)).Nodup → 0 < alpha →
      (pairs.length < alpha → thresholdOf alpha pairs = none) ∧
      (alpha ≤ pairs.length → ∃ m ∈ pairs, thresholdOf alpha pairs = some m ∧
        (pairs.filter (fun x => decide (pairOf x.1 x.2 ≤ pairOf m.1 m.2))).length = alpha)) ∧
    (∀ n t, q.moving[n]? = some t → t.for_ = none → (s.shard p t.dst).parked = [] → (s.shard p t.dst).onChip + t.elems.length ≤ q.quota →
      ∃ u, Runs (.rebalanceTransfer p n) s u ∧ (u.pool p).moving = q.moving.eraseIdx n ∧
        (u.shard p t.dst).elems = (s.shard p t.dst).elems ++ t.elems) ∧
    (q.configured = true → h.onChip < q.quota → h.parked = [] →
      let due := h.pick.toList.filter (fun e => e.place.isSome)
      let least := smallest (q.quota - 1 - h.onChip - due.length) (h.elems.filter (fun e => e.place.isSome && !due.contains e))
      let back := due ++ (if h.onChip < 3 * q.quota / 4 then least else [])
      ∀ lost : List Nat,
      (h.paused ≠ none → Runs (.refillComplete p d lost) s s) ∧
      (h.paused = none → back = [] → Runs (.refillComplete p d lost) s s) ∧
      (∀ e n k pa s1, h.paused = none → back = [e] → e.place = some n → s.poolAccess q d (q.recordAddr d n) false = .ok (k, pa, s1) →
        ∃ u, Runs (.refillComplete p d lost) s u ∧ u.mem = s1.mem ∧
          (s1.hbmPoison k 32 = false ∧ 0 ∉ lost →
            (u.shard p d).elems = h.elems.map (fun x => if x.stamp = e.stamp then { x with place := none } else x)) ∧
          (s1.hbmPoison k 32 = true ∨ 0 ∈ lost → (u.shard p d).elems = h.elems.filter (fun x => x.stamp != e.stamp) ∧
            ∃ rec : FaultRec, rec.cause = 0x66 ∧ rec.ctx = q.ctx ∧ rec ∈ (u.func (u.ctx q.ctx).func).queue)) ∧
      (∀ e es, h.paused = none → back = e :: es → Runs (.refillComplete p d lost) s ((s.refillAll p d (dieSlot d) lost 0 back).2.serveParked p d 1024))))

/-! ### The vector and the matrix unit (chapters 19 and 21) -/

/-- R118, R252, R256, R258, R259, R261, R262, R278: every vector instruction. One whose vw0 R258 does not allow raises 0x05. One whose vw0, slab regions, vin and
list pass their checks (o? is the list it opens with the records it reads, u the state with the list's traces) is presented to the unit, and waits while
its core presents or is granted another; at its turn it occupies the unit with the views, the mask, the rounding state, the list and the operands of its
issue, vin is popped, its rd awaits the result, and the slot goes on. VOUTL's records are those of its list from x(rs1)[31:0] on, 32 at most. That an
instruction is presented and granted before it issues, and that mask, list header and records are taken at issue, is the model's reading
(log 21, DEDUCED). -/
def Obligations.VectorInstructionsIssue : Prop :=
  ∀ (s : State) (p : VMode) (vd a b : VReg) (rd r : XReg) (op : RedOp) (c : BitVec 4) (tag : BitVec 7) (ins : Instr), s.Ready [r] →
    ins ∈ [Instr.vfadd p vd a b, .vfsub p vd a b, .vfmul p vd a b, .vfma p vd a b, .vfms p vd a b, .vfmax p vd a b, .vfmin p vd a b,
      .vfabs p vd a, .vfneg p vd a, .vfrcp p vd a, .vfrsq p vd a, .vfexp2 p vd a, .vflog2 p vd a, .vfsig p vd a, .vfgelu p vd a,
      .viadd p vd a b, .visub p vd a b, .vimul p vd a b, .vimax p vd a b, .vimin p vd a b, .vand p vd a b, .vor p vd a b, .vxor p vd a b,
      .vshl p vd a b, .vshr p vd a b, .vcmp p vd a b, .vsel vd a b, .vredf p rd a op, .vredi p rd a op, .vscan p vd a op, .vperm vd a b,
      .vbcast vd a r, .vslide vd a r, .vzip vd a b, .vunz vd a b, .vdot p rd a b, .vmovx rd a r, .vsetm vd a c, .vfclass p vd a,
      .vsplat p vd r, .voutl vd r, .vcvt tag p vd a] →
    let i := s.cur
    let v := s.me
    let vw := v.vw[0]
    (fmtOf vw.fmt = none → Runs ins s (s.fault i { cause := 0x05 })) ∧
    (∀ f h, fmtOf vw.fmt = some f → vshape f ins = some h → h.viewOk f vw = false → Runs ins s (s.fault i { cause := 0x05 })) ∧
    (∀ f h rs ws msg o? recs u, fmtOf vw.fmt = some f → vshape f ins = some h → h.viewOk f vw = true → s.vregions i h f vw = .ok (rs, ws) →
      (if h.srcs.contains 31 then s.vinTake i = .ok msg else msg = []) → (s.tile i.tile).edgeFree i.core rs ws s.nextId = true →
      s.vlist i ins h vw = .ok ((o?, recs), u) →
      let y := (u.tile i.tile).vxu
      let busy := (∃ x ∈ y.presented, x.1 = i.core) ∨ ∃ x, y.granted = some x ∧ x.1 = i.core
      (y.granted ≠ some (i.core, i.slot) → busy → Runs ins s u) ∧
      (y.granted ≠ some (i.core, i.slot) → ¬busy →
        Runs ins s (u.modTile i.tile (fun z => { z with vxu := { z.vxu with presented := y.presented ++ [(i.core, i.slot)] } }))) ∧
      (y.granted = some (i.core, i.slot) →
        let w := if h.srcs.contains 31 then u.vinPop i else u
        ∃ t o, Runs ins s t ∧ (t.tile i.tile).vxu = { y with granted := none, running := some o, lastCore := i.core } ∧ o.insn = ins ∧ o.core = i.core ∧
          o.slot = i.slot ∧ o.ctx = v.ctx ∧ o.vw = v.vw ∧ o.lfsr = v.lfsr ∧ (o.slabBase, o.slabLen) = w.slabOf i ∧
          o.vinBytes = (if h.srcs.contains 31 then some msg else none) ∧ o.list = o? ∧ o.recs = recs ∧
          o.mask = (if h.readsMask then w.bytes (slabKey i.tile (o.slabBase + vw.base)) 256 else []) ∧
          o.sx = (if vreads ins = [] then 0 else v.xr r) ∧ o.ord = w.nextId ∧
          (∃ g, (t.tile i.tile).flight = (w.tile i.tile).flight ++ [g] ∧ g.ord = o.ord ∧ g.core = i.core ∧ g.slot = i.slot ∧ g.vm = true ∧
            g.consumed = false) ∧
          t.me.pc = v.pc + 4 ∧ t.me.instret = v.instret + 1 ∧ (∀ q, t.me.xr q = v.xr q) ∧ t.me.k = v.k ∧ t.me.vw = v.vw ∧
          t.me.lfsr = lfsrSteps (if h.conv && vw.rnd == 1 then h.group * h.fd.lanes else 0) v.lfsr ∧
          (∀ q : XReg, t.me.due[q.toNat] = if vrd ins = some q ∧ q ≠ 0 then some o.ord else v.due[q.toNat]) ∧
          (∀ j, j ≠ i → t.slot j = s.slot j))) ∧
    (∀ h l recs u, s.vlist i (.voutl vd r) h vw = .ok ((some l, recs), u) → l.title.loc.toNat < 2 →
      let from_ := (v.xr r).toNat % 2 ^ 32
      recs.length = min 32 (l.count - from_) ∧
      ∀ n e, recs[n]? = some e →
        e.1.toNat = leNat (s.bytes (l.place (16 + 8 * (from_ + n))) 4) ∧ e.2.toNat = leNat (s.bytes (l.place (20 + 8 * (from_ + n))) 4))

/-- R257, R260, R263, R265 to R267, R269, R272, R277: VECTOR_COMPLETE of an operation on unscaled 32-bit lanes with nearest-even rounding writes the 64 lanes of its
destination: the operation's result on a lane that the mask of its issue makes active, the old lane or zero on an inactive one by the mode, and no other byte of memory changes. The other formats, roundings, scales and instructions follow in the clauses below.

R261, R262, R274, R275: VECTOR_START on an idle unit takes up the presented instruction of the core that did not start the last one, else the first
presented; a unit that runs, that has taken one up or that nothing is presented to stays: that it grants before the instruction issues is log 21 (DEDUCED). An x result of VMOVX or VREDI on i32 lanes reaches rd where it is still due.

R152, R157 to R166, R263 to R272, R276 to R278: VECTOR_COMPLETE of an operation on lanes of any format, under any rounding, overflow policy and scales, from views or
vin. A converting instruction delivers the exact value of each active lane by one rounding, with the scale byte that R159 chooses for
its block, the overflows by their policy: recorded in its list (here in SRAM) while that has room, else saturated; the others write lane
codes. The function instructions deliver the function of R264, with its table of special values; between these their value is the model's
evaluation to 640 bits (log 61, UNVERIFIED). No byte changes but those of the destination, its scale bytes and the list.

R170, R273 to R276: what VREDF, VDOT, VREDI and VMOVX write to rd on lanes of any format and scales, from a view or vin: the tree of R170 with each node
rounded once to binary32, its first level fused for VDOT; the exact sum, maximum or minimum, saturated once; the lane that x(rs2) chooses. An
inactive lane contributes the identity of the operation. -/
def Obligations.VectorUnitResults : Prop :=
  (∀ (s : State) (t : BitVec 10) (o : UnitOp) (p : VMode) (d a b : VReg) (x : XReg),
    (s.tile t).vxu.running = some o → o.list = none → o.mask.length = 256 → s.late = [] → s.MemOk → d ≠ 31 → a ≠ 31 → b ≠ 31 →
    let vw := o.vw[0]
    vw.scaled = false → vw.rnd = 0 →
    let place := fun (n : VReg) (i : Nat) => slabKey t (o.slabBase + (vw.base + 256 * vw.stride * n.toNat)) + i
    let lane := fun (u : State) (n : VReg) (i : Nat) => BitVec.ofNat 32 (leNat (u.bytes (place n (4 * i)) 4))
    let num := fun (n : VReg) (i : Nat) => fmtF.value (lane s n i).toNat
    let int := fun (n : VReg) (i : Nat) => (lane s n i).toInt
    let f32 := fun (y : Machine.Num) => BitVec.ofNat 32 (toF32 y)
    let i32 := fun (y : Int) => BitVec.ofInt 32 (max (-(2 ^ 31)) (min (2 ^ 31 - 1) y))
    let bit := fun (i : Nat) => (o.mask.getD (i / 8) 0).getLsbD (i % 8)
    let on := fun (i : Nat) => p = .all ∨ ((p = .m1 ∨ p = .m1z) ∧ bit i = true) ∨ ((p = .m0 ∨ p = .m0z) ∧ bit i = false)
    let ends := fun (ins : Instr) (written : State → Prop) => o.insn = ins →
      ∃ u, Runs (.vectorComplete t) s u ∧ written u ∧ (∀ k, ¬(place d 0 ≤ k ∧ k < place d 256) → u.byte k = s.byte k) ∧ u.slots = s.slots ∧
        (u.tile t).vxu.running = none ∧ (u.tile t).flight = (s.tile t).flight.filter (fun f => f.ord != o.ord)
    let lanes := fun (ins : Instr) (g : Nat → BitVec 32) => ends ins (fun u => ∀ i, i < 64 → (on i → lane u d i = g i) ∧
      (¬on i → lane u d i = if p = .m1 ∨ p = .m0 then lane s d i else 0))
    let every := fun (ins : Instr) (g : Nat → BitVec 32) => ends ins (fun u => ∀ i, i < 64 → lane u d i = g i)
    (vw.fmt = 0 →
      lanes (.vfadd p d a b) (fun i => f32 ((num a i).add (num b i))) ∧ lanes (.vfsub p d a b) (fun i => f32 ((num a i).sub (num b i))) ∧
      lanes (.vfmul p d a b) (fun i => f32 ((num a i).mul (num b i))) ∧
      lanes (.vfma p d a b) (fun i => f32 (((num a i).mul (num b i)).add (num d i))) ∧
      lanes (.vfms p d a b) (fun i => f32 (((num a i).mul (num b i)).sub (num d i))) ∧
      lanes (.vfabs p d a) (fun i => f32 (num a i).abs) ∧ lanes (.vfneg p d a) (fun i => f32 (num a i).neg) ∧
      lanes (.vcmp p d a b) (fun i => if (num a i).isNaN ∨ (num b i).isNaN then 8 else if (num a i).lt (num b i) then 1
        else if (num b i).lt (num a i) then 4 else 2) ∧
      lanes (.vsplat p d x) (fun _ => f32 (fmtF.value (o.sx.toNat % 2 ^ 32)))) ∧
    (vw.fmt = 5 →
      lanes (.viadd p d a b) (fun i => i32 (int a i + int b i)) ∧ lanes (.visub p d a b) (fun i => i32 (int a i - int b i)) ∧
      lanes (.vimul p d a b) (fun i => i32 (int a i * int b i)) ∧ lanes (.vimax p d a b) (fun i => BitVec.ofInt 32 (max (int a i) (int b i))) ∧
      lanes (.vimin p d a b) (fun i => BitVec.ofInt 32 (min (int a i) (int b i))) ∧
      lanes (.vshl p d a b) (fun i => lane s a i <<< ((lane s b i).toNat % 32)) ∧
      lanes (.vshr p d a b) (fun i => (lane s a i).sshiftRight ((lane s b i).toNat % 32)) ∧
      lanes (.vsplat p d x) (fun _ => i32 o.sx.toInt)) ∧
    (vw.fmt = 0 ∨ vw.fmt = 5 →
      lanes (.vand p d a b) (fun i => lane s a i &&& lane s b i) ∧ lanes (.vor p d a b) (fun i => lane s a i ||| lane s b i) ∧
      lanes (.vxor p d a b) (fun i => lane s a i ^^^ lane s b i) ∧
      every (.vsel d a b) (fun i => if bit i then lane s a i else lane s b i) ∧
      every (.vbcast d a x) (fun _ => lane s a (o.sx.toNat % 64)) ∧
      every (.vslide d a x) (fun i => if 0 ≤ (i : Int) + o.sx.toInt ∧ (i : Int) + o.sx.toInt < 64 then lane s a ((i : Int) + o.sx.toInt).toNat else 0) ∧
      ends (.vperm d a b) (fun u => ∀ i, i < 256 → u.byte (place d i) = s.byte (place a (s.byte (place b i)).toNat)))) ∧
  (∀ (s : State) (t : BitVec 10) (o : UnitOp) (rd x : XReg) (a : VReg),
    let u := (s.tile t).vxu
    let other := u.presented.find? (fun y => y.1 != u.lastCore)
    let first := if other.isSome then other else u.presented.head?
    let starts := fun (y : Bool × BitVec 2) => ∃ w, Runs (.vectorStart t) s w ∧
      (w.tile t).vxu = { u with granted := some y, presented := u.presented.filter (fun z => z != y) } ∧ { w with tiles := s.tiles } = s
    (u.running.isSome = true → Runs (.vectorStart t) s s) ∧
    (u.granted.isSome = true → Runs (.vectorStart t) s s) ∧
    (u.running = none → u.presented = [] → Runs (.vectorStart t) s s) ∧
    (∀ y, u.running = none → u.granted = none → first = some y → starts y) ∧
    (u.running = some o → o.list = none → s.late = [] → a ≠ 31 → o.vw[0].fmt = 5 → o.vw[0].scaled = false → o.rd = rd → rd ≠ 0 →
      let i : SlotId := ⟨t, o.core, o.slot⟩
      (s.slot i).due[rd.toNat] = some o.ord →
      let lane := fun (n : Nat) => (BitVec.ofNat 32 (leNat (s.bytes
        (slabKey t (o.slabBase + (o.vw[0].base + 256 * o.vw[0].stride * a.toNat)) + 4 * n) 4))).toInt
      let sum := ((List.range 64).map lane).sum
      let gives := fun (ins : Instr) (v : Int) => o.insn = ins → ∃ w, Runs (.vectorComplete t) s w ∧ (w.slot i).xr rd = BitVec.ofInt 64 v ∧
        (w.slot i).due[rd.toNat] = none ∧ (∀ q, q ≠ rd → (w.slot i).xr q = (s.slot i).xr q) ∧ w.mem = s.mem ∧ (∀ j, j ≠ i → w.slot j = s.slot j)
      gives (.vmovx rd a x) (lane (o.sx.toNat % 64)) ∧ gives (.vredi .all rd a .sum) (max (-(2 ^ 31)) (min (2 ^ 31 - 1) sum)))) ∧
  (∀ (s : State) (t : BitVec 10) (o : UnitOp) (p : VMode) (d a b : VReg) (r : XReg) (tag : BitVec 7) (cond : BitVec 4) (op : RedOp) (f ft : Fmt),
    (s.tile t).vxu.running = some o → o.mask.length = 256 → s.late = [] → s.MemOk → d ≠ 31 → (∀ bs, o.vinBytes = some bs → bs.length = 256) →
    let vw := o.vw[0]
    fmtOf vw.fmt = some f → (vw.scaled = true → f.mayScale = true) → vw.stride ≠ 0 →
    let n := f.lanes
    let place := fun (v : Nat) => slabKey t (o.slabBase + (vw.base + 256 * vw.stride * v))
    let scaleKey := fun (v : Nat) => slabKey t (o.slabBase + (vw.scaleOff + v * (n / 32)))
    let view := fun (v : Nat) => if v = 31 then o.vinBytes.getD (List.replicate 256 0) else s.bytes (place v) 256
    let code := fun (v i : Nat) => elemCode f.width (view v) i
    let val := fun (v i : Nat) => if vw.scaled then roundF32 (scaled (f.value (code v i)) (s.byte (scaleKey v + i / 32)).toNat)
      else f.value (code v i)
    let int := fun (v i : Nat) => f.int (code v i)
    let bit := fun (i : Nat) => (o.mask.getD (i / 8) 0).getLsbD (i % 8)
    let on := fun (i : Nat) => p = .all ∨ ((p = .m1 ∨ p = .m1z) ∧ bit i = true) ∨ ((p = .m0 ∨ p = .m0z) ∧ bit i = false)
    let keeps := p = .m1 ∨ p = .m0
    let inViews := fun (g k : Nat) => ∃ v, v < g ∧ place (d.toNat + v) ≤ k ∧ k < place (d.toNat + v) + 256
    let inScales := fun (k : Nat) => vw.scaled = true ∧ scaleKey d.toNat ≤ k ∧ k < scaleKey d.toNat + n / 32
    let inList := fun (k : Nat) => ∃ l j, o.list = some l ∧ j < 16 + 8 * l.cap ∧ k = l.place j
    let gone := fun (u : State) => u.slots = s.slots ∧ (u.tile t).vxu.running = none ∧
      (u.tile t).flight = (s.tile t).flight.filter (fun f => f.ord != o.ord)
    let wrote := fun (u : State) (fd : Fmt) (i : Nat) => elemCode fd.width (u.bytes (place (d.toNat + i / fd.lanes)) 256) (i % fd.lanes)
    let old := fun (fd : Fmt) (i : Nat) =>
      if keeps then elemCode fd.width (s.bytes (place (d.toNat + i / fd.lanes)) 256) (i % fd.lanes) else 0
    let converts := fun (ins : Instr) (fd : Fmt) (m : Nat) (ds : Bool) (x : Nat → Machine.Num) =>
      let g := m / fd.lanes
      let sc := vw.scaled = true ∧ ds = true
      o.insn = ins → d.toNat + g ≤ 31 → (if vw.ovf = 0 ∧ fd ≠ fmtF ∧ fd ≠ fmtI32 then ∃ l, o.list = some l ∧ l.title.loc.toNat < 2 else o.list = none) →
      (∀ k, ¬(inViews g k ∧ (sc ∧ inScales k ∨ inList k)) ∧ ¬(sc ∧ inScales k ∧ inList k)) →
      ∃ (u : State) (S : Nat → Nat) (recs : List (Nat × Nat)) (full : Bool), Runs (.vectorComplete t) s u ∧ gone u ∧
        (∀ c, c < m / 32 → (sc → ScaleChosen fd on x (32 * c) (S c)) ∧ (¬sc → S c = 127)) ∧
        Delivered fd (vw.rnd == 1) vw.ovf o.lfsr m on x (fun i => S (i / 32)) (old fd) (wrote u fd) ((o.list.map OutList.count).getD 0)
          ((o.list.map OutList.cap).getD 0) recs full ∧
        (sc → ∀ c, c < m / 32 → (u.byte (scaleKey d.toNat + c)).toNat = S c) ∧
        (∀ l, o.list = some l → ListGrew s u l recs full) ∧
        (∀ k, ¬inViews g k → ¬(sc ∧ inScales k) → ¬inList k → u.byte k = s.byte k)
    let lanes := fun (ins : Instr) (g : Nat) (y : Nat → Nat) => o.insn = ins → d.toNat + g ≤ 31 → ∃ u, Runs (.vectorComplete t) s u ∧ gone u ∧
      (∀ i, i < g * n → (on i → wrote u f i = y i) ∧ (¬on i → wrote u f i = old f i)) ∧ (∀ k, ¬inViews g k → u.byte k = s.byte k)
    let bytes := fun (ins : Instr) (y : Nat → Byte) => o.insn = ins → ∃ u, Runs (.vectorComplete t) s u ∧ gone u ∧
      (∀ k, k < 256 → u.byte (place d.toNat + k) = y k) ∧ (∀ k, ¬inViews 1 k → u.byte k = s.byte k)
    let negZero := fun (x : Machine.Num) => match x with
      | .fin true 0 _ => true
      | _ => false
    let larger := fun (x y : Machine.Num) => if x.isNaN ∨ y.isNaN then .nan else if x.lt y then y else if y.lt x then x else if negZero x then y else x
    let smaller := fun (x y : Machine.Num) => if x.isNaN ∨ y.isNaN then .nan else if y.lt x then y else if x.lt y then x else if negZero x then x else y
    let A := val a.toNat
    let B := val b.toNat
    let D := val d.toNat
    (f.isF = true →
      (let out := fun (ins : Instr) (x : Nat → Machine.Num) => converts ins f n true x
       out (.vfadd p d a b) (fun i => (A i).add (B i)) ∧ out (.vfsub p d a b) (fun i => (A i).sub (B i)) ∧
       out (.vfmul p d a b) (fun i => (A i).mul (B i)) ∧ out (.vfma p d a b) (fun i => ((A i).mul (B i)).add (D i)) ∧
       out (.vfms p d a b) (fun i => ((A i).mul (B i)).sub (D i)) ∧ out (.vfmax p d a b) (fun i => larger (A i) (B i)) ∧
       out (.vfmin p d a b) (fun i => smaller (A i) (B i)) ∧ out (.vfabs p d a) (fun i => (A i).abs) ∧ out (.vfneg p d a) (fun i => (A i).neg) ∧
       out (.vfrcp p d a) (fun i => (A i).rcp) ∧ out (.vfrsq p d a) (fun i => (A i).rsq) ∧ out (.vfexp2 p d a) (fun i => (A i).exp2) ∧
       out (.vflog2 p d a) (fun i => (A i).log2) ∧ out (.vfsig p d a) (fun i => (A i).sig) ∧ out (.vfgelu p d a) (fun i => (A i).gelu) ∧
       out (.vsplat p d r) (fun _ => fmtF.value (o.sx.toNat % 2 ^ 32)) ∧
       ∀ P : Nat → Machine.Num, (let m := fun (i : Nat) => if bit i = decide (p = .m1 ∨ p = .m1z) ∨ p = .all then A i else (match op with
           | .sum => .fin false 0 0
           | .max => .inf true
           | .min => .inf false)
         P 0 = m 0 ∧ ∀ i, P (i + 1) = (match op with
           | .sum => roundF32 ((P i).add (m (i + 1)))
           | .max => larger (P i) (m (i + 1))
           | .min => smaller (P i) (m (i + 1)))) →
         out (.vscan p d a op) P) ∧
      lanes (.vfclass p d a) 1 (fun i =>
        let low := code a.toNat i % 2 ^ f.magBits < 2 ^ (f.p - 1)
        match f.value (code a.toNat i) with
        | .nan => 8
        | .inf g => if g then 0 else 7
        | .fin g m _ => if m = 0 then (if g then 3 else 4) else if low then (if g then 2 else 5) else if g then 1 else 6)) ∧
    (f.isI = true →
      (let out := fun (ins : Instr) (x : Nat → Int) => converts ins f n false (fun i => .ofInt (x i))
       out (.viadd p d a b) (fun i => int a.toNat i + int b.toNat i) ∧ out (.visub p d a b) (fun i => int a.toNat i - int b.toNat i) ∧
       out (.vimul p d a b) (fun i => int a.toNat i * int b.toNat i) ∧ out (.vsplat p d r) (fun _ => o.sx.toInt) ∧
       ∀ P : Nat → Int, (let m := fun (i : Nat) => if bit i = decide (p = .m1 ∨ p = .m1z) ∨ p = .all then int a.toNat i else (match op with
           | .sum => 0
           | .max => if f.signed then -(2 ^ (f.width - 1)) else 0
           | .min => if f.signed then 2 ^ (f.width - 1) - 1 else 2 ^ f.width - 1)
         P 0 = m 0 ∧ ∀ i, P (i + 1) = (match op with
           | .sum => P i + m (i + 1)
           | .max => max (P i) (m (i + 1))
           | .min => min (P i) (m (i + 1)))) →
         out (.vscan p d a op) P) ∧
      (let amount := fun (i : Nat) => code b.toNat i % (if f.width = 32 then 32 else 8)
       lanes (.vimax p d a b) 1 (fun i => if int a.toNat i < int b.toNat i then code b.toNat i else code a.toNat i) ∧
       lanes (.vimin p d a b) 1 (fun i => if int b.toNat i < int a.toNat i then code b.toNat i else code a.toNat i) ∧
       lanes (.vshl p d a b) 1 (fun i => code a.toNat i * 2 ^ amount i % 2 ^ f.width) ∧
       lanes (.vshr p d a b) 1 (fun i => (int a.toNat i / 2 ^ amount i % 2 ^ f.width).toNat))) ∧
    (let n2 := Nat.max f.lanes ft.lanes
     fmtOf tag = some ft → converts (.vcvt tag p d a) ft n2 false (fun i => val (a.toNat + i / n) (i % n))) ∧
    lanes (.vand p d a b) 1 (fun i => code a.toNat i &&& code b.toNat i) ∧ lanes (.vor p d a b) 1 (fun i => code a.toNat i ||| code b.toNat i) ∧
    lanes (.vxor p d a b) 1 (fun i => code a.toNat i ^^^ code b.toNat i) ∧
    lanes (.vcmp p d a b) 1 (fun i =>
      let x := f.value (code a.toNat i)
      let y := f.value (code b.toNat i)
      if x.isNaN ∨ y.isNaN then 8 else if x.lt y then 1 else if y.lt x then 4 else 2) ∧
    (p = .all →
      (lanes (.vsel d a b) 1 (fun i => if bit i then code a.toNat i else code b.toNat i) ∧
       lanes (.vbcast d a r) 1 (fun _ => code a.toNat (o.sx.toNat % n)) ∧
       lanes (.vslide d a r) 1 (fun i => if 0 ≤ (i : Int) + o.sx.toInt ∧ (i : Int) + o.sx.toInt < n then code a.toNat ((i : Int) + o.sx.toInt).toNat else 0) ∧
       lanes (.vzip d a b) 2 (fun i => code (if i % 2 = 0 then a.toNat else b.toNat) (i / 2)) ∧
       lanes (.vunz d a b) 2 (fun i =>
         let c := fun (j : Nat) => if j < n then code a.toNat j else code b.toNat (j - n)
         if i < n then c (2 * i) else c (2 * (i - n) + 1)) ∧
       bytes (.vperm d a b) (fun k => (view a.toNat).getD ((view b.toNat).getD k 0).toNat 0) ∧
       (o.insn = .vsetm d a cond → ∃ u, Runs (.vectorComplete t) s u ∧ gone u ∧
         (∀ i, i < 2048 → (u.byte (place d.toNat + i / 8)).getLsbD (i % 8) =
           (decide (i < n) && decide (∃ k : Fin 4, (code a.toNat i).testBit k.val = true ∧ cond.getLsbD k.val = true))) ∧
         (∀ k, ¬inViews 1 k → u.byte k = s.byte k)) ∧
       (o.insn = .voutl d r → ∃ u, Runs (.vectorComplete t) s u ∧ gone u ∧
         (∀ j, j < 32 → leNat (u.bytes (place d.toNat + 4 * j) 4) = ((o.recs.map Prod.snd).getD j 0).toNat ∧
           leNat (u.bytes (place d.toNat + 128 + 4 * j) 4) = ((o.recs.map Prod.fst).getD j 0xFFFFFFFF).toNat) ∧
         (∀ k, ¬inViews 1 k → u.byte k = s.byte k)))) ∧
    (∀ m e g, 0 < m →
      let v : Machine.Num := .fin g m e
      (Num.rcp .nan = .nan ∧ Num.rcp (.inf g) = .fin g 0 0 ∧ Num.rcp (.fin g 0 e) = .inf g) ∧
      (∃ q z, v.rcp = .fin g q z ∧ (q * m = 2 ^ (-(z + e)).toNat ∨
        (q - 1) * m < 2 ^ (-(z + e)).toNat ∧ 2 ^ (-(z + e)).toNat < (q + 1) * m)) ∧
      (Num.rsq .nan = .nan ∧ Num.rsq (.inf true) = .nan ∧ Num.rsq (.inf false) = .fin false 0 0 ∧ Num.rsq (.fin g 0 e) = .inf g ∧
        Num.rsq (.fin true m e) = .nan) ∧
      (Num.exp2 .nan = .nan ∧ Num.exp2 (.inf true) = .fin false 0 0 ∧ Num.exp2 (.inf false) = .inf false ∧ Num.exp2 (.fin g 0 e) = .fin false 1 0 ∧
        (m < 4096 → Num.exp2 (.fin g m 0) = .fin false 1 (if g then -(m : Int) else m))) ∧
      (Num.log2 .nan = .nan ∧ Num.log2 (.inf true) = .nan ∧ Num.log2 (.inf false) = .inf false ∧ Num.log2 (.fin g 0 e) = .inf true ∧
        Num.log2 (.fin true m e) = .nan ∧ Num.log2 (.fin false 1 e) = .ofInt e) ∧
      (Num.sig .nan = .nan ∧ Num.sig (.inf true) = .fin false 0 0 ∧ Num.sig (.inf false) = .fin false 1 0 ∧ Num.sig (.fin g 0 e) = .fin false 1 (-1)) ∧
      (Num.gelu .nan = .nan ∧ Num.gelu (.inf true) = .fin true 0 0 ∧ Num.gelu (.inf false) = .inf false ∧ Num.gelu (.fin g 0 e) = .fin g 0 0)) ∧
    (∀ (l : BitVec 16) (m : Nat) (e q : Int) (even : Nat → Bool), e < q →
      let w := 2 ^ (q - e).toNat
      roundAt (.sr l) m e q even = m / w + (if l.toNat ≤ 2 ^ 16 * (m % w) / w then 1 else 0) ∧
      (let y := roundAt .ne m e q even
       (2 * (m % w) < w → y = m / w) ∧ (w < 2 * (m % w) → y = m / w + 1) ∧
       (2 * (m % w) = w → y = m / w + (if even (m / w) then 0 else 1)))) ∧
    (∀ l : BitVec 16, lfsrStep l = (l >>> 1) ^^^ (if l.getLsbD 0 then 0xB400 else 0))) ∧
  (∀ (s : State) (t : BitVec 10) (o : UnitOp) (p : VMode) (rd r : XReg) (a b : VReg) (op : RedOp) (f : Fmt),
    (s.tile t).vxu.running = some o → o.list = none → s.late = [] → o.mask.length = 256 → (∀ bs, o.vinBytes = some bs → bs.length = 256) →
    let i : SlotId := ⟨t, o.core, o.slot⟩
    o.rd = rd → rd ≠ 0 → (s.slot i).due[rd.toNat] = some o.ord →
    let vw := o.vw[0]
    fmtOf vw.fmt = some f → (vw.scaled = true → f.mayScale = true) →
    let n := f.lanes
    let view := fun (v : Nat) => if v = 31 then o.vinBytes.getD (List.replicate 256 0)
      else s.bytes (slabKey t (o.slabBase + (vw.base + 256 * vw.stride * v))) 256
    let code := fun (v i : Nat) => elemCode f.width (view v) i
    let val := fun (v i : Nat) =>
      let S := s.byte (slabKey t (o.slabBase + (vw.scaleOff + v * (n / 32))) + i / 32)
      if vw.scaled then roundF32 (scaled (f.value (code v i)) S.toNat) else f.value (code v i)
    let bit := fun (i : Nat) => (o.mask.getD (i / 8) 0).getLsbD (i % 8)
    let on := fun (i : Nat) => p == .all || bit i == (p == .m1 || p == .m1z)
    let gives := fun (ins : Instr) (w : Word) => o.insn = ins → ∃ u, Runs (.vectorComplete t) s u ∧ (u.slot i).xr rd = w ∧
      (u.slot i).due[rd.toNat] = none ∧ (∀ q, q ≠ rd → (u.slot i).xr q = (s.slot i).xr q) ∧ u.mem = s.mem ∧ (∀ j, j ≠ i → u.slot j = s.slot j) ∧
      (u.tile t).vxu.running = none
    let f32 := fun (x : Machine.Num) => BitVec.ofNat 64 (toF32 x)
    let j := o.sx.toNat % n
    (f.isF = true →
      gives (.vmovx rd a r) (f32 (val a.toNat j)) ∧
      ∀ T : Nat → Nat → Machine.Num,
        ((∀ i, T 0 i = if on i then (val a.toNat i).mul (val b.toNat i) else .fin false 0 0) →
          (∀ l i, T (l + 1) i = roundF32 ((T l (2 * i)).add (T l (2 * i + 1)))) → gives (.vdot p rd a b) (f32 (T (Nat.log2 n) 0))) ∧
        ((∀ i, T 0 i = if on i then val a.toNat i else .fin false 0 0) →
          (∀ l i, T (l + 1) i = roundF32 ((T l (2 * i)).add (T l (2 * i + 1)))) → gives (.vredf p rd a .sum) (f32 (T (Nat.log2 n) 0))) ∧
        ((∀ i, T 0 i = if on i then val a.toNat i else .inf true) →
          (∀ l i, T (l + 1) i = (T l (2 * i)).maxN (T l (2 * i + 1))) → gives (.vredf p rd a .max) (f32 (T (Nat.log2 n) 0))) ∧
        ((∀ i, T 0 i = if on i then val a.toNat i else .inf false) →
          (∀ l i, T (l + 1) i = (T l (2 * i)).minN (T l (2 * i + 1))) → gives (.vredf p rd a .min) (f32 (T (Nat.log2 n) 0)))) ∧
    (f.isI = true →
      let int := fun (i : Nat) => f.int (code a.toNat i)
      let low : Int := if f.signed then -(2 ^ (f.width - 1)) else 0
      let high : Int := if f.signed then 2 ^ (f.width - 1) - 1 else 2 ^ f.width - 1
      gives (.vmovx rd a r) (BitVec.ofInt 64 (int j)) ∧
      gives (.vredi p rd a .sum) (BitVec.ofInt 64 (max (-(2 ^ 31)) (min (2 ^ 31 - 1) ((List.range n).map (fun i => if on i then int i else 0)).sum))) ∧
      ∀ M : Int,
        ((∀ i, i < n → on i = true → int i ≤ M) → ((∃ i, i < n ∧ on i = true ∧ int i = M) ∨ M = low) → low ≤ M →
          gives (.vredi p rd a .max) (BitVec.ofInt 64 M)) ∧
        ((∀ i, i < n → on i = true → M ≤ int i) → ((∃ i, i < n ∧ on i = true ∧ int i = M) ∨ M = high) → M ≤ high →
          gives (.vredi p rd a .min) (BitVec.ofInt 64 M))))

/-- R181, R287, R289, R290, R291, R292, R294, R298: every matrix instruction. On an S-core it raises 0x00. On a C-core whose slot does not hold the claim it waits for
it; with the claim, views that are not fit raise 0x05, and one whose regions and list pass their checks waits for room in the queue of 4, then
joins it with what it captures; MMA.O's records are all those of its list. CLAIM_GRANT gives a free claim to the first waiter with the accumulators
and SAT zero, but to none whose context has a parked firing of the tile that holds it (log 52, DEDUCED). That lists and records are taken at
issue is log 21, and what is checked where A is an accumulator log 57, both DEDUCED. -/
def Obligations.MatrixInstructionsIssue : Prop :=
  ∀ (s : State) (z g : Bool) (c ca cb : CReg) (ma mb : MC) (m n : MReg) (rd : XReg) (ins : Instr), s.Ready [] →
    ins ∈ [Instr.mma z c ma n, .mmaB16 z c ma n, .mmaO c ma n, .mmai z c m n, .mcvt z g m c, .mzero c, .mldc c m, .mstc m c, .mtrn ma mb,
      .macca z c ca cb, .mstat z rd c] →
    let i := s.cur
    let v := s.me
    let x := (s.tile i.tile).mxu
    let plan := mplan v.vw ins
    (i.core = false → Runs ins s (s.fault i { cause := 0x00 })) ∧
    (i.core = true → x.claim ≠ some i.slot → ∃ t, Runs ins s t ∧ i.slot ∈ (t.tile i.tile).mxu.waiters ∧ (t.tile i.tile).mxu.acc = x.acc ∧
      { t with tiles := s.tiles } = s) ∧
    (i.core = true → x.claim = some i.slot → plan.ok = false → Runs ins s (s.fault i { cause := 0x05 })) ∧
    (∀ rs ws o? recs u, i.core = true → x.claim = some i.slot → plan.ok = true →
      s.planRegions i (plan.a.toList ++ plan.b.toList ++ plan.sa.toList ++ plan.sb.toList) = .ok rs → s.planRegions i plan.w = .ok ws →
      s.mlist i v plan = .ok ((o?, recs), u) →
      let y := (u.tile i.tile).mxu
      let full := 5 ≤ y.queue.length + b2n y.running.isSome
      (full → Runs ins s u) ∧
      (¬full → ∃ t o, Runs ins s t ∧ (t.tile i.tile).mxu.queue = y.queue ++ [o] ∧ o.insn = ins ∧ o.core = true ∧ o.slot = i.slot ∧ o.ctx = v.ctx ∧
        o.vw = v.vw ∧ o.lfsr = v.lfsr ∧ o.operands = none ∧ o.list = o? ∧ o.recs = recs ∧ o.ord = u.nextId ∧
        t.me.pc = v.pc + 4 ∧ t.me.instret = v.instret + 1 ∧ (∀ q, t.me.xr q = v.xr q) ∧ t.me.lfsr = lfsrSteps (if plan.steps then 4096 else 0) v.lfsr ∧
        (∀ q : XReg, t.me.due[q.toNat] = if mrd ins = some q ∧ q ≠ 0 then some o.ord else v.due[q.toNat]) ∧
        (t.tile i.tile).mxu.acc = y.acc ∧ t.mem = u.mem ∧ (∀ j, j ≠ i → t.slot j = s.slot j))) ∧
    (∀ l recs u, ins = .mmaO c ma n → s.mlist i v plan = .ok ((some l, recs), u) → l.title.loc.toNat < 2 →
      recs.length = l.count ∧ ∀ n e, recs[n]? = some e → e.1.toNat < 4096 ∧
        e.1.toNat = leNat (s.bytes (l.place (16 + 8 * n)) 4) ∧ e.2.toNat = leNat (s.bytes (l.place (20 + 8 * n)) 4)) ∧
    (∀ tl : BitVec 10, (∀ w ∈ (s.tile tl).mxu.waiters, ∃ p ∈ (s.ctxOf ⟨tl, true, w⟩).parked, p.sid.tile = tl ∧ p.matrix.isSome = true) →
      Runs (.claimGrant tl) s s) ∧
    (∀ (tl : BitVec 10) w ws, (s.tile tl).mxu.waiters = w :: ws → (s.tile tl).mxu.claim = none → (s.tile tl).mxu.running = none →
      (∀ p ∈ (s.ctxOf ⟨tl, true, w⟩).parked, p.sid.tile = tl → p.matrix = none) →
      ∃ t, Runs (.claimGrant tl) s t ∧ (t.tile tl).mxu = { (s.tile tl).mxu with claim := some w, waiters := ws, acc := Vector.replicate 4 [], sat := 0 } ∧
        { t with tiles := s.tiles } = s)

/-- R167, R168, R292, R295, R299 to R304: the running of a matrix instruction without a list. MATRIX_START takes the oldest queued one whose edges are free. MATRIX_OPERANDS_CONSUMED
and MATRIX_COMPLETE, with no other step between them, leave the accumulators, the bytes and the x result of its rule: products of 64 by
64 tiles by chunks of 16 with one rounding or one saturation each, zeroing, loads, stores, transposes, sums and the status word.

R158, R159, R160 to R165, R167, R168, R286, R295 to R299, R301, R302: MATRIX_OPERANDS_CONSUMED and MATRIX_COMPLETE, with no other step between them, of the products and
conversions on every format, scale, rounding and policy. A is a tile view with its exact block scales, or what the down-converter makes of an
accumulator, whose overflows are recorded under vw1's list; B is a tile view with its scales. MMA rounds once a chunk, 16 k or 32 for 4-bit
formats; MMA.B16 works on the diagonal blocks alone, a chunk each; MMA.O applies the records in order; MMAI saturates, and SAT says so; MCVT
delivers the words, transposed with .T, as integers with .I, and writes the scale bytes; MTRN transposes a tile view's codes. SAT is cleared by Z. -/
def Obligations.MatrixResults : Prop :=
  (∀ (s : State) (t : BitVec 10) (o : UnitOp) (z : Bool) (c ca cb : CReg) (m n : MReg) (f1 f2 : Fmt) (rd : XReg), s.late = [] → s.MemOk →
    let x := (s.tile t).mxu
    let word := fun (y : Mxu) (q : CReg) (i : Nat) => find 0 y.acc[q.toNat] i
    let i32 := fun (y : Int) => max (-(2 ^ 31)) (min (2 ^ 31 - 1) y)
    let place := fun (r : MReg) (i : Nat) => slabKey t (o.slabBase + (o.vw[1].base + 256 * o.vw[1].stride * r.toNat)) + i
    let code := fun (f : Fmt) (r : MReg) (i j : Nat) => (unpack f.width (s.bytes (place r 0) (512 * f.width))).getD (64 * i + j) 0
    (∀ q os, x.running = none → x.queue = q :: os → (∀ g ∈ (s.tile t).flight, g.ord = q.ord → (s.tile t).edgeFree q.core g.reads g.writes q.ord = true) →
      ∃ w, Runs (.matrixStart t) s w ∧ (w.tile t).mxu = { x with running := some q, queue := os } ∧ { w with tiles := s.tiles } = s) ∧
    (x.running = some o → o.list = none → o.operands = none →
      let ends := fun (ins : Instr) (good : State → Mxu → Prop) => o.insn = ins → ∃ w u, Runs (.matrixOperandsConsumed t) s w ∧ w.mem = s.mem ∧
        Runs (.matrixComplete t) w u ∧ good u (u.tile t).mxu ∧ (u.tile t).mxu.running = none ∧ (u.tile t).mxu.queue = x.queue ∧
        (u.tile t).mxu.claim = x.claim
      let only := fun (y : Mxu) => ∀ q i, q ≠ c → word y q i = word x q i ∧ y.sat.getLsbD q.toNat = x.sat.getLsbD q.toNat
      let sat := fun (y : Mxu) => y.sat.getLsbD c.toNat
      ends (.mzero c) (fun u y => (∀ i, word y c i = 0) ∧ sat y = false ∧ only y ∧ u.mem = s.mem) ∧
      ends (.mldc c m) (fun u y => (∀ i, i < 4096 → word y c i = BitVec.ofNat 32 (leNat (s.bytes (place m (4 * i)) 4))) ∧ sat y = false ∧ only y ∧
        u.mem = s.mem) ∧
      ends (.mstc m c) (fun u y => (∀ i, i < 4096 → leNat (u.bytes (place m (4 * i)) 4) = (word x c i).toNat) ∧ y.acc = x.acc ∧ y.sat = x.sat ∧
        (∀ k, ¬(place m 0 ≤ k ∧ k < place m 16384) → u.byte k = s.byte k)) ∧
      ends (.mtrn (.c c) (.c ca)) (fun _ y => (∀ i j, i < 64 → j < 64 → word y c (64 * i + j) = word x ca (64 * j + i)) ∧
        sat y = x.sat.getLsbD ca.toNat ∧ only y) ∧
      ends (.macca true c ca cb) (fun _ y => (∀ i, i < 4096 → word y c i = BitVec.ofInt 32 (i32 ((word x ca i).toInt + (word x cb i).toInt))) ∧
        (sat y = true ↔ x.sat.getLsbD ca.toNat = true ∨ x.sat.getLsbD cb.toNat = true ∨
          ∃ i, i < 4096 ∧ i32 ((word x ca i).toInt + (word x cb i).toInt) ≠ (word x ca i).toInt + (word x cb i).toInt) ∧ only y) ∧
      ends (.macca false c ca cb) (fun _ y => (∀ i, i < 4096 → word y c i =
        BitVec.ofNat 32 (toF32 ((fmtF.value (word x ca i).toNat).add (fmtF.value (word x cb i).toNat)))) ∧ y.sat = x.sat ∧ only y) ∧
      (fmtOf o.vw[1].fmt = some f1 → f1 = fmtI8 ∨ f1 = fmtN8 → fmtOf o.vw[2].fmt = some f2 → f2 = fmtI8 ∨ f2 = fmtN8 →
        ends (.mmai z c m n) (fun _ y => only y ∧ ∀ i j, i < 64 → j < 64 →
          let part := fun (q : Nat) (w : Int) => i32 (w + ((List.range 16).map (fun k => f1.int (code f1 m i (16 * q + k)) * f2.int (code f2 n j (16 * q + k)))).sum)
          word y c (64 * i + j) = BitVec.ofInt 32 (part 3 (part 2 (part 1 (part 0 (if z then 0 else (word x c (64 * i + j)).toInt))))))) ∧
      (fmtOf o.vw[1].fmt = some f1 → fmtOf o.vw[2].fmt = some f2 → f1.width = f2.width → f1.width = 8 ∨ f1.width = 16 →
        o.vw[1].scaled = false → o.vw[2].scaled = false →
        ends (.mma z c (.m m) n) (fun _ y => only y ∧ ∀ i j, i < 64 → j < 64 →
          let part := fun (q : Nat) (w : Machine.Num) => roundF32 (w.add (Machine.Num.sum ((List.range 16).map (fun k =>
            (f1.value (code f1 m i (16 * q + k))).mul (f2.value (code f2 n j (16 * q + k)))))))
          word y c (64 * i + j) = BitVec.ofNat 32 (toF32 (part 3 (part 2 (part 1 (part 0
            (if z then fmtF.value 0 else fmtF.value (word x c (64 * i + j)).toNat)))))))) ∧
      (o.rd = rd → rd ≠ 0 → (s.slot ⟨t, o.core, o.slot⟩).due[rd.toNat] = some o.ord →
        ends (.mstat z rd c) (fun u y => y.acc = x.acc ∧ (sat y = if z then false else x.sat.getLsbD c.toNat) ∧
          let w := (u.slot ⟨t, o.core, o.slot⟩).xr rd
          w.extractLsb' 3 61 = 0 ∧ w.getLsbD 0 = x.sat.getLsbD c.toNat ∧
          (w.getLsbD 1 = true ↔ ∃ i, i < 4096 ∧ (word x c i).toNat % 2 ^ 31 = 0x7F800000) ∧
          (w.getLsbD 2 = true ↔ ∃ i, i < 4096 ∧ 0x7F800000 < (word x c i).toNat % 2 ^ 31))))) ∧
  (∀ (s : State) (t : BitVec 10) (o : UnitOp) (z it tr : Bool) (c ca : CReg) (m n : MReg) (f1 f2 f3 : Fmt), s.late = [] → s.MemOk →
    let x := (s.tile t).mxu
    x.running = some o → o.operands = none →
    let vw := o.vw
    fmtOf vw[1].fmt = some f1 → fmtOf vw[2].fmt = some f2 → fmtOf vw[3].fmt = some f3 →
    (∀ j : Fin 4, ∀ f, fmtOf vw[j].fmt = some f → vw[j].scaled = true → f.mayScale = true) →
    let word := fun (y : Mxu) (q : CReg) (i : Nat) => find 0 y.acc[q.toNat] i
    let key := fun (off : Nat) => slabKey t (o.slabBase + off)
    let tile := fun (r : MReg) => key (vw[1].base + 256 * vw[1].stride * r.toNat)
    let code := fun (u : State) (f : Fmt) (r : MReg) (e : Nat) => elemCode f.width (u.bytes (tile r) (512 * f.width)) e
    let scale := fun (v : View) (r : MReg) (b : Nat) => key (v.scaleOff + 128 * r.toNat) + b
    let val := fun (v : View) (f : Fmt) (r : MReg) (e : Nat) =>
      if v.scaled then scaled (f.value (code s f r e)) (s.byte (scale v r (e / 32))).toNat else f.value (code s f r e)
    let A := fun (i k : Nat) => val vw[1] f1 m (64 * i + k)
    let B := fun (k j : Nat) => val vw[2] f2 n (64 * j + k)
    let inList := fun (k : Nat) => ∃ l j, o.list = some l ∧ j < 16 + 8 * l.cap ∧ k = l.place j
    let only := fun (y : Mxu) => ∀ q i, q ≠ c → word y q i = word x q i ∧ y.sat.getLsbD q.toNat = x.sat.getLsbD q.toNat
    let sat := fun (y : Mxu) => y.sat.getLsbD c.toNat
    let ends := fun (ins : Instr) (good : State → Mxu → Prop) => o.insn = ins → ∃ w u, Runs (.matrixOperandsConsumed t) s w ∧ w.mem = s.mem ∧
      Runs (.matrixComplete t) w u ∧ good u (u.tile t).mxu ∧ (u.tile t).mxu.running = none ∧ (u.tile t).mxu.queue = x.queue ∧
      (u.tile t).mxu.claim = x.claim ∧ u.slots = s.slots
    let appends := fun (on : Bool) => if on then ∃ l, o.list = some l ∧ l.title.loc.toNat < 2 else o.list = none
    let converted := fun (u : State) (v : View) (f : Fmt) (y : Nat → Machine.Num) (S code : Nat → Nat) => ∃ (recs : List (Nat × Nat)) (full : Bool),
      (∀ b, b < 128 → (v.scaled = true → ScaleChosen f (fun _ => True) y (32 * b) (S b)) ∧ (v.scaled = false → S b = 127)) ∧
      Delivered f (v.rnd == 1) v.ovf o.lfsr 4096 (fun _ => True) y (fun e => S (e / 32)) (fun _ => 0) code ((o.list.map OutList.count).getD 0)
        ((o.list.map OutList.cap).getD 0) recs full ∧
      (∀ l, o.list = some l → ListGrew s u l recs full)
    let chunk := if f1.width = 4 then 32 else 16
    let start := fun (i j : Nat) => if z then .fin false 0 0 else fmtF.value (word x c (64 * i + j)).toNat
    let product := fun (A : Nat → Nat → Machine.Num) (y : Mxu) => only y ∧ sat y = (!z && x.sat.getLsbD c.toNat) ∧
      ∀ (i j : Nat) (P : Nat → Machine.Num), i < 64 → j < 64 → P 0 = start i j →
        (∀ q, P (q + 1) = roundF32 ((P q).add (Machine.Num.sum ((List.range chunk).map (fun k => (A i (chunk * q + k)).mul (B (chunk * q + k) j)))))) →
        word y c (64 * i + j) = BitVec.ofNat 32 (toF32 (P (64 / chunk)))
    let blocks := fun (A : Nat → Nat → Machine.Num) (y : Mxu) => only y ∧ sat y = (!z && x.sat.getLsbD c.toNat) ∧
      ∀ i j, i < 64 → j < 64 →
        (i / 16 = j / 16 → word y c (64 * i + j) = BitVec.ofNat 32 (toF32 ((start i j).add
          (Machine.Num.sum ((List.range 16).map (fun k => (A i (i / 16 * 16 + k)).mul (B (i / 16 * 16 + k) j))))))) ∧
        (i / 16 ≠ j / 16 → word y c (64 * i + j) = word x c (64 * i + j))
    let fromAcc := fun (rule : (Nat → Nat → Machine.Num) → Mxu → Prop) (u : State) (y : Mxu) => ∃ S code : Nat → Nat,
      converted u vw[1] f1 (fun e => fmtF.value (word x ca e).toNat) S code ∧
      rule (fun i k => scaled (f1.value (code (64 * i + k))) (S ((64 * i + k) / 32))) y ∧ (∀ k, ¬inList k → u.byte k = s.byte k)
    (f1.width = f2.width →
      (o.list = none → ends (.mma z c (.m m) n) (fun u y => product A y ∧ u.mem = s.mem) ∧
        ends (.mmaB16 z c (.m m) n) (fun u y => blocks A y ∧ u.mem = s.mem)) ∧
      (f1.mayScale = true → appends (vw[1].ovf == 0) →
        ends (.mma z c (.c ca) n) (fromAcc product) ∧ ends (.mmaB16 z c (.c ca) n) (fromAcc blocks))) ∧
    (∀ ma, ends (.mmaO c ma n) (fun u y => u.mem = s.mem ∧ only y ∧ sat y = x.sat.getLsbD c.toNat ∧
      ∀ (i j : Nat) (P : Nat → BitVec 32), i < 64 → j < 64 → P 0 = word x c (64 * i + j) →
        (∀ q r, o.recs[q]? = some r → P (q + 1) = if r.1.toNat / 64 = i
          then BitVec.ofNat 32 (toF32 ((fmtF.value (P q).toNat).add ((fmtF.value r.2.toNat).mul (B (r.1.toNat % 64) j)))) else P q) →
        word y c (64 * i + j) = P o.recs.length)) ∧
    (f1 = fmtI8 ∨ f1 = fmtN8 → f2 = fmtI8 ∨ f2 = fmtN8 → o.list = none → ends (.mmai z c m n) (fun u y => u.mem = s.mem ∧ only y ∧
      ∀ P : Nat → Nat → Nat → Int,
        let sum := fun (i j q : Nat) => ((List.range 16).map (fun k => f1.int (code s f1 m (64 * i + (16 * q + k))) * f2.int (code s f2 n (64 * j + (16 * q + k))))).sum
        (∀ i j, P i j 0 = if z then 0 else (word x c (64 * i + j)).toInt) →
        (∀ i j q, P i j (q + 1) = max (-(2 ^ 31)) (min (2 ^ 31 - 1) (P i j q + sum i j q))) →
        (∀ i j, i < 64 → j < 64 → word y c (64 * i + j) = BitVec.ofInt 32 (P i j 4)) ∧
        (sat y = true ↔ (z = false ∧ x.sat.getLsbD c.toNat = true) ∨
          ∃ i j q, i < 64 ∧ j < 64 ∧ q < 4 ∧ P i j (q + 1) ≠ P i j q + sum i j q))) ∧
    (let from_ := fun (e : Nat) => word x c (if tr then 64 * (e % 64) + e / 64 else e)
     let dest := fun (k : Nat) => tile m ≤ k ∧ k < tile m + 512 * f3.width
     let scales := fun (k : Nat) => vw[3].scaled = true ∧ scale vw[3] m 0 ≤ k ∧ k < scale vw[3] m 128
     appends (vw[3].ovf == 0 && f3 != fmtF && f3 != fmtI32) →
     (∀ k, ¬(dest k ∧ (scales k ∨ inList k)) ∧ ¬(scales k ∧ inList k)) →
     ends (.mcvt it tr m c) (fun u y => y.acc = x.acc ∧ y.sat = x.sat ∧ (∀ k, ¬dest k → ¬scales k → ¬inList k → u.byte k = s.byte k) ∧
       (f3 = fmtF → it = false → ∀ e, e < 4096 → code u f3 m e = (from_ e).toNat) ∧
       (f3 ≠ fmtF ∨ it = true → ∃ S : Nat → Nat,
         converted u vw[3] f3 (fun e => if it then .ofInt (from_ e).toInt else fmtF.value (from_ e).toNat) S (code u f3 m) ∧
         (vw[3].scaled = true → ∀ b, b < 128 → (u.byte (scale vw[3] m b)).toNat = S b)))) ∧
    (o.list = none → ends (.mtrn (.m m) (.m n)) (fun u y => y.acc = x.acc ∧ y.sat = x.sat ∧
      (∀ i j, i < 64 → j < 64 → code u f1 m (64 * i + j) = code s f1 n (64 * j + i)) ∧
      (∀ k, ¬(tile m ≤ k ∧ k < tile m + 512 * f1.width) → u.byte k = s.byte k))))

/-! ### Fabric, ports, host (chapters 01 and 09) -/

/-- R18, R19, R20, R21, R22: a flit striped over the working lanes of a mask is read back from the beats that arrive, and a lane without a byte
carries 0. A flit on a working group is sent again where its CRC fails, dropped where it came before, held until its turn, and delivered in
link-sequence order with those held behind it; what is delivered leaves the replay buffer, and a packet that ends in it is home. After more than 64
failures within 1 ms lane removal stops the group, and its flits go to the other groups. The end of the retraining adopts the mask, counts the
lanes, and degrades the link (the moment is the model's choice, log 66) or, with its last group dead, fails it both ways, as firmware's withdrawal
does; a packet not acknowledged is then sent again on the detour, the lowest third die with both links up. That the acknowledgement comes at once and
the resend takes the next working group is log 55, and the resend on the detour with its class 2 log 43, both DEDUCED. -/
def Obligations.LinksRecover : Prop :=
  ∀ (s : State) (a b : BitVec 3) (g : BitVec 6) (lane : BitVec 4) (n : Nat) (beats : List (BitVec 128)) (ok : Bool), a ≠ b →
    let l := s.link a b
    let x := l.group g
    let up := l.state.toNat < 2 ∧ x.training = false ∧ x.lanes ≠ 0
    let fresh := l.expected ≤ n ∧ ∀ h ∈ l.held, h.1 ≠ n
    let bs := flitPayload (destripe x.mask beats)
    let landed := l.modFlit n (fun f => { f with flying := false })
    let receives := Instr.zondaFlitReceive a b g n
    let only := fun (t : State) => (∀ c d, ¬(c = a ∧ d = b) → t.link c d = s.link c d) ∧ { t with links := s.links } = s
    let becomes := fun (i : Instr) (l' : Link28) => ∃ t, Runs i s t ∧ t.link a b = l' ∧ only t
    let fails := fun (i : Instr) (st : BitVec 2) => ∃ t, Runs i s t ∧ (t.link a b).state = st ∧ (t.link b a).state = st ∧
      (t.link a b).held = [] ∧ (t.link a b).replay = [] ∧ (t.link a b).delivered = l.delivered
    let working := fun (l : Link28) (g : BitVec 6) => (l.group g).training = false ∧ (l.group g).lanes ≠ 0
    (∀ (m : BitVec 16) (flit : List Byte), m ≠ 0 → flit.length = 256 →
      let ls := (List.range 16).filter m.getLsbD
      (stripe m flit).length = (255 + ls.length) / ls.length ∧ destripe m (stripe m flit) = flit ∧
      ∀ i j : Nat, i < (stripe m flit).length → j < ls.length → ((stripe m flit).getD i 0).extractLsb' (8 * ls.getD j 0) 8 =
        if i * ls.length + j < 256 then flit.getD (i * ls.length + j) 0 else 0) ∧
    (¬up → Runs (receives ok beats) s s) ∧
    (up → ¬fresh → becomes (receives true beats) landed.acked) ∧
    (up → ∃ t, Runs (receives false beats) s t ∧ only t ∧
      let l' := t.link a b
      l'.group g = { x with fails := x.fails ++ [0] } ∧ l'.held = l.held ∧ l'.expected = l.expected ∧ l'.delivered = l.delivered ∧
      (fresh → n ∈ l'.resend) ∧ (g.toNat < 52 → ∀ f ∈ l.replay, f.lsn = n → ∃ f' ∈ l'.replay, f'.lsn = n ∧ f'.payload = f.payload ∧
        f'.cls = f.cls ∧ f'.ends = f.ends ∧ f'.flying = true ∧ working l' f'.group)) ∧
    (up → fresh → l.expected < n → (∀ h ∈ l.held, h.1 ≠ l.expected) →
      becomes (receives true beats) { landed with held := (n, bs) :: l.held, resend := l.resend.filter (fun m => m != n) }.acked) ∧
    (up → fresh → n = l.expected → ∃ t ps, Runs (receives true beats) s t ∧ (t.link a b).delivered = l.delivered ++ bs :: ps ∧
      (t.link a b).expected = n + 1 + ps.length ∧ (∀ j p, ps[j]? = some p → (n + 1 + j, p) ∈ l.held) ∧
      (∀ h ∈ (t.link a b).held, h ∈ l.held ∧ h.1 ≠ n + 1 + ps.length) ∧ n ∉ (t.link a b).resend ∧
      (∀ f ∈ (t.link a b).replay, n + 1 + ps.length ≤ f.lsn) ∧
      (∀ f p k q, l.replay = [f] → f.lsn = n → f.ends = some p → p.dst = b → p.flow = some (k, q) → find 0 s.board.arrived k = q →
        find 0 t.board.arrived k = q + 1)) ∧
    (x.training = false → x.mask.getLsbD lane.toNat = true → 64 < (x.fails.filter (fun ns => ns ≤ 1000000)).length →
      ∃ t, Runs (.laneRemoval a b g lane) s t ∧ only t ∧
        let l' := t.link a b
        l'.group g = { x with training := true, next := x.mask &&& ~~~(1#16 <<< lane.toNat)
                              retrains := BitVec.ofNat 8 (Nat.min 255 (x.retrains.toNat + 1)) } ∧
        (∀ y, y ≠ g → l'.group y = l.group y) ∧ l'.replay.map Flit.lsn = l.replay.map Flit.lsn ∧ l'.unacked = l.unacked ∧
        ((∃ y : BitVec 6, y.toNat < 52 ∧ working l' y) → ∀ f ∈ l'.replay, working l' f.group)) ∧
    (x.training = true ∨ x.mask.getLsbD lane.toNat = false ∨ (x.fails.filter (fun ns => ns ≤ 1000000)).length ≤ 64 →
      Runs (.laneRemoval a b g lane) s s) ∧
    (let ones := ((List.range 16).filter x.next.getLsbD).length
     let l' : Link28 := { l.setGroup g { x with training := false, mask := x.next, lanes := BitVec.ofNat 5 ones } with
       state := if l.state = 0 then 1 else l.state }
     (x.training = false → Runs (.retrainDone a b g) s s) ∧
     (x.training = true → 0 < l'.live ∨ 2 ≤ l.state.toNat → becomes (.retrainDone a b g) l'.reassign) ∧
     (x.training = true → l'.live = 0 → l.state.toNat < 2 → fails (.retrainDone a b g) 2)) ∧
    fails (.linkFailure a b true) 3 ∧
    (l.live = 0 → fails (.linkFailure a b false) 2) ∧ (0 < l.live → Runs (.linkFailure a b false) s s) ∧
    (∀ f p c, l.replay = [f] → f.ends = some p → p.dst = b → (s.link b a).replay = [] → s.detour a b = some c →
      ∃ t, Runs (.linkFailure a b true) s t ∧ (t.link a c).unacked = (s.link a c).unacked ++ [{ p with cls := 2 }]) ∧
    (∀ c, s.detour a b = some c ↔ c ≠ a ∧ c ≠ b ∧ s.linkUp a c = true ∧ s.linkUp c b = true ∧
      ∀ d, d.toNat < c.toNat → ¬(d ≠ a ∧ d ≠ b ∧ s.linkUp a d = true ∧ s.linkUp d b = true))

/-- R31 to R34, R49, R65, R87, R106, R109, R118, R119, R246, R248: port P is served by the gateway instance of die P / 2. A port that fails leaves the live ports, and what
went through it takes another; with the last one a waiting request to a peer raises 0x59 at its slot. What arrives from accelerator q at a live port
that admits its world bears this package's number for it: a message next of its flow is taken where its channel takes it, one ahead of its turn waits in
the gateway, one already passed is dropped; an acknowledgement performs a write; a copy's answer and an atomic's reply reach their request; memory
here is read with its poison, a unit written, and an atomic performed at its home, where the worlds agree, and each is answered; what memory keeps
waiting stays at its port. A supervisor queue is emptied by its drain. The 13-bit flow, early transactions that wait in the gateway, a refused
message that is left to the peer, what stays at its port and the list of answers are the model's choice (log 42, DESIGN CHOICE). -/
def Obligations.PortsAndGateway : Prop :=
  ∀ (s : State) (port : BitVec 4) (q p : BitVec 10) (id : Nat) (r : Req) (w : Bool),
    let s1 : State := { s with gateway := s.gateway.loses port }
    let own := s.board.accelId
    (∀ y, s1.portLive y = true ↔ s.portLive y = true ∧ y ≠ port) ∧
    (s.portLive port = true ↔ (s.gateway.ports[port.toNat / 2]).getLsbD (port.toNat % 2) = true) ∧
    (s1.livePorts ≠ [] → ∃ t, Runs (.portFailure port) s t ∧ t.gateway = s1.gateway ∧ t.reqs.length = s.reqs.length ∧
      (∀ y ∈ t.reqs, ∀ p', y.home = .peer p' → y.port ≠ some port) ∧ (∀ y ∈ s.reqs, y.port ≠ some port → y ∈ t.reqs) ∧
      t.mem = s.mem ∧ t.slots = s.slots) ∧
    (s1.livePorts = [] → s.reqs = [r] → r.home = .peer p → r.isCopy = false → (s.slot r.src).wait = some (.reply r.id) →
      (∀ e ∈ s.tiles, e.2.outbox = []) →
      Runs (.portFailure port) s ((({ s1 with reqs := [] } : State).modSlot r.src (fun v => { v with wait := none })).fault r.src { cause := 0x59 })) ∧
    (∀ x, q = own ∨ s.portLive port = false ∨ (txnWorld x = true ∧ s.unitAdmits (.port port) true = false) → Runs (.gatewayReceive ⟨port, q⟩ x) s s) ∧
    (q ≠ own → s.portLive port = true → p = (if own = 0x3FF ∨ q.toNat < own.toNat then q else q - 1) → s.unitAdmits (.port port) w = true →
      let takes := fun (x : PeerTxn) (t : State) => Runs (.gatewayReceive ⟨port, q⟩ x) s t
      let becomes := fun (x : PeerTxn) (st : ReqState) => takes x (s.modReq id (fun y => { y with state := st }))
      let msg := fun (u : State) (h : Word) (tile : BitVec 10) (pl : List Word) => ({
        hdr := header (hdrKind h) (hdrChan h) (hdrTile h) p (hdrLen h) (hdrNt h) (hdrKey h) (hdrSeq h), titles := [], payload := pl
        ctx := ((u.tile tile).owner (hdrChan h)).elim 0 Entry.ctx, world := w } : Msg)
      (∀ flow h tile pl,
        let x := PeerTxn.message flow h tile pl w
        let k := flowKey q flow tile (hdrChan h)
        let n := find 0 s.gateway.expected k
        let seq := hdrSeq h
        (∀ t, n = seq.toNat → s.arriveAt tile (msg s h tile pl) = .accepted t → t.gateway = s.gateway → s.gateway.early = [] →
          takes x (t.passSeq k seq)) ∧
        (∀ t u h' pl', n = seq.toNat → s.arriveAt tile (msg s h tile pl) = .accepted t → t.gateway = s.gateway →
          hdrChan h' = hdrChan h → hdrSeq h' = seq + 1 → s.gateway.early = [⟨q, .message flow h' tile pl' w⟩] → t.board.accelId = own →
          let t' : State := { t.passSeq k seq with gateway := { (t.passSeq k seq).gateway with early := [] } }
          t'.arriveAt tile (msg t' h' tile pl') = .accepted u → takes x (u.passSeq k (seq + 1))) ∧
        (n = seq.toNat → s.arriveAt tile (msg s h tile pl) = .refused → takes x s) ∧
        (n ≠ seq.toNat → (seq - BitVec.ofNat 20 n).toNat < 2 ^ 19 → ⟨q, x⟩ ∉ s.gateway.early →
          takes x { s with gateway := { s.gateway with early := s.gateway.early ++ [⟨q, x⟩] } }) ∧
        (2 ^ 19 ≤ (seq - BitVec.ofNat 20 n).toNat → n < 2 ^ 20 → takes x s)) ∧
      (s.req? id = some r → r.home = .peer p → r.state = .sent →
        (∀ pa bs bad, r.kind = .remoteWrite p pa bs bad → takes (.ack id) (s.dropReq id).sweepLate) ∧
        (∀ k d bs bad, r.kind = .titleCopy k d bs bad → becomes (.ack id) (.replied (if bad then 5 else 3) .none) ∧
          becomes (.noRoom id) (.replied 4 .none)) ∧
        (r.isAmo = true → (∀ v poison indet, becomes (.atomicReply id v poison indet)
          (.replied v (if indet then .indet else if poison then .poison else .none))) ∧ becomes (.atomicParked id) .parked ∧
          takes (.atomicNotParked id) (if (s.slot r.src).wait = some (.reply id)
            then s.modReq id (fun y => { y with state := .notParked, age := 0 }) else s.dropReq id))) ∧
      let asks := s.request { die := port.extractLsb' 1 3 }
      let answer := fun (u : State) (src : Nat) (seq : BitVec 20) (a : PeerAnswer) => ({ u with gateway := { u.gateway with
        answers := (src, seq, a) :: u.gateway.answers } } : State)
      (∀ (pa : BitVec 48) n d, (s.regionWorld pa.toNat ≠ w → takes (.read pa n d w) s) ∧
        (s.regionWorld pa.toNat = w → hbmEnd ≤ pa.toNat →
          takes (.read pa n d w) (answer s 0 0 (.data (s.bytes (paKey pa.toNat) n) (s.hbmPoison (paKey pa.toNat) n)))) ∧
        (s.regionWorld pa.toNat = w → pa.toNat < hbmEnd → 0 < n → pa.toNat % 64 + n ≤ 64 →
          (∀ k t, asks d pa.toNat = .ok (k, t) → ∃ u, takes (.read pa n d w) u ∧ u.mem = s.mem ∧
            u.gateway.answers = (0, 0, .data (t.hbmRead d k n) (t.hbmPoison k n)) :: s.gateway.answers) ∧
          (∀ t, asks d pa.toNat = .error (.wait t) → takes (.read pa n d w) t) ∧
          (∀ x, asks d pa.toNat = .error (.trap x) → takes (.read pa n d w) (answer s 0 0 .withdrawn)))) ∧
      (∀ op nn (pa : BitVec 48) a cmp d flow seq re k t, s.regionWorld pa.toNat = w → pa.toNat < hbmEnd → pa.toNat % 8 = 0 →
        asks d pa.toNat = .ok (k, t) → k % 64 ≤ 56 → t.MemOk →
        let src := (q.toNat + 1) * 8192 + BitVec.toNat (w := 13) flow
        let h := t.home (.stack (BitVec.ofNat 4 (k / 2 ^ 36)))
        let v := leWord (t.hbmRead d k 8)
        let good := h.stored src seq = none ∧ re = false ∧ t.hbmPoison k 8 = false
        let ge := if nn then a.toNat ≤ v.toNat else a.toInt ≤ v.toInt
        let gives := fun (x : PeerAnswer) (more : State → Prop) => ∃ u, takes (.atomic op nn pa a cmp d w flow seq re) u ∧
          u.gateway.answers.head? = some (src, seq, x) ∧ u.slots = s.slots ∧ more u
        (∀ y m, h.stored src seq = some (y, m) → gives (.result y m) (fun u => u.mem = s.mem)) ∧
        (h.stored src seq = none → re = true → gives (.result 0 .indet) (fun u => u.mem = s.mem)) ∧
        (h.stored src seq = none → re = false → t.hbmPoison k 8 = true →
          gives (.result 0 .poison) (fun u => u.mem = s.mem ∧ (u.unit k).poison = true)) ∧
        (good → op.toNat ≤ 11 → gives (.result v .none) (fun u => AtomicTakes op nn v a cmp (leWord (u.hbmRead d k 8)) ∧
          ∀ c, ¬(k ≤ c ∧ c < k + 8) → u.hbmRead d c 1 = t.hbmRead d c 1)) ∧
        (good → op = 12 → ge → gives (.result v .none) (fun u => u.mem = s.mem)) ∧
        (good → op = 12 → ¬ge → gives (if h.parks.length < 256 then .parked else .notParked) (fun u => u.mem = s.mem ∧
          (u.home (.stack (BitVec.ofNat 4 (k / 2 ^ 36)))).parks.length = (if h.parks.length < 256 then h.parks.length + 1 else h.parks.length)))) ∧
      (∀ (pa : BitVec 48) bs bad d, s.regionWorld pa.toNat ≠ w → takes (.write pa bs bad d w) s) ∧
      (∀ (pa : BitVec 48) bs d k t, s.regionWorld pa.toNat = w → pa.toNat < hbmEnd → pa.toNat % 64 = 0 → bs.length = 64 →
        asks d pa.toNat = .ok (k, t) → takes (.write pa bs false d w) (answer (t.hbmWriteUnit k d bs) 0 0 .written)) ∧
      (∀ (pa : BitVec 48) bs d, s.regionWorld pa.toNat = w → hbmEnd ≤ pa.toNat → 0 < bs.length → pa.toNat % 64 + bs.length ≤ 64 → s.MemOk →
        ∃ t, takes (.write pa bs false d w) t ∧ t.bytes (paKey pa.toNat) bs.length = bs ∧
          t.gateway.answers = (0, 0, .written) :: s.gateway.answers ∧
          ∀ k, ¬(paKey pa.toNat ≤ k ∧ k < paKey pa.toNat + bs.length) → t.byte k = s.byte k)) ∧
    (∃ t, Runs (.supervisorQueueDrain w) s t ∧ find [] t.board.superQ (b2n w) = [] ∧
      find [] t.board.superQ (b2n !w) = find [] s.board.superQ (b2n !w) ∧ { t with board := s.board } = s)

/-- R24, R26 to R30, R65, R375: the launch window. A TAIL that would run past the ring is refused with 0x08. The descriptor at HEAD is taken while
the launch store has room: the first failing check is counted as its rejection; else the message, with the window's key, the source 0x3FF
and the next sequence number, is delivered, or stored where it is refused or an earlier launch to its channel waits. A stored launch is offered
again after 256 cycles and discarded with 0x50 after 2,000,000. 0x06 for a spawn launch without payload is log 66 (DESIGN CHOICE); that a rejection
changes nothing else, what number a launch takes, and the TILE of its record are logs 64 and 24 (DEDUCED). -/
def Obligations.LaunchWindow : Prop :=
  ∀ (s : State) (f : BitVec 5) (en bad : Bool) (tail : BitVec 32) (ws : List (Word × List Byte)),
    let v := s.func f
    let becomes := fun (i : Instr) (v' : Func) => ∃ t, Runs i s t ∧ t.func f = v' ∧ (∀ g, g ≠ f → t.func g = s.func g) ∧
      { t with funcs := s.funcs } = s
    let rejected := fun (v : Func) (c : Byte) =>
      ({ v with lastErr := c, rejects := BitVec.ofNat 32 (Nat.min 0xFFFFFFFF (v.rejects.toNat + 1)) } : Func)
    becomes (.lwctlEn f en) { v with
      lwEn := en, lwHead := if en = true ∧ v.lwEn = false then 0 else v.lwHead, lwTail := if en = true ∧ v.lwEn = false then 0 else v.lwTail } ∧
    becomes (.lwctlClrerr f) { v with rejects := 0, lastErr := 0 } ∧
    (∃ t, Runs (.lwtail f tail ws) s t ∧ t.mem = (s.hostWrites ws).mem ∧ t.func f =
      (if 2 ^ v.lwLog.toNat < (tail - v.lwHead).toNat then rejected v 0x08 else { v with lwTail := tail })) ∧
    (v.lwEn = false ∨ v.lwTail = v.lwHead ∨ 64 ≤ v.store.length → Runs (.descriptorConsume f bad) s s) ∧
    (v.lwEn = true → v.lwTail ≠ v.lwHead → v.store.length < 64 →
      let d := descriptorOf (dwords 8 (s.bytes (hostKey (v.lwBase.toNat + v.lwHead.toNat % 2 ^ v.lwLog.toNat * 64)) 64))
      let c := s.ctx d.ctx
      let kind := hdrKind d.hdr
      let len := (hdrLen d.hdr).toNat
      let own := (s.tile d.tile).owner (hdrChan d.hdr)
      let b1 := d.reservedOk = false ∨ (d.inl = false ∧ d.addr.toNat % 8 ≠ 0)
      let b3 := 32 < len ∨ (d.inl = true ∧ 4 < len)
      let b4 := own = none ∨ (s.tile d.tile).inService = false
      let b5 := ∃ e, own = some e ∧ (c.state = 0 ∨ c.func ≠ f ∨ e.ctx ≠ d.ctx ∨ c.rerun = 2)
      let b7 := d.inl = false ∧ bad = true
      let b6 := ∃ e, own = some e ∧ kind = 1 ∧ e.holds ((s.launchPayload d).getD 0 0) = false
      let rejects := fun (n : Byte) => becomes (.descriptorConsume f bad) (rejected { v with lwHead := v.lwHead + 1 } n)
      (b1 → rejects 0x01) ∧ (¬b1 → 2 ≤ kind.toNat → rejects 0x02) ∧ (¬b1 → kind.toNat < 2 → b3 → rejects 0x03) ∧
      (¬b1 → kind.toNat < 2 → ¬b3 → b4 → rejects 0x04) ∧ (¬b1 → kind.toNat < 2 → ¬b3 → ¬b4 → b5 → rejects 0x05) ∧
      (¬b1 → kind.toNat < 2 → ¬b3 → ¬b4 → ¬b5 → b7 → rejects 0x07) ∧
      (¬b1 → kind.toNat < 2 → ¬b3 → ¬b4 → ¬b5 → ¬b7 → b6 → rejects 0x06) ∧
      (¬b1 → kind.toNat < 2 → ¬b3 → ¬b4 → ¬b5 → ¬b7 → ¬b6 →
        let k := seqKey 0x3FF d.tile (hdrChan d.hdr)
        let n := find 0 v.seqs k
        let m : Msg := { hdr := header kind (hdrChan d.hdr) d.tile 0x3FF (hdrLen d.hdr) 0 v.lwKey n, payload := s.launchPayload d, ctx := d.ctx,
                         world := c.world, host := true }
        let v1 := { v with lwHead := v.lwHead + 1, seqs := put v.seqs k (n + 1) }
        let s1 := s.setFunc f v1
        let waits := v.store.any (fun x => x.tile == d.tile && hdrChan x.msg.hdr == hdrChan d.hdr)
        (∀ t, waits = false → s1.arriveAt d.tile m = .accepted t → Runs (.descriptorConsume f bad) s t) ∧
        (waits = false → s1.arriveAt d.tile m = .refused →
          becomes (.descriptorConsume f bad) { v1 with store := v.store ++ [{ tile := d.tile, msg := m, refused := true }] }) ∧
        (waits = true → becomes (.descriptorConsume f bad) { v1 with store := v.store ++ [{ tile := d.tile, msg := m }] }))) ∧
    (∀ i x, v.store[i]? = some x →
      let first := (v.store.take i).all (fun y => !(y.tile == x.tile && hdrChan y.msg.hdr == hdrChan x.msg.hdr))
      (x.sinceOffer < 256 → Runs (.launchReoffer f i) s s) ∧
      (∀ t, 256 ≤ x.sinceOffer → first = true → s.arriveAt x.tile x.msg = .accepted t →
        Runs (.launchReoffer f i) s (t.modFunc f (fun v => { v with store := v.store.eraseIdx i }))) ∧
      (256 ≤ x.sinceOffer → first = true → s.arriveAt x.tile x.msg = .refused →
        becomes (.launchReoffer f i) { v with store := v.store.set i { x with sinceOffer := 0, refused := true } }) ∧
      (x.sinceRefusal < 2000000 → Runs (.launchDiscard f i) s s) ∧
      (∀ e, 2000000 ≤ x.sinceRefusal → (s.tile x.tile).owner (hdrChan x.msg.hdr) = some e →
        ∃ rec : FaultRec, rec.cause = 0x50 ∧ rec.typ = 2 ∧ rec.ctx = e.ctx ∧ rec.tile = x.tile ∧ rec.info = chanInfo (hdrChan x.msg.hdr) x.tile ∧
          rec.peer = 0x3FF ∧ Runs (.launchDiscard f i) s ((s.setFunc f { v with store := v.store.eraseIdx i }).pushFunc rec)))

/-- R4, R24, R25, R26, R45, R46, R111, R134, R135: a write of a register of the host or of firmware stores its field: a ring's size within its limits and, with its base, only while the
ring is off; FRHEAD; a domain's budget; GKEY of an entry whose context is admitted; a watchdog limit of 1,024 or more, each
only while no firing of the entry is in a slot; BAR0's registers read at their offsets. FRCTL.EN from 0 to 1
zeroes FRHEAD and FRTAIL; a write of FRSTAT zeroes DROPS. The host reads and writes through CXL.mem the memory outside HBM that firmware has
marked host-visible, and no other. The write that takes records from the terminal ring is log 36, a mark of whole ranges log 40, the threshold of
refresh management log 54 and the read-only LWKEY of a function's own window log 64, all DEDUCED. -/
def Obligations.RegistersTakeWrites : Prop :=
  ∀ (s : State) (f : BitVec 5) (t : BitVec 10) (e : BitVec 6) (d : BitVec 10) (w : Word) (en : Bool) (n : Nat) (pa : BitVec 48) (bs : List Byte),
    let v := s.func f
    let size := BitVec.ofNat 5 (Nat.max 4 (Nat.min 16 (w.toNat % 32)))
    let base := BitVec.ofNat 64 (w.toNat / 64 * 64)
    let func := fun (i : Instr) (v' : Func) => ∃ u, Runs i s u ∧ u.func f = v' ∧ (∀ g, g ≠ f → u.func g = s.func g) ∧ { u with funcs := s.funcs } = s
    let entry := fun (r : PlainReg) (x : Entry) => ∃ u, Runs (.registerWrite r w) s u ∧ u.entry t e = x ∧ (∀ m, m ≠ e → u.entry t m = s.entry t m) ∧
      (∀ c, c ≠ t → u.tile c = s.tile c) ∧ { u with tiles := s.tiles } = s
    func (.registerWrite (.lwctlLogsize f) w) { v with lwLog := if v.lwEn then v.lwLog else size } ∧
    func (.registerWrite (.lwbase f) w) { v with lwBase := if v.lwEn then v.lwBase else base } ∧
    func (.registerWrite (.lwkey f) w) { v with lwKey := w.extractLsb' 0 8 } ∧
    func (.registerWrite (.frctlLogsize f) w) { v with frLog := if v.frEn then v.frLog else size } ∧
    func (.registerWrite (.frbase f) w) { v with frBase := if v.frEn then v.frBase else base } ∧
    func (.registerWrite (.frhead f) w) { v with frHead := w.extractLsb' 0 32 } ∧
    func (.frctlEn f en) { v with
      frEn := en, frHead := if en = true ∧ v.frEn = false then 0 else v.frHead, frTail := if en = true ∧ v.frEn = false then 0 else v.frTail } ∧
    func (.frstatDrops f) { v with drops := 0 } ∧
    (∃ u, Runs (.registerWrite (.budget d) w) s u ∧ u.domain d = { s.domain d with
      actRate := w.extractLsb' 32 16, actBurst := w.extractLsb' 16 16, rfmCost := w.extractLsb' 8 8 } ∧ { u with domains := s.domains } = s) ∧
    ((s.ctx (s.entry t e).ctx).gateAdmitted = true → s.entryIdle t e = true → entry (.gkey t e) { s.entry t e with gkey := w.extractLsb' 0 8 }) ∧
    ((s.ctx (s.entry t e).ctx).gateAdmitted = false ∨ s.entryIdle t e = false → Runs (.registerWrite (.gkey t e) w) s s) ∧
    (1024 ≤ w.toNat % 2 ^ 32 → s.entryIdle t e = true → entry (.wdog t e) { s.entry t e with wdog := w.extractLsb' 0 32 }) ∧
    (w.toNat % 2 ^ 32 < 1024 ∨ s.entryIdle t e = false → Runs (.registerWrite (.wdog t e) w) s s) ∧
    (∃ u, Runs (.registerWrite .termTaken w) s u ∧ u.rings = { s.rings with term := s.rings.term.drop w.toNat } ∧ { u with rings := s.rings } = s) ∧
    (∀ lo hi : BitVec 48, ∃ u, Runs (.registerWrite (.hostMark lo hi) w) s u ∧ { u with board := s.board } = s ∧
      ∀ r, r ∈ u.board.hostVisible ↔ (r ∈ s.board.hostVisible ∧ r ≠ (lo.toNat, hi.toNat)) ∨ (r = (lo.toNat, hi.toNat) ∧ w.getLsbD 0 = true)) ∧
    (∃ u, Runs (.registerWrite .rfmThreshold w) s u ∧ u.hbm = { s.hbm with rfmThreshold := w.toNat } ∧ { u with hbm := s.hbm } = s) ∧
    (∃ u, Runs (.registerWrite (.other n) w) s u ∧ find 0 u.board.regs n = w ∧ { u with board := s.board } = s) ∧
    (s.entryIdle t e = false ↔ ∃ i : SlotId, i.tile = t ∧ (s.slot i).busy = true ∧ (s.slot i).entry = e) ∧
    (∀ x : BitVec 12, x ∉ [0x000, 0x008, 0x018, 0x100, 0x108, 0x110, 0x120] → func (.registerWrite (.bar f x) w) v) ∧
    func (.registerWrite (.bar f 0x110) w) { v with frHead := w.extractLsb' 0 32 } ∧ func (.registerWrite (.bar f 0x120) w) { v with drops := 0 } ∧
    (v.barRead 0x000 = BitVec.ofNat 64 (256 * v.lwLog.toNat + b2n v.lwEn) ∧ v.barRead 0x008 = v.lwBase ∧ v.barRead 0x010 = v.lwHead.setWidth 64 ∧
      v.barRead 0x018 = v.lwTail.setWidth 64 ∧ v.barRead 0x020 = BitVec.ofNat 64 (65536 * v.rejects.toNat + v.lastErr.toNat) ∧
      v.barRead 0x028 = v.lwKey.setWidth 64 ∧ v.barRead 0x100 = BitVec.ofNat 64 (256 * v.frLog.toNat + b2n v.frEn) ∧ v.barRead 0x108 = v.frBase ∧
      v.barRead 0x110 = v.frHead.setWidth 64 ∧ v.barRead 0x118 = v.frTail.setWidth 64 ∧ v.barRead 0x120 = v.drops.setWidth 64) ∧
    let visible := ∀ m < bs.length, hbmEnd ≤ pa.toNat + m ∧ ∃ r ∈ s.board.hostVisible, r.1 ≤ pa.toNat + m ∧ pa.toNat + m < r.2
    (¬visible → Runs (.cxlMemRequest en pa bs) s s) ∧
    (visible → Runs (.cxlMemRequest false pa bs) s { s with board := { s.board with
      hostData := s.bytes (paKey pa.toNat) bs.length, hostBad := s.hbmPoison (paKey pa.toNat) bs.length } }) ∧
    (visible → s.MemOk → ∃ u, Runs (.cxlMemRequest true pa bs) s u ∧ u.bytes (paKey pa.toNat) bs.length = bs ∧
      ∀ k, ¬(paKey pa.toNat ≤ k ∧ k < paKey pa.toNat + bs.length) → u.byte k = s.byte k)

/-! ### Boot, power, contexts (chapters 01, 03, 05) -/

/-- R35 to R38, R87: power-good with an image of firmware whose signature fails halts at step 2, of a monitor at step 4, and function 0 reports the
step; else the package comes to step 4 with measurement registers 0 and 1 extended, the regions, worlds, links and stacks of the image, and no
firing or context. Step 5 makes it ready with the tiles of the image, and the id of the image or the one that function 0 has set since
power-good. A signed component extends the next register, 2 to 7 in load order. The SPDM requests are answered in the order they need, each before its
turn with the error response (the order is the model's, log 5; a component after the eighth is not measured, log 66): VERSION offers 1.3, ALGORITHMS
names ML-DSA-44 and SHA3-256, and what is signed carries a nonce and a signature. The layouts are those of DSP0274 (log 72, PRESUMED). Power-good as
two events, the halt for the monitor's signature, and the memory kept are the model's reading (log 56, DEDUCED).

R40, R41, R339: above the power limit the clocks of all dies fall by 125 MHz, at 100 °C that of the die; below 95 °C, within the limit, it rises by
125 up to 2,000; a clock steps once in 1 ms at most; at 110 °C the package is stopped; a limit from 1,600 to 3,200 W is taken; nothing but the board
changes. The report, one a millisecond, holds the readings given, each stack's corrected errors, every link's ZLINK with its 52 ZGS, LIVECAP, LIVEMASK, MSTATE and MWMARK. The over-power reading kept, that 1 ms is counted per clock, and that
no step follows a thermal stop are the model's reading (log 56, DEDUCED). -/
def Obligations.BoardEvents : Prop :=
  (∀ (s : State) (m : BootImage) (id : BitVec 10) (dg : Component) (nonce : BitVec 256) (sg : Bool) (n k : Nat),
    let b := s.board
    let hash := fun (x y : BitVec 256) => sha3 (leBytes 32 x.toNat ++ leBytes 32 y.toNat)
    let block := fun (n : Nat) (kind : Byte) (x : List Byte) =>
      [BitVec.ofNat 8 n, 1] ++ leBytes 2 (3 + x.length) ++ [kind] ++ leBytes 2 x.length ++ x
    let one := fun (i : Fin 8) => block (i.val + 1) 0x01 (leBytes 32 b.measures[i].toNat) ++ block (i.val + 9) 0x87 (leBytes 8 b.versions[i].toNat)
    let all := (List.finRange 8).flatMap one
    let digest := leBytes 32 (sha3 Config.certificateChain).toNat
    let mine := leBytes 32 (Config.spdmNonce s.ticks).toNat
    let measured := fun (n : Nat) (x : List Byte) =>
      let y := [0x13, 0x60, 0, 0, BitVec.ofNat 8 n] ++ leBytes 3 x.length ++ x ++ mine ++ [0, 0] ++ List.replicate 8 0
      y ++ Config.deviceSign y
    let halts := fun (step : Nat) (m0 : BitVec 256) => ∃ t, Runs (.powerGood (.start m)) s t ∧ t.board.halted = true ∧ t.board.ready = false ∧
      t.board.step = step ∧ t.board.failed = some step ∧ t.board.measures[0] = m0 ∧ t.board.image = none ∧ t.slots = [] ∧ t.tiles = []
    let answers := fun (i : Instr) (needs next : Nat) (body : List Byte) =>
      let reply := fun (st : Nat) (x : List Byte) => ({ s with board := { b with spdm := st, response := x } } : State)
      (b.ready = false → Runs i s s) ∧ (b.ready = true → b.spdm < needs → Runs i s (reply b.spdm [0x13, 0x7F, 0x04, 0])) ∧
      (b.ready = true → needs ≤ b.spdm → Runs i s (reply next body))
    ((Instr.powerGood (.start m)).wf = true → ∀ pa, pa < 2 ^ 48 → ∃ r ∈ m.regions, r.1 ≤ pa ∧ pa < r.2.1 ∧
      ∀ q ∈ m.regions, q.1 ≤ pa → pa < q.2.1 → q = r) ∧
    (m.firmwareSigned = false → halts 2 0) ∧
    (m.firmwareSigned = true → m.monitorSigned = false → halts 4 (hash 0 m.firmware.digest)) ∧
    (m.firmwareSigned = true → m.monitorSigned = true → ∃ t, Runs (.powerGood (.start m)) s t ∧
      t.board.ready = false ∧ t.board.halted = false ∧ t.board.stopped = false ∧ t.board.step = 4 ∧ t.board.image = some m ∧ t.board.nextMeasure = 2 ∧
      t.board.accelOver = none ∧ t.board.regions = m.regions ∧ t.board.unitsSecure = m.secureUnits ∧ t.board.hostVisible = m.hostVisible ∧
      (∀ i : Fin 8, t.board.measures[i] = if i = 0 then hash 0 m.firmware.digest else if i = 1 then hash 0 m.monitor.digest else 0) ∧
      (∀ i : Fin 8, t.board.versions[i] = if i = 0 then m.firmware.version else if i = 1 then m.monitor.version else 0) ∧
      t.hbm.errorLimit = m.errorLimit ∧ t.hbm.liveMask = m.liveMask ∧ t.hbm.liveCap = BitVec.ofNat 40 ((liveOf m.liveMask).length * 48 * 2 ^ 30) ∧
      (∀ l ∈ m.withdrawnLinks, (t.link l.1 l.2).state = 3 ∧ (t.link l.2 l.1).state = 3) ∧
      t.slots = [] ∧ t.tiles = [] ∧ t.ctxs = [] ∧ t.jobs = [] ∧ t.reqs = [] ∧ t.pools = [] ∧ t.grans = [] ∧ t.time = 0 ∧
      t.cycles = Vector.replicate 8 0 ∧ (∀ a, 2 ^ 70 ≤ a → t.byte a = s.byte a)) ∧
    (b.image = none → Runs (.powerGood .release) s s ∧ Runs (.accelIdOverride id) s s) ∧
    (b.image = some m → ∃ t, Runs (.powerGood .release) s t ∧
      t.board = { b with step := 5, ready := true, image := none, accelId := b.accelOver.getD m.accelId } ∧
      (∀ u, (t.tile u).inService = !m.outOfService.contains u ∧ (t.tile u).world = m.secureClusters.contains (clusterOf u)) ∧
      (∀ c, (t.cluster c).world = m.secureClusters.contains c) ∧ { t with board := b, tiles := s.tiles, clusters := s.clusters } = s) ∧
    (b.image.isSome = true → Runs (.accelIdOverride id) s { s with board := { b with accelOver := some id } }) ∧
    (sg = true → b.ready = true → b.nextMeasure ≤ 7 → ∃ t, Runs (.signedComponentLoad dg sg) s t ∧ t.board.nextMeasure = b.nextMeasure + 1 ∧
      (∀ i : Fin 8, t.board.measures[i] = (if i.val = b.nextMeasure then hash b.measures[i] dg.digest else b.measures[i]) ∧
        t.board.versions[i] = if i.val = b.nextMeasure then dg.version else b.versions[i]) ∧
      { t with board := s.board } = s) ∧
    (sg = false ∨ b.ready = false ∨ 7 < b.nextMeasure → Runs (.signedComponentLoad dg sg) s s) ∧
    answers .getVersion 0 1 [0x10, 0x04, 0, 0, 0, 1, 0x00, 0x13] ∧
    answers .getCapabilities 1 2 ([0x13, 0x61, 0, 0, 0, Config.spdmTime, 0, 0, 0x16, 0, 0, 0] ++ leBytes 4 Config.spdmTransfer ++
      leBytes 4 Config.spdmSize) ∧
    answers .negotiateAlgorithms 2 3 ([0x13, 0x63, 0, 0, 40, 0, 1, 0, 0x10, 0, 0, 0, 0, 0, 0, 0, 0x08, 0, 0, 0] ++ List.replicate 12 0 ++ [1, 0, 0, 0] ++
      leBytes 4 Config.mlDsa44) ∧
    answers .getDigests 3 3 ([0x13, 0x01, 1, 1] ++ digest) ∧
    (let portion := (Config.certificateChain.drop n).take k
     answers (.getCertificate n k) 3 3 ([0x13, 0x02, 0, 0] ++ leBytes 2 portion.length ++
       leBytes 2 (Config.certificateChain.length - n - portion.length) ++ portion)) ∧
    (∀ i : Fin 8, answers (.getMeasurements i.val) 3 3 (measured 2 (one i))) ∧
    (8 ≤ k → answers (.getMeasurements k) 3 3 (measured 16 all)) ∧
    (b.ready = false → Runs (.challenge nonce) s s) ∧
    (b.ready = true → b.spdm < 3 → Runs (.challenge nonce) s { s with board := { b with response := [0x13, 0x7F, 0x04, 0] } }) ∧
    (let y := [0x13, 0x03, 0, 1] ++ digest ++ mine ++ leBytes 32 (sha3 all).toNat ++ [0, 0] ++ List.replicate 8 0
     b.ready = true → 3 ≤ b.spdm → Runs (.challenge nonce) s { s with board := { b with
       spdm := 3, nonce := nonce, response := y ++ Config.deviceSign (leBytes 32 nonce.toNat ++ y) } })) ∧
  (∀ (s : State) (d e : BitVec 3) (temp w : Nat) (r : Readings),
    let b := s.board
    let due := fun (x : Fin 8) => 1000000 ≤ b.sinceClock[x]
    let clocks := fun (i : Instr) (steps : Fin 8 → Prop) (f : Nat → Nat) (over_ : Bool) => ∃ t, Runs i s t ∧
      (∀ x : Fin 8, (steps x → t.board.clocks[x] = f b.clocks[x] ∧ t.board.sinceClock[x] = 0) ∧
        (¬steps x → t.board.clocks[x] = b.clocks[x] ∧ t.board.sinceClock[x] = b.sinceClock[x])) ∧
      t.board = { b with clocks := t.board.clocks, sinceClock := t.board.sinceClock, overPower := over_ } ∧ { t with board := s.board } = s
    clocks (.clockStepDown d temp w) (fun x => due x ∧ (b.powerLimit < w ∨ (100 ≤ temp ∧ x.val = d.toNat))) (fun c => c - 125)
      (decide (b.powerLimit < w)) ∧
    (temp < 95 → b.overPower = false → 1000000 ≤ b.sinceClock[d.toNat] →
      clocks (.clockStepUp d temp) (fun x => x.val = d.toNat) (fun c => Nat.min 2000 (c + 125)) b.overPower) ∧
    (95 ≤ temp ∨ b.overPower = true ∨ b.sinceClock[d.toNat] < 1000000 → Runs (.clockStepUp d temp) s s) ∧
    (110 ≤ temp → Runs (.thermalStop d temp) s { s with board := { b with stopped := true } }) ∧
    (temp < 110 → Runs (.thermalStop d temp) s s) ∧
    (1600 ≤ w → w ≤ 3200 → Runs (.powerLimitSet w) s { s with board := { b with powerLimit := w } }) ∧
    (w < 1600 ∨ 3200 < w → Runs (.powerLimitSet w) s s) ∧
    (b.sinceReport < 1000000 → Runs (.telemetryReport r) s s) ∧
    (1000000 ≤ b.sinceReport → ∃ t, Runs (.telemetryReport r) s t ∧ { t with board := s.board } = s ∧
      t.board.overPower = decide (b.powerLimit < r.modulePower) ∧ t.board.sinceReport = 0 ∧
      ∃ links : List Nat, t.board.report = r.dieTemp ++ r.diePower ++ [r.modulePower, r.coolantInlet] ++ r.stackTemp ++
          (List.range 16).map (fun n => find 0 s.hbm.corrected n) ++ links ++
          [s.hbm.liveCap.toNat, s.hbm.liveMask.toNat, (s.hbm.reg 1).toNat, s.hbm.wmark.toNat] ∧
        (d ≠ e →
          let l := s.link d e
          let at_ := 53 * (7 * d.toNat + e.toNat - (if d.toNat < e.toNat then 1 else 0))
          links.length = 56 * 53 ∧ links[at_]? = some (e.toNat * 256 + 4 * l.live + l.state.toNat) ∧
          ∀ n, n < 52 → links[at_ + 1 + n]? = some (let g := l.group (BitVec.ofNat 6 n)
            g.retrains.toNat * 2 ^ 24 + g.lanes.toNat * 2 ^ 16 + g.mask.toNat))))

/-- R44, R45, R64, R71, R85, R92, R96: a context that firmware may create is running with the fields of its descriptor, an empty title table and a zeroed top
page; a number in use, RERUN 0b11 or a table out of bounds changes nothing. A switch stops a running context; with no firing or job left
its arenas and joint regions are saved and zeroed; the restore brings every byte back. A context ends with its cached lines, TLB entries and
entries discarded, and its descriptor free. A domain's key is new at its creation and gone at its end. What is refused, and a DOMAIN_CREATE or DOMAIN_DESTROY without effect, is log 50; the save that
waits for jobs, and the restore, log 52, both DEDUCED. -/
def Obligations.ContextsComeAndGo : Prop :=
  ∀ (s : State) (r : CtxRequest) (c : BitVec 8) (d : BitVec 10), s.MemOk →
    let v := s.ctx c
    (s.createOk r = true → ∃ t, Runs (.contextCreate r) s t ∧
      (let u := t.ctx r.ctx
       u.state = 1 ∧ u.world = r.world ∧ u.domain = r.domain ∧ u.key = r.key ∧ u.func = r.func ∧ u.rerun = r.rerun ∧ u.globals = r.globals ∧
       u.saveArea = r.saveArea ∧ u.faultArea = r.faultArea ∧ u.top = r.top ∧ u.en = true ∧ u.table = [] ∧ u.tableSize = r.tableSize ∧
       u.rseed = r.rseed) ∧
      (∀ e, e ≠ r.ctx → t.ctx e = s.ctx e) ∧ t.slots = s.slots ∧ t.tiles = s.tiles ∧
      (∀ x o, s.hbm.nowPlace r.top.toNat = some (x, o) → ∀ k,
        t.byte k = if hbmKey x o 0 ≤ k ∧ k < hbmKey x o 0 + 4096 then 0 else s.byte k)) ∧
    ((s.ctx r.ctx).state ≠ 0 ∨ r.rerun = 3 ∨ r.tableSize < 2 ^ 10 ∨ 2 ^ 20 < r.tableSize → Runs (.contextCreate r) s s) ∧
    (v.state = 1 → Runs (.contextSwitch c) s (s.setCtx c { v with state := 2 })) ∧ (v.state ≠ 1 → Runs (.contextSwitch c) s s) ∧
    (let quiet := (∀ e ∈ s.slots, ¬(e.2.busy = true ∧ e.2.ctx = c)) ∧ (∀ j ∈ s.jobs, j.ctx = c → 3 ≤ j.status.toNat)
     (v.state ≠ 2 ∨ v.killed = true ∨ ¬quiet → Runs (.contextSave c) s s) ∧
     (v.state = 2 → v.killed = false → quiet → ∃ t, Runs (.contextSave c) s t ∧ (t.ctx c).state = 3 ∧
       (∀ k, t.byte k = if ∃ q ∈ s.savedRanges c, q.1 ≤ k ∧ k < q.1 + q.2 then 0 else s.byte k) ∧
       (v.parked = [] → v.saved.cells = [] → ∃ u, Runs (.contextRestore c) t u ∧ (u.ctx c).state = 1 ∧ (∀ k, u.byte k = s.byte k)))) ∧
    (v.state ≠ 3 → Runs (.contextRestore c) s s) ∧
    (s.endable c = false → Runs (.contextEnd c) s s) ∧
    (s.endable c = true → ∃ t, Runs (.contextEnd c) s t ∧ t.ctx c = {} ∧
      (∀ l, (∀ x ∈ (t.cluster l).lines, x.ctx ≠ c) ∧ (∀ x ∈ (t.cluster l).tlb, x.ctx ≠ c)) ∧
      (∀ u n, (t.entry u n).valid = true → (t.entry u n).ctx ≠ c) ∧
      ((∀ e ∈ s.pools, e.2.configured = true → e.2.ctx ≠ c) → t.mem = s.mem)) ∧
    (let x := s.domain d
     (x.live = false → Runs (.domainCreate d) s (s.modDomain d (fun x => { x with live := true, epoch := x.epoch + 1 }))) ∧
     (x.live = true → Runs (.domainCreate d) s s) ∧
     (x.live = true → (∀ e ∈ s.ctxs, e.2.state ≠ 0 → e.2.domain ≠ d) →
       Runs (.domainDestroy d) s (s.modDomain d (fun x => { x with live := false, epoch := x.epoch + 1 }))) ∧
     (x.live = false ∨ (∃ e ∈ s.ctxs, e.2.state ≠ 0 ∧ e.2.domain = d) → Runs (.domainDestroy d) s s))

/-- R46, R189, R282, R283: a load that the loader accepts leaves, for every handler and every tile it is placed on, a valid entry with the fields of its
directive, at the index given where one is given; a load refused (an entry or trap PC outside the code, a watchdog limit under 1,024, a
capacity of 0 or more than 64, a rate over 32, an allotment of more than 64 units) produces nothing. POD_LOAD onto a ring of 2 to 1024 packages with this one
loads its part alike, with the window title of the package at the next place, whose base is W + 2^36; where one package refuses nothing stays. Two landing areas of one tile are refused. That MASK is 0 after a load is log 51
(DEDUCED: R189 has no keyword for it). -/
def Obligations.GraphsLoad : Prop :=
  ∀ (s : State) (g : Graph) (p : PodLoad),
    let outside := fun (p : BitVec 56) => p.toNat < g.codeLo.toNat ∨ g.codeHi.toNat ≤ p.toNat
    let placed := fun (u : State) => ∀ h ∈ g.handlers, ∀ t ∈ h.tiles, ∃ n, (∀ m, h.index = some m → n = m) ∧
      (let e := u.entry t n
       e.valid = true ∧ e.ctx = g.ctx ∧ e.prio = h.prio ∧ e.eprio = h.prio ∧ e.cclass = h.cclass ∧ e.mask = false ∧ e.rateP = h.rate ∧
       e.rateS = h.srate ∧ e.prod = h.prod ∧ e.slab = h.slab ∧ e.chcap = h.cap ∧ e.entryPc = h.entry ∧ e.codeLo = g.codeLo ∧
       e.codeHi = g.codeHi ∧ e.trapPc = h.trap ∧ e.wdog = h.wdog ∧ e.age = 0 ∧ e.sec.isSome = h.sec.isSome ∧
       (e.gateOn = true ↔ (s.ctx g.ctx).gateAdmitted = true ∧ h.gate.isSome = true))
    let ring := 2 ≤ p.pod.length ∧ p.pod.length ≤ 1024 ∧ p.pod.Nodup ∧ s.board.accelId ∈ p.pod ∧ p.refused = false
    (∀ u, s.load g none = some u → Runs (.graphLoad g) s u ∧ placed u ∧ (ring → p.window = none → Runs (.podLoad g p) s u)) ∧
    (∀ n w u, ring → p.window = some n → s.podWindow g p.pod n = some w → s.load g (some w) = some u → Runs (.podLoad g p) s u ∧ placed u) ∧
    (∀ n w, s.podWindow g p.pod n = some w → ∃ k x, p.pod[k]? = some s.board.accelId ∧ g.titles[n]? = some x ∧ x.loc = .hbm ∧ x.writable = false ∧
      w.base = x.base.toNat + 2 ^ 36 ∧ w.len = (x.len + 255) / 256 * 256 ∧
      w.peer = peerNumber s.board.accelId (p.pod.getD ((k + 1) % p.pod.length) 0)) ∧
    (s.load g none = none → Runs (.graphLoad g) s s ∧ (p.window = none → Runs (.podLoad g p) s s)) ∧
    (¬ring → Runs (.podLoad g p) s s) ∧
    (¬(g.landing.map LandingSpec.tile).Nodup → Runs (.graphLoad g) s s ∧ Runs (.podLoad g p) s s) ∧
    ((∃ h ∈ g.handlers, outside h.entry ∨ outside h.trap ∨ h.wdog.toNat < 1024 ∨ h.cap = 0 ∨ 64 < h.cap.toNat ∨ 64 < h.slab.toNat ∨
        32 < h.rate.toNat ∨ 32 < h.srate.toNat ∨ 32 < h.prod.toNat) →
      Runs (.graphLoad g) s s ∧ Runs (.podLoad g p) s s)

/-! ### Messages on their way (chapters 03 and 07) -/

/-- R18, R49 to R51, R65, R117, R203, R204, R374: a copy without titles that has departed, with no earlier message of its slot to the channel left,
sets out over the fabric at its offer where its tile is on another die. Once there, it is placed at the end of its channel where the chip or the
ring has room (8 ring places are kept for the tile's own firings of the context) and leaves the buffer; else it is refused, and is offered again
after 256 cycles; after 2,000,000 it is discarded with 0x50. A key or world that differs diverts it with 0x51. A free buffer goes to the first in
line; a POST departs once nothing that it awaits is left. The order of the line and what counts as free are log 15, the packet of a copy log 55,
the source in the records log 24, all DEDUCED. -/
def Obligations.MessagesArrive : Prop :=
  ∀ (s : State) (t : BitVec 10) (n : Nat) (d : BitVec 10) (c : Copy) (e : Entry),
    let b := s.buffer t n
    let ch := hdrChan c.hdr
    let m := { b.msg with hdr := c.hdr }
    let rest := b.copies.filter (fun x => x.tile != d)
    let k := s.chan d ch
    let gone := fun (u : State) => if rest = [] then ∀ x ∈ (u.tile t).outbox, x.1 ≠ n else u.buffer t n = { b with copies := rest }
    let crosses := fun (u : State) => { u with tiles := s.tiles, board := s.board } = s ∧ { u.board with home := s.board.home } = s.board ∧
      (dieOf t = dieOf d → u.board = s.board)
    let there := dieOf t = dieOf d ∨ ∃ q, c.packet = some q ∧ s.legOf (some q) = .home
    let away := dieOf t ≠ dieOf d ∧ ∃ q, c.packet = some q ∧ s.legOf (some q) = .away
    let starts := dieOf t ≠ dieOf d ∧ ∀ q, c.packet = some q → s.legOf (some q) = .lost
    let free := k.ring - (k.recs.length - k.onChip)
    let own := hdrKind c.hdr = 3 ∨ ∃ i, m.src = some i ∧ i.tile = d ∧ m.ctx = e.ctx ∧ hdrPeer c.hdr = 0x3FF
    let chip := k.onChip < k.cap ∧ k.recs.length ≤ k.onChip ∧ (s.ctx e.ctx).state = 1
    let takes := chip ∨ 8 < free ∨ (0 < free ∧ own)
    let first := s.entry d ch
    let pass := hdrKind c.hdr = 3 ∨ (if first.valid = true ∧ first.gateOn = true then hdrKey c.hdr = first.gkey else m.world = (s.ctx e.ctx).world)
    (b.copyFor d = some c → b.msg.titles = [] → b.element = none → (s.tile d).owner ch = some e → (s.ctx e.ctx).rerun ≠ 2 → (m.host = true → (s.ctx m.ctx).rerun ≠ 2) →
      (b.departed = true → b.forJob = false → b.peer = 0x3FF → s.heldBack t b d ch = false → s.reach (dieOf t) (dieOf d) = true →
        ∀ i, (i = .messageArrive t n d ∧ c.refused = false) ∨ (i = .messageReoffer t n d ∧ c.refused = true ∧ 256 ≤ c.sinceOffer) →
          (starts → ∃ u, Runs i s u ∧ u.buffer t n = { b with copies := b.copies.map (fun x =>
              if x.tile = d then { x with packet := some (s.nextId + 1) } else x) } ∧
            { u with tiles := s.tiles, links := s.links, nextId := s.nextId } = s ∧ (∀ j, u.chan j = s.chan j)) ∧
          (away → Runs i s s) ∧
          (there → pass → takes → ∃ u, Runs i s u ∧ (u.chan d ch).recs = k.recs ++ [{ msg := m }] ∧ (u.chan d ch).onChip = k.onChip + (if chip then 1 else 0) ∧
            gone u ∧ crosses u) ∧
          (there → pass → ¬takes → ∃ u, Runs i s u ∧ u.buffer t n = { b with copies := b.copies.map (fun x =>
              if x.tile = d then { x with refused := true, sinceOffer := 0, packet := none } else x) } ∧ u.chan d ch = k ∧ crosses u) ∧
          (there → ¬pass → ∃ u rec, Runs i s u ∧ rec.cause = 0x51 ∧ rec.typ = 2 ∧ rec.ctx = m.ctx ∧ rec.info = chanInfo ch d ∧
            rec.entry = (if m.src.isSome then m.entry else 0) ∧ u.chan d ch = k ∧ gone u ∧
            u.funcs = (s.pushFunc rec).funcs ∧
            find [] u.board.superQ (b2n (s.ctx e.ctx).world) = find [] s.board.superQ (b2n (s.ctx e.ctx).world) ++ [m])) ∧
      (b.peer = 0x3FF → c.refused = true → 2000000 ≤ c.sinceRefusal → ∃ u rec, Runs (.messageDiscard t n d) s u ∧ gone u ∧ rec.cause = 0x50 ∧ rec.typ = 2 ∧
        rec.ctx = e.ctx ∧ rec.info = chanInfo ch d ∧ rec.entry = (if m.src.isSome then m.entry else 0) ∧ u.funcs = (s.pushFunc rec).funcs ∧ u.slots = s.slots ∧ u.mem = s.mem)) ∧
    (b.copyFor d = some c → c.sinceOffer < 256 → Runs (.messageReoffer t n d) s s) ∧
    (b.copyFor d = some c → c.refused = false ∨ c.sinceRefusal < 2000000 → Runs (.messageDiscard t n d) s s) ∧
    ((s.tile t).outWaiters = [] ∨ s.outFree t = 0 → Runs (.outboxGrant t) s s) ∧
    (∀ w ws, (s.tile t).outWaiters = w :: ws → 0 < s.outFree t → ∃ u, Runs (.outboxGrant t) s u ∧ (u.tile t).outWaiters = ws ∧
      u.slot ⟨t, w.1, w.2⟩ = { s.slot ⟨t, w.1, w.2⟩ with granted := true } ∧ (u.tile t).outbox = (s.tile t).outbox ∧ u.mem = s.mem) ∧
    (b.departed = false → b.forJob = false →
      (s.anyPending t b.waits = true → Runs (.postDepart t n) s s) ∧
      (s.anyPending t b.waits = false → ∃ u, Runs (.postDepart t n) s u ∧ u.buffer t n = { b with departed := true } ∧ { u with tiles := s.tiles } = s))

/-! ### Translation and base dies (chapters 07, 09, 25) -/

/-- R97, R100, R101, R138 to R142: the end of a page walk. Where the read of an entry waits, the walk goes on. A leaf fills a TLB entry; a demand
walk's sets A in the leaf, another's is A-pending and changes no memory. A slot that still stands at its access takes the cause precisely, but for 0x30: with it a scout starts at the next instruction
from the slot's registers, and the context's fault counter rises, in handler mode too, where the trap follows. A scout's 0x30 lists the page and raises the scout counter; a job's pauses it with a
retry record; a prefetch leaves nothing. What a scout does at a failed walk is log 18, a scout of a slot in handler mode log 30, that all levels are
read at the end of the walk log 38, and the walker's own requests log 71, all DEDUCED. -/
def Obligations.WalksEnd : Prop :=
  ∀ (s : State) (cl : BitVec 6) (i : Nat) (w : Walk), (s.cluster cl).walks[i]? = some w → s.MemOk →
    let s1 := s.modCluster cl (fun c => { c with walks := c.walks.eraseIdx i })
    let tt := w.title.getD (0, 0)
    let x : TrapInfo := { cause := 0x30, addrKind := 1, addr := BitVec.ofNat 56 w.va, tindex := tt.1, tgen := tt.2 }
    let ends := fun (u : State) => Runs (.pageWalkComplete cl i) s u
    let fetched := fun (v : Slot) => ({ v with insn := if w.kind = .fetch then 0 else v.insn } : Slot)
    let stands := fun (j : SlotId) (pc : Word) =>
      let v := s.slot j
      v.busy = true ∧ v.ctx = w.ctx ∧ v.pc = pc ∧ v.trap = none ∧ v.scout = none ∧ v.wait = none ∧ v.ending = none
    let walk := s.walkBy { die := dieOfCluster cl } w.ctx w.va
    (∀ t, walk = .error (.wait t) → ends t) ∧
    (∀ pte pa t, walk = .ok (pte, pa, t) →
      let n := leafBytes (pteSize pte)
      ∃ u, ends u ∧ (u.cluster cl).walks = (s.cluster cl).walks.eraseIdx i ∧
        (∃ e ∈ (u.cluster cl).tlb, e.ctx = w.ctx ∧ e.va = w.va / n * n ∧ e.size = n ∧ e.pa = pteAddr pte ∧ e.peer = ptePeer pte ∧ e.mode = pteMode pte ∧
          e.rp = pte.getLsbD 5 ∧ e.wp = pte.getLsbD 4 ∧ e.xp = pte.getLsbD 3 ∧ e.leaf = pa ∧ (e.aPending = true ↔ w.by_.demand = false)) ∧
        (w.by_.demand = true → u.pteAt pa = some (pte ||| 0x40, false)) ∧ (w.by_.demand = false → u.mem = s.mem) ∧ u.slots = s.slots) ∧
    (∀ y, walk = .error (.trap y) →
      let c := y.cause
      let s1 := s1.readDone y
      (w.by_ = .prefetch → ends s1) ∧
      (∀ j pc, w.by_ = .slot j pc → ¬stands j pc → ends s1) ∧
      (∀ j pc, w.by_ = .slot j pc → stands j pc → c ≠ 0x30 → ends ((s1.modSlot j fetched).fault j { x with cause := c })) ∧
      (∀ j pc, w.by_ = .slot j pc → stands j pc → c = 0x30 → (s.slot j).handler = true →
        ends (((s1.modSlot j fetched).modCtx w.ctx (fun v => { v with tfCount := v.tfCount + 1 })).fault j x)) ∧
      (∀ j pc, w.by_ = .slot j pc → stands j pc → c = 0x30 → (s.slot j).handler = false →
        ∃ u sc, ends u ∧ u.slot j = { fetched (s.slot j) with scout := some sc } ∧ sc.x = (s.slot j).x ∧ sc.pc = pc + 4 ∧ sc.pages = [] ∧ sc.count = 0 ∧
          sc.ended = false ∧ sc.failed = [] ∧ sc.fault = { s.recordOf j x with insn := (fetched (s.slot j)).insn } ∧
          u.ctx w.ctx = { s.ctx w.ctx with tfCount := (s.ctx w.ctx).tfCount + 1 } ∧ u.mem = s.mem ∧ (∀ k, k ≠ j → u.slot k = s.slot k)) ∧
      (∀ j pc sc, w.by_ = .scout j pc → (s.slot j).scout = some sc → sc.pc = pc →
        ∃ u sc', ends u ∧ u.slot j = { s.slot j with scout := some sc' } ∧ sc'.failed = w.va :: sc.failed ∧ sc'.x = sc.x ∧ sc'.pc = sc.pc ∧
          (c ≠ 0x30 → sc'.pages = sc.pages ∧ u.ctxs = s.ctxs) ∧
          (c = 0x30 → sc'.pages = addPage sc.pages w.va (w.kind == .write) ∧ (u.ctx (s.slot j).ctx).scoutCount = (s.ctx (s.slot j).ctx).scoutCount + 1)) ∧
      (∀ tile num j, w.by_ = .job tile num → s.job? tile num = some j → j.status.toNat < 3 → c = 0x30 →
        ∃ u rec, ends u ∧ u.job? tile num = some { j with paused := some s.rings.retrySeq.toNat } ∧ u.rings.retryQ = s.rings.retryQ ++ [rec] ∧
          rec.cause = 0x30 ∧ rec.retry = true ∧ rec.seq = s.rings.retrySeq ∧ rec.addr = BitVec.ofNat 56 w.va ∧ rec.ctx = j.ctx ∧
          rec.info = j.num.setWidth 32 ∧ u.rings.retrySeq = s.rings.retrySeq + 1 ∧ u.mem = s.mem))

/-- R96, R97, R101 to R103, R359: firmware's write of a page-table entry stands in its table, a table newly hung in is zero, and a page vacated for
a retirement has its contents at its new place. An invalidation drops the matching TLB entries of every cluster at once, and is done once no operation
uses the range. A peer leaf whose count reaches 2^(MIGTHR + 4) posts one
request and counts from 0; serving it first clears V in every replica and drops the translations, and, once nothing uses the page, leaves the same local
leaf in every replica. A prefetch asks for a walk where
none of its page is cached. The two events of a migration and the count at the first replica are log 63, page tables without a domain log 38, the zeroed table
log 50, the move of a vacated page log 53, all DEDUCED. -/
def Obligations.PageTablesChange : Prop :=
  ∀ (s : State) (c : BitVec 8) (va lo hi : BitVec 56) (level : BitVec 3) (pte : Word) (ppn : BitVec 36) (cl : BitVec 6),
    s.MemOk → s.hbm.state ≠ 2 →
    let inside := fun (a : Nat) => a / 4096 < 12 * 2 ^ 20 * (liveOf s.hbm.liveMask).length
    (∀ t, s.tableAt va.toNat level.toNat 4 ((s.ctx c).top.toNat * 4096) = some t →
      let pa := t + 8 * levelIndex level.toNat va.toNat
      let below := level.toNat ≠ 0 ∧ pte.getLsbD 63 = true ∧ pte.getLsbD 7 = false
      let next := bits pte 47 12 * 4096
      let old := match s.pteAt pa with
        | some (w, _) => w
        | none => 0
      s.hbm.nowPlace (pa / 4096) ≠ none → s.hbm.vacates old pte = false → ∃ u bad, Runs (.pageTableChange c va level pte) s u ∧ u.pteAt pa = some (pte, bad) ∧
        (∀ old bad', s.pteAt pa = some (old, bad') → below → pteTable level.toNat old = false → inside pa → inside next →
          ∀ j, j < 512 → next + 8 * j ≠ pa → u.pteAt (next + 8 * j) = some (0, false)) ∧
        u.slots = s.slots ∧ u.ctxs = s.ctxs ∧ u.clusters = s.clusters) ∧
    (∀ t old bad', s.tableAt va.toNat level.toNat 4 ((s.ctx c).top.toNat * 4096) = some t →
      let pa := t + 8 * levelIndex level.toNat va.toNat
      let n := leafBytes (pteSize pte)
      let src := pteAddr old
      let dst := pteAddr pte
      s.pteAt pa = some (old, bad') → s.hbm.vacates old pte = true → inside src → inside (src + n - 1) → src % n = 0 → dst % n = 0 →
        (pa < dst ∨ dst + n ≤ pa) →
        ∃ u bad, Runs (.pageTableChange c va level pte) s u ∧ u.pteAt pa = some (pte, bad) ∧ u.slots = s.slots ∧ u.clusters = s.clusters ∧
          ∀ b x o y q, b < n → b % 64 = 0 → s.hbm.nowPlace ((src + b) / 4096) = some (x, o) → s.hbm.nowPlace ((dst + b) / 4096) = some (y, q) →
            let k := hbmKey x o ((src + b) % 4096)
            let k' := hbmKey y q ((dst + b) % 4096)
            u.bytes k' 64 = s.hbmRead (s.ctx c).domain k 64 ∧ (u.unit k').poison = (s.unit k).bad) ∧
    (s.tableAt va.toNat level.toNat 4 ((s.ctx c).top.toNat * 4096) = none → Runs (.pageTableChange c va level pte) s s) ∧
    (∃ u, Runs (.tlbInvalidate c lo hi) s u ∧
      ((c, lo, hi) ∈ u.board.invalidating ↔ s.usesRange c lo.toNat hi.toNat = true) ∧
      (∀ y, y ≠ (c, lo, hi) → (y ∈ u.board.invalidating ↔ y ∈ s.board.invalidating)) ∧
      { u.board with invalidating := s.board.invalidating } = s.board ∧
      (∀ k e, e ∈ (u.cluster k).tlb ↔ e ∈ (s.cluster k).tlb ∧ ¬(e.ctx = c ∧ e.va < hi.toNat ∧ lo.toNat < e.va + e.size)) ∧
      (∀ k, (u.cluster k).lines = (s.cluster k).lines) ∧ { u with clusters := s.clusters, board := s.board } = s) ∧
    (∀ w pa, s.walk c va.toNat = .leaf w pa →
      let n := leafBytes (pteSize w)
      let counter := firstReplica n pa
      let due := pteMode w = 2 ∧ 2 ^ (bits w 11 8 + 4) ≤ find 0 s.board.migCounts counter
      (¬due → Runs (.migrationThreshold c va) s s) ∧
      (due → ∃ u, Runs (.migrationThreshold c va) s u ∧ u.board.migrations = s.board.migrations ++ [(c, BitVec.ofNat 56 (va.toNat / n * n))] ∧
        find 0 u.board.migCounts counter = 0 ∧ { u with board := s.board } = s) ∧
      ((c, va) ∈ s.board.migrations → (∀ m ∈ s.board.migrating, ¬(m.ctx = c ∧ m.va = va)) → ptePeer w ≠ 0x3FF →
        ∃ u, Runs (.pageMigrate c va ppn) s u ∧ (c, va) ∉ u.board.migrations ∧ ({ ctx := c, va := va, leaf := w, pa := pa } : Migrating) ∈ u.board.migrating ∧
          (∀ k, ∀ e ∈ (u.cluster k).tlb, ¬(e.ctx = c ∧ e.va < va.toNat + n ∧ va.toNat < e.va + e.size)) ∧
          (∀ a ∈ replicas (pteSize w) pa, ∃ bad, u.pteAt a = some (w &&& ~~~(1#64 <<< 63), bad)) ∧ u.slots = s.slots)) ∧
    (∀ m, s.board.migrating.find? (fun m => m.ctx == c && m.va == va) = some m →
      let n := leafBytes (pteSize m.leaf)
      (s.usesRange c va.toNat (va.toNat + n) = true → Runs (.pageMigrate c va ppn) s s) ∧
      (s.usesRange c va.toNat (va.toNat + n) = false → s.pteAt m.pa ≠ none →
        ∃ u, Runs (.pageMigrate c va ppn) s u ∧ (∀ x ∈ u.board.migrating, ¬(x.ctx = c ∧ x.va = va)) ∧
          (∀ a ∈ replicas (pteSize m.leaf) m.pa, ∃ w' bad, u.pteAt a = some (w', bad) ∧ ptePeer w' = 0x3FF ∧ pteMode w' = 0 ∧
            pteAddr w' = ppn.toNat * 4096 ∧ pteV w' = pteV m.leaf ∧ pteSize w' = pteSize m.leaf ∧ w'.setWidth 12 = m.leaf.setWidth 12) ∧
          u.slots = s.slots)) ∧
    (∀ e, (s.cluster cl).tlbFind c va.toNat = some e → Runs (.lineCachePrefetch cl c va) s s) ∧
    ((s.cluster cl).tlbFind c va.toNat = none → (s.cluster cl).walks.length < 32 →
      (∀ w ∈ (s.cluster cl).walks, ¬(w.ctx = c ∧ w.va = va.toNat ∧ w.by_ = .prefetch)) →
      ∃ u w, Runs (.lineCachePrefetch cl c va) s u ∧ (u.cluster cl).walks = (s.cluster cl).walks ++ [w] ∧ w.ctx = c ∧ w.va = va.toNat ∧ w.by_ = .prefetch ∧
        { u with clusters := s.clusters } = s)

/-- R14, R105 to R107, R110, R111, R363: a line leaves its cache only with the phase and map in force and outside the migration window; a clean one
changes no memory; a sector masked in full is written as a granule without poison, and a masked write over a bad granule is discarded with 0x34. A read
of a unit with one symbol in error is corrected and counted for its stack, with more it gives the poison indication. A bank whose count has come to firmware's
threshold is refreshed, once, its count 0, at RFMCOST tokens of the domain whose activation brought it there, where a budget applies; the end releases the bank; a microsecond refills ACTRATE tokens up to ACTBURST. The threshold register, the domain charged,
a balance that stops at 0 and the refill once a microsecond are log 54, the line that leaves by an event log 6, what counts as bad log 71, all DEDUCED. -/
def Obligations.BaseDiesServe : Prop :=
  ∀ (s : State) (cl : BitVec 6) (i : Nat) (phase : Byte) (how : HbmRead) (stack : BitVec 4) (pc : BitVec 6) (bank : BitVec 4) (d : BitVec 10),
    let h := s.hbm
    let x := (stack, pc, bank)
    let v := s.domain d
    let count := find 0 h.actCounts (bankIndex stack pc bank)
    let only := fun (u : State) => { u with hbm := s.hbm } = s
    let s1 := s.decays how
    (∀ pa n y o, how.decays = [(pa, n)] → h.nowPlace (pa / 4096) = some (y, o) →
      s1.unit (hbmKey y o (pa % 4096)) = { s.unit (hbmKey y o (pa % 4096)) with symbols := n } ∧ { s1 with units := s.units, grans := s.grans } = s) ∧
    ((s.cluster cl).lines[i]? = none → Runs (.hbmRequest cl i phase how) s s1) ∧
    (∀ l, (s.cluster cl).lines[i]? = some l →
      let g := l.pa / 16
      let out := fun (u : State) => u.modCluster cl (fun c => { c with lines := c.lines.eraseIdx i })
      let stale := phase ≠ h.mphase ∨ h.inWindow g = true ∨ (h.state = 2 ∧ h.wmark.toNat ≤ g ∧ how.newMap = false)
      (2 ^ 40 ≤ l.pa → Runs (.hbmRequest cl i phase how) s (out s1)) ∧
      (l.pa < 2 ^ 40 → stale → Runs (.hbmRequest cl i phase how) s s1) ∧
      (l.pa < 2 ^ 40 → ¬stale → l.dirty = false → Runs (.hbmRequest cl i phase how) s (s1.dropLine cl l)) ∧
      (∀ l' u, l.pa < 2 ^ 40 → ¬stale → s1.writeLine cl l = .ok (l', u) → Runs (.hbmRequest cl i phase how) s (u.dropLine cl l')) ∧
      (∀ u, l.pa < 2 ^ 40 → ¬stale → s1.writeLine cl l = .error (.wait u) → Runs (.hbmRequest cl i phase how) s u) ∧
      (∀ k t, s.MemOk → l.pa * 256 < hbmEnd → ¬stale → l.mask.toNat < 2 ^ 64 → l.sectorMask 0 ≠ 0 →
        s1.request { die := dieOfCluster cl } (s.ctx l.ctx).domain (l.pa * 256) = .ok (k, t) →
        ∃ u, Runs (.hbmRequest cl i phase how) s u ∧ (∀ l', l' ∈ (u.cluster cl).lines ↔ l' ∈ (s.cluster cl).lines ∧ l'.sameTag l = false) ∧
          (l.sectorMask 0 = ~~~0 → u.bytes k 64 = (List.range 64).map l.byteAt ∧ (u.unit k).bad = false ∧ u.funcs = s.funcs) ∧
          (l.sectorMask 0 ≠ ~~~0 → (s1.unit k).bad = true → u.mem = s.mem ∧ (u.unit k).poison = true ∧ ∃ rec, rec.cause = 0x34 ∧ rec.typ = 2 ∧
            rec.ctx = l.ctx ∧ rec.addrKind = 2 ∧ rec.addr = BitVec.ofNat 56 (l.pa * 256) ∧ rec.tindex = l.index ∧ u.funcs = (s.pushFunc rec).funcs))) ∧
    (∀ k, k % 64 = 0 →
      let y := k / 2 ^ 36 % 16
      let (_, bad, u) := s.hbmLoad d k 64
      ((s.unit k).poison = true → bad = true ∧ u = s) ∧
      ((s.unit k).poison = false → (s.unit k).symbols = 0 → bad = false ∧ u = s) ∧
      ((s.unit k).poison = false → (s.unit k).symbols = 1 → bad = false ∧ find 0 u.hbm.corrected y = find 0 h.corrected y + 1) ∧
      ((s.unit k).poison = false → 2 ≤ (s.unit k).symbols → bad = true ∧ find 0 u.hbm.uncorrected y = find 0 h.uncorrected y + 1)) ∧
    (h.rfmThreshold ≠ 0 → h.rfmThreshold ≤ count + 1 → (∀ e ∈ h.rfmBy, e.1 ≠ bankIndex stack pc bank) →
      (bankIndex stack pc bank, d) ∈ (h.activate (bankIndex stack pc bank) d 1).rfmBy) ∧
    (let due := (bankIndex stack pc bank, d) ∈ h.rfmBy ∧ x ∉ h.rfm
     (¬due → Runs (.rfmCommand stack pc bank d) s s) ∧
     let turn := s.ordinary (pcNo stack pc) { die := BitVec.ofNat 3 (stack.toNat / 2) } (hbmEnd + bankIndex stack pc bank)
     (∀ t, due → turn = .error (.wait t) → Runs (.rfmCommand stack pc bank d) s t) ∧
     (∀ t, due → turn = .ok t → ∃ u, Runs (.rfmCommand stack pc bank d) s u ∧ only u ∧ u.hbm.rfm = h.rfm ++ [x] ∧ find 0 u.hbm.actCounts (bankIndex stack pc bank) = 0 ∧
       u.tokensOf stack d = (if v.actRate = 0 then s.tokensOf stack d else s.tokensOf stack d - v.rfmCost.toNat))) ∧
    (∃ u, Runs (.refreshManagementEnd stack pc bank) s u ∧ only u ∧ (∀ y, y ∈ u.hbm.rfm ↔ y ∈ h.rfm ∧ y ≠ x) ∧ u.hbm.actCounts = h.actCounts) ∧
    (v.actRate = 0 ∨ find 1000 h.sinceRefill (tokenKey stack d) < 1000 → Runs (.tokenRefill stack d) s s) ∧
    (v.actRate ≠ 0 → 1000 ≤ find 1000 h.sinceRefill (tokenKey stack d) → ∃ u, Runs (.tokenRefill stack d) s u ∧ only u ∧
      u.tokensOf stack d = Nat.min v.actBurst.toNat (s.tokensOf stack d + v.actRate.toNat) ∧
      (∀ y e, ¬(y = stack ∧ e = d) → u.tokensOf y e = s.tokensOf y e))

/-- R359, R361, R378: retiring a stack. RETIRE_REQUEST, SHRINK_CONFIRM, SHRINK_TIMEOUT, LIVECAP_LOWER, FOEHN_STEP and RETIRE_COMPLETE each complete, with
the next state stated, in every state. A request for a live stack with another left starts one retirement, with its report of C'; one that comes
meanwhile waits. After the confirmation, or the timeout that is not 0, the translations above C' go, and once what used them is over LIVECAP falls by 48
GiB, the lines above it go, MPHASE rises and the window opens at its top; each step of Foehn brings the mark down by 512 granules, once the microprograms
in its pseudo-channels let it in; at 0 the stack leaves LIVEMASK and the next request that names a live stack starts. TARGET kept after step 6, the order
of the requests with dead stacks passed over, and 0x3B records only after a timeout are log 53 (DEDUCED). -/
def Obligations.StacksRetire : Prop :=
  ∀ (s : State) (x : BitVec 4),
    let h := s.hbm
    let n := (liveOf h.liveMask).length
    let cap := h.liveCap.toNat - 48 * 2 ^ 30
    let with_ := fun (h' : Hbm) => ({ s with hbm := h' } : State)
    let started := fun (h : Hbm) (y : BitVec 4) =>
      ({ h with state := 1, target := y, confirmed := false, timedOut := false, sinceRequest := 0, reported := some cap } : Hbm)
    (h.state = 0 → h.liveMask.getLsbD x.toNat = true → 2 ≤ n → exec (.retireRequest x) s = .next (with_ (started h x))) ∧
    (h.state = 0 → h.liveMask.getLsbD x.toNat = false ∨ n < 2 → exec (.retireRequest x) s = .next s) ∧
    (h.state ≠ 0 → exec (.retireRequest x) s = .next (with_ { h with requests := h.requests ++ [x] })) ∧
    (h.state = 1 → exec .shrinkConfirm s = .next (with_ { h with confirmed := true })) ∧ (h.state ≠ 1 → exec .shrinkConfirm s = .next s) ∧
    (let late := h.state = 1 ∧ h.confirmed = false ∧ h.shrinkTimeoutMs ≠ 0 ∧ h.shrinkTimeoutMs.toNat * 1000000 ≤ h.sinceRequest
     (late → exec .shrinkTimeout s = .next (with_ { h with confirmed := true, timedOut := true })) ∧ (¬late → exec .shrinkTimeout s = .next s)) ∧
    let v := s.leaveAbove cap
    ((∀ c e, e ∈ (v.cluster c).tlb ↔ e ∈ (s.cluster c).tlb ∧ e.above cap = false) ∧ { v with clusters := s.clusters, hbm := h } = s ∧
      { v.hbm with leaving := h.leaving } = h ∧
      (∀ y, y ∈ v.hbm.leaving ↔ y ∈ h.leaving ∨ ∃ k ∈ s.clusters, ∃ e ∈ k.2.tlb, e.above cap = true ∧ y = (e.ctx, e.va, e.va + e.size))) ∧
    (h.state ≠ 1 ∨ h.confirmed = false → exec .livecapLower s = .next s) ∧
    (h.state = 1 → h.confirmed = true → v.usesAbove cap = true → exec .livecapLower s = .next v) ∧
    (h.state = 1 → h.confirmed = true → v.usesAbove cap = false → ∃ u, exec .livecapLower s = .next u ∧
      u.hbm = { h with leaving := [], liveCap := BitVec.ofNat 40 cap, wmark := BitVec.ofNat 36 (cap / 4096), mphase := h.mphase + 1, state := 2 } ∧
      (∀ c, (∀ e ∈ (u.cluster c).tlb, e.above cap = false) ∧
        (∀ l, l ∈ (u.cluster c).lines ↔ l ∈ (s.cluster c).lines ∧ ¬(cap ≤ l.pa * 256 ∧ l.pa < 2 ^ 40 ∧ l.pa * 256 < hbmEnd))) ∧
      u.mem = s.mem ∧ u.slots = s.slots ∧ (h.timedOut = false → u.funcs = s.funcs) ∧
      (h.timedOut = true → ∀ c ∈ s.liveCtxs, ∀ a ∈ s.pagesIn c cap h.liveCap.toNat, ∃ rec ∈ (u.func (s.ctx c).func).queue,
        rec.cause = 0x3B ∧ rec.typ = 2 ∧ rec.ctx = c ∧ rec.addrKind = 2 ∧ rec.addr = BitVec.ofNat 56 a)) ∧
    (h.state ≠ 2 ∨ h.wmark = 0 ∨ (∃ g ∈ s.grans, g.rowOpen = true ∧ h.inWindow g.g = true) → Runs .foehnStep s s) ∧
    (let held := ∃ y ∈ h.stepChannels h.wmark.toNat, s.microOn y = true ∧ foehnAsks y ∉ h.granted
     h.state = 2 → h.wmark ≠ 0 → (∀ g ∈ s.grans, g.rowOpen = true → h.inWindow g.g = false) →
      (held → ∃ u, Runs .foehnStep s u ∧ { u with hbm := h } = s ∧ { u.hbm with waiting := h.waiting } = h ∧
        ∀ y ∈ h.stepChannels h.wmark.toNat, s.microOn y = true → foehnAsks y ∉ h.granted → (y, foehnAsks y) ∈ u.hbm.waiting) ∧
      (¬held → ∃ u, Runs .foehnStep s u ∧
        { u.hbm with corrected := h.corrected, uncorrected := h.uncorrected, requests := h.requests, waiting := h.waiting, granted := h.granted } =
          { h with wmark := BitVec.ofNat 36 (h.wmark.toNat - 512) } ∧
        u.clusters = s.clusters ∧ ((∀ g ∈ s.grans, g.stateBad = false) → u.slots = s.slots ∧ u.tiles = s.tiles))) ∧
    (h.state ≠ 2 ∨ h.wmark ≠ 0 → exec .retireComplete s = .next s) ∧
    (let h' : Hbm := { h with liveMask := h.liveMask &&& ~~~(1#16 <<< h.target.toNat), mphase := h.mphase + 1, state := 0 }
     let waiting := h.requests.dropWhile (fun y => !(h'.liveMask.getLsbD y.toNat && (liveOf h'.liveMask).length ≥ 2))
     h.state = 2 → h.wmark = 0 →
       (waiting = [] → exec .retireComplete s = .next (with_ { h' with requests := [] })) ∧
       (∀ y ys, waiting = y :: ys → exec .retireComplete s = .next (with_ (started { h' with requests := ys } y))))

/-- R337, R360, R361, R365: a step of Foehn moves data without a trace: for every granule of the N − 1 stacks that remain, the bytes at the place where
it lies after the step are those at the place where it lay before, and a unit there reads as bad where it did before, and not elsewhere. -/
def Obligations.MigrationKeepsMemory : Prop :=
  ∀ (s : State) (g b : Nat) (p : BitVec 4 × Nat), s.MemOk →
    let h := s.hbm
    let n := (liveOf h.liveMask).length
    h.state = 2 → h.wmark ≠ 0 → 2 ≤ n → h.liveMask.getLsbD h.target.toNat = true → h.wmark.toNat ≤ 12 * 2 ^ 20 * (n - 1) →
    (∀ x ∈ s.grans, x.rowOpen = true → h.inWindow x.g = false) →
    (∀ y ∈ h.stepChannels h.wmark.toNat, s.microOn y = true → foehnAsks y ∈ h.granted) → g < 12 * 2 ^ 20 * (n - 1) → b < 4096 → h.nowPlace g = some p →
    ∃ u q, Runs .foehnStep s u ∧ u.hbm.nowPlace g = some q ∧ u.byte (hbmKey q.1 q.2 b) = s.byte (hbmKey p.1 p.2 b) ∧
      (u.unit (hbmKey q.1 q.2 b)).bad = (s.unit (hbmKey p.1 p.2 b)).bad

/-! ### Reporting (chapter 09) -/

/-- R131, R134 to R136, R146, R147: a hardware error joins the terminal queue and, as TYPE 0b11, its function's. A grant takes the head of the queue whose
turn it is in the round of 8, or of the next that holds one: a retry record to the retry ring; a terminal one, numbered, to a ring of
4,096, or counted as dropped; a function's to its ring in host memory with its continuations, numbered, or counted in DROPS. The log takes the
first staged entry, or stops with 0x71 where it is full. The search on from an empty queue, the order within a round and what a record with
continuations counts are log 36 (DEDUCED).

R137, R140, R141: a retry completion for a record in the ring makes the slot that waits for it issue again, or its paused job go on; a refusal
makes the slot take the trap with RETRY 0, or the job end with its fault, which is
recorded where its chain has ended, and else kept for the chain (log 48, DEDUCED); a paused pool engine goes on, or is refused (log 71, DEDUCED);
with no such record nothing happens. An ended scout leaves the slot at
its faulting instruction, waiting for the completion of the record it queues with the pages it listed. -/
def Obligations.ReportingEvents : Prop :=
  (∀ (s : State) (c : BitVec 8) (i : SlotId) (t : BitVec 10) (r : FaultRec) (q : List FaultRec), s.MemOk →
    let g := s.rings
    let whose := if g.grant.toNat < 4 then Ring.retry else if g.grant.toNat < 6 then .terminal else .function
    let first := whose.order.find? s.ringPending
    let after := g.grant + BitVec.ofNat 3 (1 + r.conts)
    let n := 1 + r.conts
    (∃ u rec, Runs (.hardwareError c i) s u ∧ rec.cause = 0x75 ∧ rec.ctx = c ∧ u.rings = { g with termQ := g.termQ ++ [rec] } ∧
      (u.func (s.ctx c).func).queue = (s.func (s.ctx c).func).queue ++ [{ rec with typ := 3 }] ∧ { u with rings := g, funcs := s.funcs } = s) ∧
    (first = none → Runs .recordGrant s s) ∧
    (first = some .retry → g.retryQ = r :: q → Runs .recordGrant s { s with rings := { g with retryQ := q, retry := g.retry ++ [r], grant := after } }) ∧
    (first = some .terminal → g.termQ = r :: q → g.term.length < 4096 →
      Runs .recordGrant s { s with rings := { g with termQ := q, term := g.term ++ [{ r with seq := g.termSeq }], termSeq := g.termSeq + 1, grant := after } }) ∧
    (first = some .terminal → g.termQ = r :: q → 4096 ≤ g.term.length →
      Runs .recordGrant s { s with rings := { g with termQ := q, termDrops := g.termDrops + 1, grant := after } }) ∧
    (∀ f, first = some .function → s.nextFunc = some f → (s.func f).queue = r :: q →
      let v := s.func f
      let room := v.frEn = true ∧ (v.frTail - v.frHead).toNat + n ≤ 2 ^ v.frLog.toNat
      let place := fun (k : Nat) => hostKey (v.frBase.toNat + (v.frTail.toNat + k) % 2 ^ v.frLog.toNat * 64)
      ∃ u, Runs .recordGrant s u ∧ u.rings = { g with grant := after, lastFunc := f.toNat } ∧ (∀ e, e ≠ f → u.func e = s.func e) ∧
        (room → u.func f = { v with queue := q, frTail := v.frTail + BitVec.ofNat 32 n, frSeq := v.frSeq + 1 } ∧
          (∀ k, k < n → u.bytes (place k) 64 = wordsBytes (FaultRec.ringWords { r with seq := v.frSeq } k))) ∧
        (¬room → u.func f = { v with queue := q, drops := BitVec.ofNat 32 (Nat.min 0xFFFFFFFF (v.drops.toNat + n)) } ∧ u.mem = s.mem)) ∧
    ((s.tile t).staging = [] → Runs (.logDrain t) s s) ∧
    (∀ d e es, (s.tile t).staging = (d, e) :: es → e.due = none →
      let v := s.ctx d
      ∃ u, Runs (.logDrain t) s u ∧ (u.tile t).staging = es ∧
        (v.logStopped = true → u.ctx d = v) ∧
        (v.logStopped = false → v.log.length < v.logCap → u.ctx d = { v with log := v.log ++ [e] }) ∧
        (v.logStopped = false → v.logCap ≤ v.log.length → u.ctx d = { v with logStopped := true } ∧
          ∃ rec, rec.cause = 0x71 ∧ rec.ctx = d ∧ rec.typ = 2 ∧ (u.func v.func).queue = (s.func v.func).queue ++ [rec]))) ∧
  (∀ (s : State) (i : SlotId) (seq : BitVec 16) (r : FaultRec) (j : Job) (sc : Scout),
    let v := s.slot i
    let mine := fun (x : FaultRec) => x.seq = seq ∧ x.tile = i.tile ∧ x.core = i.core ∧ x.slot = i.slot
    let found := s.rings.retry.find? (fun x => x.seq == seq && x.tile == i.tile && x.core == i.core && x.slot == i.slot)
    let taken := fun (u : State) => (∀ x, x ∈ u.rings.retry ↔ x ∈ s.rings.retry ∧ ¬mine x) ∧ u.mem = s.mem
    let other := v.wait ≠ some (.retry seq) ∧ s.jobs.find? (fun x => x.src == i && x.paused == some seq.toNat && x.status.toNat < 3) = some j
    (found = none → Runs (.retryCompletion i seq) s s ∧ Runs (.refuseCompletion i seq) s s) ∧
    (found = some r →
      (v.wait = some (.retry seq) → ∃ u, Runs (.retryCompletion i seq) s u ∧ taken u ∧ u.slot i = { v with wait := none } ∧
        (∀ k, k ≠ i → u.slot k = s.slot k)) ∧
      (v.wait = some (.retry seq) → s.CanTrap i → ∃ u, Runs (.refuseCompletion i seq) s u ∧ taken u ∧ (u.slot i).handler = true ∧
        (u.slot i).wait = none ∧ (u.slot i).pc = (s.entryOf i).trapPc.setWidth 64 ∧ (u.slot i).frame.record = some { r with retry := false, seq := 0 } ∧
        (u.slot i).frame.x = v.x ∧ (u.slot i).frame.pc = v.pc ∧ (u.slot i).xr 10 = r.cause.setWidth 64 ∧ (u.slot i).xr 11 = v.pc ∧
        (∀ k, k ≠ i → u.slot k = s.slot k)) ∧
      (other → s.job? j.tile j.num = some j → ∃ u, Runs (.retryCompletion i seq) s u ∧ taken u ∧
        u.job? j.tile j.num = some { j with paused := none } ∧ u.slots = s.slots) ∧
      (other → s.job? j.tile j.num = some j → ∃ u, Runs (.refuseCompletion i seq) s u ∧ taken u ∧
        (∃ x, u.job? j.tile j.num = some x ∧ x.untold.isSome = (s.chainLives j || j.untold.isSome) ∧
          { x with untold := j.untold } = { j with paused := none, deferred := some (0x30, r.addr.toNat), data := [] }) ∧
        (s.chainLives j = true → u.funcs = s.funcs) ∧ (s.chainLives j = false → ∃ rec, rec.cause = 0x30 ∧ rec.ctx = j.ctx ∧ rec.addr = r.addr ∧
          u.funcs = (s.pushFunc rec).funcs) ∧ u.slots = s.slots) ∧
      (∀ p d, v.wait ≠ some (.retry seq) → s.pausedJob i seq = none → s.pausedShard seq = some (p, d) →
        (∃ u, Runs (.retryCompletion i seq) s u ∧ taken u ∧ u.shard p d = { s.shard p d with paused := none } ∧ u.slots = s.slots ∧ u.jobs = s.jobs) ∧
        Runs (.refuseCompletion i seq) s ((s.served i seq).refuseShard p d))) ∧
    (v.scout = none → Runs (.scoutEnd i) s s) ∧
    (v.scout = some sc → sc.ended = false → Runs (.scoutEnd i) s s) ∧
    (v.scout = some sc → sc.ended = true → ∃ u, Runs (.scoutEnd i) s u ∧ u.slot i = { v with scout := none, wait := some (.retry s.rings.retrySeq) } ∧
      u.rings.retryQ = s.rings.retryQ ++ [{ sc.fault with retry := true, scout := sc.pages, seq := s.rings.retrySeq }] ∧
      u.rings.retrySeq = s.rings.retrySeq + 1 ∧ (∀ k, k ≠ i → u.slot k = s.slot k) ∧ u.mem = s.mem))

/-! ### Decoding, the step, and what every step keeps -/

/-- R181, R182, R192, R343: the decoder and the encoder agree, operand by operand. The word of every well-formed instruction decodes to it, a
core word (bits [1:0] 0b11) as a core instruction and a micro-instruction word as that alone; and whatever word decodes is the word of the
well-formed instruction that it decodes to: no bit that R182 fixes is passed over. -/
def Obligations.DecodeEncodeRoundTrip : Prop :=
  (∀ (i : Instr) (w : BitVec 32), i.wf = true → encode i = some w →
    decodeTableWord 32 w.toNat = some i ∧ (w.extractLsb' 0 2 = 3 → decode w = some i) ∧
    (w.extractLsb' 0 2 ≠ 3 → decode w = none ∧ decodeMicro w = some i)) ∧
  (∀ (i : Instr) (w : BitVec 32), decode w = some i → i.wf = true ∧ encode i = some w) ∧
  (∀ (i : Instr) (w : BitVec 32), decodeMicro w = some i → i.wf = true ∧ encode i = some w)

/-- R181, R192, R343: words written out from the encodings, one for each major opcode and a micro-instruction, decode to what they stand
for; three reserved words decode to nothing. -/
def Obligations.DecodeManualWords : Prop :=
  decode 0b0000000_00000_00000_000_00000_0001011 = some .exit ∧
  decode 0b1001100_00110_10111_000_00100_0101011 = some (.tsendShort 4 0x0D7 12) ∧
  decode 0b1001100_00110_10111_001_10010_0001011 = some (.sendShort 18 0x0D7 12) ∧
  decode 0b1001100_00110_10111_000_00100_0001011 = none ∧
  decode 0b0000000_01001_00010_001_00000_0001011 = some (.send 2 9) ∧
  decode 0b0000001_00111_00101_000_01010_0110011 = some (.mul 10 5 7) ∧
  decode 0b111111111111_00101_000_01010_0010011 = some (.addi 10 5 0xFFF) ∧
  decode 0b0000101_00010_00101_000_00101_0101011 = none ∧
  decode 0b0000010_10010_00100_000_00101_0101011 = some (.tsplit 5 4 0b10010) ∧
  decode 0b0000000_00000_00001_000_00010_1011011 = some (.vfadd .all 2 1 0) ∧
  decode 0b0000000_00001_00000_000_01000_1111011 = some (.mma false 0 (.m 0) 1) ∧
  decodeMicro 0b00010_0001_001_000_0_0000000000000000 = some (.mac16 1 1 0 false) ∧
  decode 0 = none

/-- R124, R138, R174, R181, R183, R184, R341, R376: at the turn of a slot that may issue, no slot of its core counted before it being ready, the word at its PC in the
code window is fetched, and a word that decodes runs as that instruction, with the slot running and the word in its INSN, and the core counts on from
the slot where it has issued; the second word of a pair runs after it in the same turn, where the first has retired and gone on to it, the classes admit
the two and the second reads no register that the first writes (log 69, DEDUCED); a word that does not decode raises 0x00 there; then time passes. Out of turn nothing is fetched. The word comes from HBM, four bytes little-endian, where the PC is aligned and within the entry's bounds, its page is executable, of this package and of
the context's world, and its stack serves the request. A microprogram's turn and an event run likewise. The agenda, the turns and what is ready are log 1, the fetch beside the line cache and the record
of the instruction cache log 39, both DESIGN CHOICE. -/
def Obligations.StepRunsDecoded : Prop :=
  ∀ (s : State) (rest : List Turn), s.board.stopped = false → s.board.halted = false →
    let at_ := fun (i : SlotId) => ({ s with agenda := rest, cur := i, curJob := none } : State)
    let u : State := { s with agenda := rest }
    (∀ i w s1, s.agenda = .issue i :: rest → u.inTurn i = true → (s.slot i).busy = true → (s.slot i).ending = none → (s.slot i).mayIssue = true →
      (at_ i).fetch i = .ok (w, s1) →
      (∀ ins, decode w = some ins → step s = passed (u.counted i (u.withPair i (exec ins (s1.issueWord i w))))) ∧
      (decode w = none → (s.slot i).scout = none →
        step s = passed (u.counted i (u.withPair i (.next ((s1.issueWord i w).fault i { cause := 0x00 })))))) ∧
    (∀ i t, s.agenda = .issue i :: rest → u.inTurn i = true → (s.slot i).busy = true → (s.slot i).ending = none → (s.slot i).mayIssue = true →
      (s.slot i).scout = none → (at_ i).fetch i = .error (.trap t) →
      step s = passed (u.counted i (u.withPair i (.next (((at_ i).modSlot i (fun v => { v with insn := 0 })).fault i t))))) ∧
    (∀ i t, (u.pairIssues t i = true → u.withPair i (.next t) = t.issueTurn i) ∧ (u.pairIssues t i = false → u.withPair i (.next t) = .next t) ∧
      (u.pairIssues t i = true ↔
        let v := s.slot i
        let x := t.slot i
        v.pc.toNat % 8 = 0 ∧ v.scout = none ∧ x.scout = none ∧ x.mayIssue = true ∧ x.ending = none ∧ x.serial = v.serial ∧ x.instret = v.instret + 1 ∧
        x.pc = v.pc + 4 ∧ ∃ w t', (t.enter i).fetch i = .ok (w, t') ∧ pairs x.vw (changedK v x) x.insn w = true)) ∧
    (∀ vw more w1 w2, pairs vw more w1 w2 = true ↔ (arithWord w1 = false ∨ integerWord w1 = true) ∧ arithWord w2 = true ∧
      ∃ ins, decode w1 = some ins ∧ ∀ ins', decode w2 = some ins' → ∀ r, r ∈ secondReads vw ins' → r ∉ firstWrites ins ∧ r ∉ more) ∧
    (∀ i, s.agenda = .issue i :: rest → u.inTurn i = false → step s = passed (.next u)) ∧
    (∀ i t, ({ t.slot i with insn := 0 } = { u.slot i with insn := 0 } → u.counted i (.next t) = .next t) ∧
      ({ t.slot i with insn := 0 } ≠ { u.slot i with insn := 0 } →
        u.counted i (.next t) = .next (t.modTile i.tile (fun x => if i.core then { x with issueC := i.slot } else { x with issueS := i.slot })))) ∧
    (∀ i e k s1,
      let u := at_ i
      let v := s.slot i
      let c := s.ctx v.ctx
      let pc := v.pc.toNat
      let pa := e.pa + (pc - e.va)
      v.scout = none →
      (pc % 4 ≠ 0 → u.fetch i = .error (.trap { cause := 0x00 })) ∧
      (pc % 4 = 0 → (s.entryOf i).holds v.pc = false → u.fetch i = .error (.trap { cause := 0x37, addrKind := 1, addr := BitVec.ofNat 56 pc })) ∧
      (pc % 4 = 0 → (s.entryOf i).holds v.pc = true → (s.cluster (clusterOf i.tile)).tlbFind v.ctx pc = some e →
        (e.xp = false → u.fetch i = .error (.trap { cause := 0x31, addrKind := 1, addr := BitVec.ofNat 56 pc })) ∧
        (e.xp = true → e.peer = 0x3FF → e.aPending = false → pa % 4 = 0 → pa < s.hbm.liveCap.toNat → pa < hbmEnd → s.regionWorld pa = c.world →
          (∀ d, s.dieOfPa pa = some d → s.reach (dieOf i.tile) d = true) → u.request { die := dieOf i.tile } c.domain pa = .ok (k, s1) →
          (s.hbmPoison k 4 = true → u.fetch i = .error (.trap
            { cause := 0x33, addrKind := 1, addr := BitVec.ofNat 56 pc, hbm := some (s1.eccCount k 4).hbm })) ∧
          (s.hbmPoison k 4 = false →
            (∀ j, j < 4 → (s.unit (k + j)).written = false ∨
              ((s.unit (k + j)).domain = c.domain ∧ (s.unit (k + j)).epoch = (s.domain c.domain).epoch)) →
            u.fetch i = .ok (BitVec.ofNat 32 (leNat (s.bytes k 4)),
              (s1.eccCount k 4).modTile i.tile (fun x => x.cacheCode ((v.ctx.toNat * 2 ^ 56 + pc) / 64))))))) ∧
    (∀ t n ins s1, s.agenda = .micro t n :: rest → ({ s with agenda := rest } : State).microIssue t n = (some ins, s1) →
      step s = passed (exec ins s1)) ∧
    (∀ ev, s.agenda = .unit ev :: rest → ev.wf = true → encode ev = none → step s = passed (exec ev { s with agenda := rest }))

/-- R35, R38, R40: every instruction and event answers a next state in every state. A step stops for two reasons alone: the package is stopped at 110 °C, or
its boot has halted; then every turn but the start of a power-good stops. A start from good signatures and 64 regions that cover each physical
address once comes to step 4, and step 5 then makes the package ready. That no step follows a thermal stop or a halt, and power-good as two events, are
the model's readings (log 56, DEDUCED). -/
def Obligations.OnlyStandstillStops : Prop :=
  (∀ (i : Instr) (s : State), ∃ t, exec i s = .next t) ∧
  (∀ s : State, s.board.stopped = false → s.board.halted = false → ∃ t, step s = .next t) ∧
  (∀ s : State, (∀ m rest, s.agenda ≠ .unit (.powerGood (.start m)) :: rest) →
    (s.board.stopped = true → step s = .fault .packageStopped) ∧
    (s.board.stopped = false → s.board.halted = true → step s = .fault .bootHalted)) ∧
  (∀ (s : State) (m : BootImage) (rest : List Turn), s.agenda = .unit (.powerGood (.start m)) :: rest → regionsOk m.regions = true →
    m.firmwareSigned = true → m.monitorSigned = true →
    ∃ t, step s = .next t ∧ t.board.ready = false ∧ t.board.stopped = false ∧ t.board.halted = false ∧ t.board.image = some m ∧ t.agenda = rest) ∧
  (∀ (s : State) (m : BootImage) (rest : List Turn), s.agenda = .unit (.powerGood .release) :: rest → s.board.image = some m →
    s.board.stopped = false → s.board.halted = false →
    ∃ t, step s = .next t ∧ t.board.ready = true ∧ t.board.image = none ∧ t.board.accelId = s.board.accelOver.getD m.accelId ∧ t.agenda = rest)

/-- R9, R10, R93, R172 (the form is the model's, log 3): memory keeps its canonical form, keys strictly rising and no listed byte equal to what an unlisted
key reads as, through every instruction, every event and every step. -/
def Obligations.MemoryStaysCanonical : Prop :=
  (∀ (i : Instr) (s t : State), s.MemOk → exec i s = .next t → t.MemOk) ∧
  (∀ s t : State, s.MemOk → step s = .next t → t.MemOk)

/-- R40: through every step the power limit stays from 1,600 to 3,200 W and no die's clock above 2,000 MHz. -/
def Obligations.PowerStaysInBounds : Prop :=
  ∀ s t : State, s.PowerOk → step s = .next t → t.PowerOk

/-- R20, R21, R26, R35, R36, R45, R46, R111, R134, R135: what power-good finds: tiles out of service, no context, entries masked with rates 1 and 0 and capacity 16, launch
windows and rings off with their sizes 16 and 256, links full with 52 groups of 16 lanes, measurement registers 0, budgets of 4,096 and 64; memory
canonical and the power within its bounds. The values that the chapters do not give are the model's (log 2). -/
def Obligations.ResetState : Prop :=
  let s := State.reset
  s.MemOk ∧ s.PowerOk ∧ s.agenda = [] ∧
  (∀ t, (s.tile t).inService = false ∧ (s.tile t).outbox = [] ∧ (s.tile t).jobSerial = 0 ∧ (s.tile t).mxu.claim = none ∧ (s.tile t).mxu.sat = 0) ∧
  (∀ t e, let x := s.entry t e
    x.valid = false ∧ x.mask = true ∧ x.rateP = 1 ∧ x.rateS = 0 ∧ x.chcap = 16 ∧ x.prod = 0 ∧ x.wdog = 0 ∧ x.eprio = 0 ∧ x.age = 0 ∧ x.partner = none) ∧
  (∀ c, (s.ctx c).state = 0 ∧ (s.ctx c).en = false ∧ (s.ctx c).key = 0 ∧ (s.ctx c).rerun = 0) ∧
  (∀ f, let x := s.func f
    x.lwEn = false ∧ x.lwLog = 4 ∧ x.lwHead = 0 ∧ x.lwTail = 0 ∧ x.rejects = 0 ∧ x.lastErr = 0 ∧ x.frEn = false ∧ x.frLog = 8 ∧ x.frHead = 0 ∧ x.frTail = 0 ∧
    x.drops = 0) ∧
  (∀ a b, (s.link a b).state = 0 ∧ (s.link a b).live = 52 ∧ ∀ g, (s.link a b).group g = { retrains := 0, lanes := 16, mask := 0xFFFF }) ∧
  (∀ i : Fin 8, s.board.measures[i] = 0 ∧ s.board.clocks[i] = 2000) ∧ s.board.ready = false ∧
  (∀ d, (s.domain d).actRate = 0 ∧ (s.domain d).actBurst = 4096 ∧ (s.domain d).rfmCost = 64) ∧
  (∀ i, (s.slot i).busy = false ∧ (s.slot i).lfsr = 0xACE1) ∧ s.time = 0 ∧ (∀ d : Fin 8, s.cycles[d] = 0) ∧ (∀ k, s.byte k = 0)
end

