-- ==== Sys2Proof/Laws/State.lean ====
section
/-! SUPPORT. What each update of the state leaves alone, field by field, and what it reads back. -/

namespace Sys2Proof.Machine

@[simp] theorem State.setSlot_frame (s : State) (i : SlotId) (v : Slot) :
    (s.setSlot i v).tiles = s.tiles ∧ (s.setSlot i v).clusters = s.clusters ∧ (s.setSlot i v).ctxs = s.ctxs ∧
    (s.setSlot i v).mem = s.mem ∧ (s.setSlot i v).remote = s.remote ∧ (s.setSlot i v).units = s.units ∧
    (s.setSlot i v).jobs = s.jobs ∧ (s.setSlot i v).reqs = s.reqs ∧ (s.setSlot i v).homes = s.homes ∧
    (s.setSlot i v).pools = s.pools ∧ (s.setSlot i v).grans = s.grans ∧ (s.setSlot i v).late = s.late ∧
    (s.setSlot i v).domains = s.domains ∧ (s.setSlot i v).hbm = s.hbm ∧ (s.setSlot i v).funcs = s.funcs ∧
    (s.setSlot i v).rings = s.rings ∧ (s.setSlot i v).links = s.links ∧ (s.setSlot i v).board = s.board ∧
    (s.setSlot i v).gateway = s.gateway ∧ (s.setSlot i v).cycles = s.cycles ∧ (s.setSlot i v).time = s.time ∧
    (s.setSlot i v).agenda = s.agenda ∧ (s.setSlot i v).cur = s.cur ∧ (s.setSlot i v).curJob = s.curJob ∧
    (s.setSlot i v).ticks = s.ticks ∧ (s.setSlot i v).nextId = s.nextId := by
  refine ⟨?_, ?_, ?_, ?_, ?_, ?_, ?_, ?_, ?_, ?_, ?_, ?_, ?_, ?_, ?_, ?_, ?_, ?_, ?_, ?_, ?_, ?_, ?_, ?_, ?_, ?_⟩ <;> rfl

@[simp] theorem State.modSlot_frame (s : State) (i : SlotId) (f : Slot → Slot) :
    (s.modSlot i f).tiles = s.tiles ∧ (s.modSlot i f).clusters = s.clusters ∧ (s.modSlot i f).ctxs = s.ctxs ∧
    (s.modSlot i f).mem = s.mem ∧ (s.modSlot i f).remote = s.remote ∧ (s.modSlot i f).units = s.units ∧
    (s.modSlot i f).jobs = s.jobs ∧ (s.modSlot i f).reqs = s.reqs ∧ (s.modSlot i f).homes = s.homes ∧
    (s.modSlot i f).pools = s.pools ∧ (s.modSlot i f).grans = s.grans ∧ (s.modSlot i f).late = s.late ∧
    (s.modSlot i f).domains = s.domains ∧ (s.modSlot i f).hbm = s.hbm ∧ (s.modSlot i f).funcs = s.funcs ∧
    (s.modSlot i f).rings = s.rings ∧ (s.modSlot i f).links = s.links ∧ (s.modSlot i f).board = s.board ∧
    (s.modSlot i f).gateway = s.gateway ∧ (s.modSlot i f).cycles = s.cycles ∧ (s.modSlot i f).time = s.time ∧
    (s.modSlot i f).agenda = s.agenda ∧ (s.modSlot i f).cur = s.cur ∧ (s.modSlot i f).curJob = s.curJob ∧
    (s.modSlot i f).ticks = s.ticks ∧ (s.modSlot i f).nextId = s.nextId := by
  refine ⟨?_, ?_, ?_, ?_, ?_, ?_, ?_, ?_, ?_, ?_, ?_, ?_, ?_, ?_, ?_, ?_, ?_, ?_, ?_, ?_, ?_, ?_, ?_, ?_, ?_, ?_⟩ <;> rfl

@[simp] theorem State.setMe_frame (s : State) (v : Slot) :
    (s.setMe v).tiles = s.tiles ∧ (s.setMe v).clusters = s.clusters ∧ (s.setMe v).ctxs = s.ctxs ∧
    (s.setMe v).mem = s.mem ∧ (s.setMe v).remote = s.remote ∧ (s.setMe v).units = s.units ∧
    (s.setMe v).jobs = s.jobs ∧ (s.setMe v).reqs = s.reqs ∧ (s.setMe v).homes = s.homes ∧
    (s.setMe v).pools = s.pools ∧ (s.setMe v).grans = s.grans ∧ (s.setMe v).late = s.late ∧
    (s.setMe v).domains = s.domains ∧ (s.setMe v).hbm = s.hbm ∧ (s.setMe v).funcs = s.funcs ∧
    (s.setMe v).rings = s.rings ∧ (s.setMe v).links = s.links ∧ (s.setMe v).board = s.board ∧
    (s.setMe v).gateway = s.gateway ∧ (s.setMe v).cycles = s.cycles ∧ (s.setMe v).time = s.time ∧
    (s.setMe v).agenda = s.agenda ∧ (s.setMe v).cur = s.cur ∧ (s.setMe v).curJob = s.curJob ∧
    (s.setMe v).ticks = s.ticks ∧ (s.setMe v).nextId = s.nextId := by
  refine ⟨?_, ?_, ?_, ?_, ?_, ?_, ?_, ?_, ?_, ?_, ?_, ?_, ?_, ?_, ?_, ?_, ?_, ?_, ?_, ?_, ?_, ?_, ?_, ?_, ?_, ?_⟩ <;> rfl

@[simp] theorem State.retire_frame (s : State) :
    (s.retire).tiles = s.tiles ∧ (s.retire).clusters = s.clusters ∧ (s.retire).ctxs = s.ctxs ∧
    (s.retire).mem = s.mem ∧ (s.retire).remote = s.remote ∧ (s.retire).units = s.units ∧
    (s.retire).jobs = s.jobs ∧ (s.retire).reqs = s.reqs ∧ (s.retire).homes = s.homes ∧
    (s.retire).pools = s.pools ∧ (s.retire).grans = s.grans ∧ (s.retire).late = s.late ∧
    (s.retire).domains = s.domains ∧ (s.retire).hbm = s.hbm ∧ (s.retire).funcs = s.funcs ∧
    (s.retire).rings = s.rings ∧ (s.retire).links = s.links ∧ (s.retire).board = s.board ∧
    (s.retire).gateway = s.gateway ∧ (s.retire).cycles = s.cycles ∧ (s.retire).time = s.time ∧
    (s.retire).agenda = s.agenda ∧ (s.retire).cur = s.cur ∧ (s.retire).curJob = s.curJob ∧
    (s.retire).ticks = s.ticks ∧ (s.retire).nextId = s.nextId := by
  refine ⟨?_, ?_, ?_, ?_, ?_, ?_, ?_, ?_, ?_, ?_, ?_, ?_, ?_, ?_, ?_, ?_, ?_, ?_, ?_, ?_, ?_, ?_, ?_, ?_, ?_, ?_⟩ <;> rfl

@[simp] theorem State.retireX_frame (s : State) (rd : XReg) (w : Word) :
    (s.retireX rd w).tiles = s.tiles ∧ (s.retireX rd w).clusters = s.clusters ∧ (s.retireX rd w).ctxs = s.ctxs ∧
    (s.retireX rd w).mem = s.mem ∧ (s.retireX rd w).remote = s.remote ∧ (s.retireX rd w).units = s.units ∧
    (s.retireX rd w).jobs = s.jobs ∧ (s.retireX rd w).reqs = s.reqs ∧ (s.retireX rd w).homes = s.homes ∧
    (s.retireX rd w).pools = s.pools ∧ (s.retireX rd w).grans = s.grans ∧ (s.retireX rd w).late = s.late ∧
    (s.retireX rd w).domains = s.domains ∧ (s.retireX rd w).hbm = s.hbm ∧ (s.retireX rd w).funcs = s.funcs ∧
    (s.retireX rd w).rings = s.rings ∧ (s.retireX rd w).links = s.links ∧ (s.retireX rd w).board = s.board ∧
    (s.retireX rd w).gateway = s.gateway ∧ (s.retireX rd w).cycles = s.cycles ∧ (s.retireX rd w).time = s.time ∧
    (s.retireX rd w).agenda = s.agenda ∧ (s.retireX rd w).cur = s.cur ∧ (s.retireX rd w).curJob = s.curJob ∧
    (s.retireX rd w).ticks = s.ticks ∧ (s.retireX rd w).nextId = s.nextId := by
  refine ⟨?_, ?_, ?_, ?_, ?_, ?_, ?_, ?_, ?_, ?_, ?_, ?_, ?_, ?_, ?_, ?_, ?_, ?_, ?_, ?_, ?_, ?_, ?_, ?_, ?_, ?_⟩ <;> rfl

@[simp] theorem State.setTile_frame (s : State) (t : BitVec 10) (v : Tile) :
    (s.setTile t v).slots = s.slots ∧ (s.setTile t v).clusters = s.clusters ∧ (s.setTile t v).ctxs = s.ctxs ∧
    (s.setTile t v).mem = s.mem ∧ (s.setTile t v).remote = s.remote ∧ (s.setTile t v).units = s.units ∧
    (s.setTile t v).jobs = s.jobs ∧ (s.setTile t v).reqs = s.reqs ∧ (s.setTile t v).homes = s.homes ∧
    (s.setTile t v).pools = s.pools ∧ (s.setTile t v).grans = s.grans ∧ (s.setTile t v).late = s.late ∧
    (s.setTile t v).domains = s.domains ∧ (s.setTile t v).hbm = s.hbm ∧ (s.setTile t v).funcs = s.funcs ∧
    (s.setTile t v).rings = s.rings ∧ (s.setTile t v).links = s.links ∧ (s.setTile t v).board = s.board ∧
    (s.setTile t v).gateway = s.gateway ∧ (s.setTile t v).cycles = s.cycles ∧ (s.setTile t v).time = s.time ∧
    (s.setTile t v).agenda = s.agenda ∧ (s.setTile t v).cur = s.cur ∧ (s.setTile t v).curJob = s.curJob ∧
    (s.setTile t v).ticks = s.ticks ∧ (s.setTile t v).nextId = s.nextId := by
  refine ⟨?_, ?_, ?_, ?_, ?_, ?_, ?_, ?_, ?_, ?_, ?_, ?_, ?_, ?_, ?_, ?_, ?_, ?_, ?_, ?_, ?_, ?_, ?_, ?_, ?_, ?_⟩ <;> rfl

@[simp] theorem State.modTile_frame (s : State) (t : BitVec 10) (f : Tile → Tile) :
    (s.modTile t f).slots = s.slots ∧ (s.modTile t f).clusters = s.clusters ∧ (s.modTile t f).ctxs = s.ctxs ∧
    (s.modTile t f).mem = s.mem ∧ (s.modTile t f).remote = s.remote ∧ (s.modTile t f).units = s.units ∧
    (s.modTile t f).jobs = s.jobs ∧ (s.modTile t f).reqs = s.reqs ∧ (s.modTile t f).homes = s.homes ∧
    (s.modTile t f).pools = s.pools ∧ (s.modTile t f).grans = s.grans ∧ (s.modTile t f).late = s.late ∧
    (s.modTile t f).domains = s.domains ∧ (s.modTile t f).hbm = s.hbm ∧ (s.modTile t f).funcs = s.funcs ∧
    (s.modTile t f).rings = s.rings ∧ (s.modTile t f).links = s.links ∧ (s.modTile t f).board = s.board ∧
    (s.modTile t f).gateway = s.gateway ∧ (s.modTile t f).cycles = s.cycles ∧ (s.modTile t f).time = s.time ∧
    (s.modTile t f).agenda = s.agenda ∧ (s.modTile t f).cur = s.cur ∧ (s.modTile t f).curJob = s.curJob ∧
    (s.modTile t f).ticks = s.ticks ∧ (s.modTile t f).nextId = s.nextId := by
  refine ⟨?_, ?_, ?_, ?_, ?_, ?_, ?_, ?_, ?_, ?_, ?_, ?_, ?_, ?_, ?_, ?_, ?_, ?_, ?_, ?_, ?_, ?_, ?_, ?_, ?_, ?_⟩ <;> rfl

@[simp] theorem State.modEntry_frame (s : State) (t : BitVec 10) (e : BitVec 6) (f : Entry → Entry) :
    (s.modEntry t e f).slots = s.slots ∧ (s.modEntry t e f).clusters = s.clusters ∧ (s.modEntry t e f).ctxs = s.ctxs ∧
    (s.modEntry t e f).mem = s.mem ∧ (s.modEntry t e f).remote = s.remote ∧ (s.modEntry t e f).units = s.units ∧
    (s.modEntry t e f).jobs = s.jobs ∧ (s.modEntry t e f).reqs = s.reqs ∧ (s.modEntry t e f).homes = s.homes ∧
    (s.modEntry t e f).pools = s.pools ∧ (s.modEntry t e f).grans = s.grans ∧ (s.modEntry t e f).late = s.late ∧
    (s.modEntry t e f).domains = s.domains ∧ (s.modEntry t e f).hbm = s.hbm ∧ (s.modEntry t e f).funcs = s.funcs ∧
    (s.modEntry t e f).rings = s.rings ∧ (s.modEntry t e f).links = s.links ∧ (s.modEntry t e f).board = s.board ∧
    (s.modEntry t e f).gateway = s.gateway ∧ (s.modEntry t e f).cycles = s.cycles ∧ (s.modEntry t e f).time = s.time ∧
    (s.modEntry t e f).agenda = s.agenda ∧ (s.modEntry t e f).cur = s.cur ∧ (s.modEntry t e f).curJob = s.curJob ∧
    (s.modEntry t e f).ticks = s.ticks ∧ (s.modEntry t e f).nextId = s.nextId := by
  refine ⟨?_, ?_, ?_, ?_, ?_, ?_, ?_, ?_, ?_, ?_, ?_, ?_, ?_, ?_, ?_, ?_, ?_, ?_, ?_, ?_, ?_, ?_, ?_, ?_, ?_, ?_⟩ <;> rfl

@[simp] theorem State.modChan_frame (s : State) (t : BitVec 10) (c : BitVec 6) (f : Chan → Chan) :
    (s.modChan t c f).slots = s.slots ∧ (s.modChan t c f).clusters = s.clusters ∧ (s.modChan t c f).ctxs = s.ctxs ∧
    (s.modChan t c f).mem = s.mem ∧ (s.modChan t c f).remote = s.remote ∧ (s.modChan t c f).units = s.units ∧
    (s.modChan t c f).jobs = s.jobs ∧ (s.modChan t c f).reqs = s.reqs ∧ (s.modChan t c f).homes = s.homes ∧
    (s.modChan t c f).pools = s.pools ∧ (s.modChan t c f).grans = s.grans ∧ (s.modChan t c f).late = s.late ∧
    (s.modChan t c f).domains = s.domains ∧ (s.modChan t c f).hbm = s.hbm ∧ (s.modChan t c f).funcs = s.funcs ∧
    (s.modChan t c f).rings = s.rings ∧ (s.modChan t c f).links = s.links ∧ (s.modChan t c f).board = s.board ∧
    (s.modChan t c f).gateway = s.gateway ∧ (s.modChan t c f).cycles = s.cycles ∧ (s.modChan t c f).time = s.time ∧
    (s.modChan t c f).agenda = s.agenda ∧ (s.modChan t c f).cur = s.cur ∧ (s.modChan t c f).curJob = s.curJob ∧
    (s.modChan t c f).ticks = s.ticks ∧ (s.modChan t c f).nextId = s.nextId := by
  refine ⟨?_, ?_, ?_, ?_, ?_, ?_, ?_, ?_, ?_, ?_, ?_, ?_, ?_, ?_, ?_, ?_, ?_, ?_, ?_, ?_, ?_, ?_, ?_, ?_, ?_, ?_⟩ <;> rfl

@[simp] theorem State.setSem_frame (s : State) (t : BitVec 10) (k : Nat) (c : BitVec 16) :
    (s.setSem t k c).slots = s.slots ∧ (s.setSem t k c).clusters = s.clusters ∧ (s.setSem t k c).ctxs = s.ctxs ∧
    (s.setSem t k c).mem = s.mem ∧ (s.setSem t k c).remote = s.remote ∧ (s.setSem t k c).units = s.units ∧
    (s.setSem t k c).jobs = s.jobs ∧ (s.setSem t k c).reqs = s.reqs ∧ (s.setSem t k c).homes = s.homes ∧
    (s.setSem t k c).pools = s.pools ∧ (s.setSem t k c).grans = s.grans ∧ (s.setSem t k c).late = s.late ∧
    (s.setSem t k c).domains = s.domains ∧ (s.setSem t k c).hbm = s.hbm ∧ (s.setSem t k c).funcs = s.funcs ∧
    (s.setSem t k c).rings = s.rings ∧ (s.setSem t k c).links = s.links ∧ (s.setSem t k c).board = s.board ∧
    (s.setSem t k c).gateway = s.gateway ∧ (s.setSem t k c).cycles = s.cycles ∧ (s.setSem t k c).time = s.time ∧
    (s.setSem t k c).agenda = s.agenda ∧ (s.setSem t k c).cur = s.cur ∧ (s.setSem t k c).curJob = s.curJob ∧
    (s.setSem t k c).ticks = s.ticks ∧ (s.setSem t k c).nextId = s.nextId := by
  refine ⟨?_, ?_, ?_, ?_, ?_, ?_, ?_, ?_, ?_, ?_, ?_, ?_, ?_, ?_, ?_, ?_, ?_, ?_, ?_, ?_, ?_, ?_, ?_, ?_, ?_, ?_⟩ <;> rfl

@[simp] theorem State.modCluster_frame (s : State) (c : BitVec 6) (f : Cluster → Cluster) :
    (s.modCluster c f).slots = s.slots ∧ (s.modCluster c f).tiles = s.tiles ∧ (s.modCluster c f).ctxs = s.ctxs ∧
    (s.modCluster c f).mem = s.mem ∧ (s.modCluster c f).remote = s.remote ∧ (s.modCluster c f).units = s.units ∧
    (s.modCluster c f).jobs = s.jobs ∧ (s.modCluster c f).reqs = s.reqs ∧ (s.modCluster c f).homes = s.homes ∧
    (s.modCluster c f).pools = s.pools ∧ (s.modCluster c f).grans = s.grans ∧ (s.modCluster c f).late = s.late ∧
    (s.modCluster c f).domains = s.domains ∧ (s.modCluster c f).hbm = s.hbm ∧ (s.modCluster c f).funcs = s.funcs ∧
    (s.modCluster c f).rings = s.rings ∧ (s.modCluster c f).links = s.links ∧ (s.modCluster c f).board = s.board ∧
    (s.modCluster c f).gateway = s.gateway ∧ (s.modCluster c f).cycles = s.cycles ∧ (s.modCluster c f).time = s.time ∧
    (s.modCluster c f).agenda = s.agenda ∧ (s.modCluster c f).cur = s.cur ∧ (s.modCluster c f).curJob = s.curJob ∧
    (s.modCluster c f).ticks = s.ticks ∧ (s.modCluster c f).nextId = s.nextId := by
  refine ⟨?_, ?_, ?_, ?_, ?_, ?_, ?_, ?_, ?_, ?_, ?_, ?_, ?_, ?_, ?_, ?_, ?_, ?_, ?_, ?_, ?_, ?_, ?_, ?_, ?_, ?_⟩ <;> rfl

@[simp] theorem State.modCtx_frame (s : State) (c : BitVec 8) (f : Ctx → Ctx) :
    (s.modCtx c f).slots = s.slots ∧ (s.modCtx c f).tiles = s.tiles ∧ (s.modCtx c f).clusters = s.clusters ∧
    (s.modCtx c f).mem = s.mem ∧ (s.modCtx c f).remote = s.remote ∧ (s.modCtx c f).units = s.units ∧
    (s.modCtx c f).jobs = s.jobs ∧ (s.modCtx c f).reqs = s.reqs ∧ (s.modCtx c f).homes = s.homes ∧
    (s.modCtx c f).pools = s.pools ∧ (s.modCtx c f).grans = s.grans ∧ (s.modCtx c f).late = s.late ∧
    (s.modCtx c f).domains = s.domains ∧ (s.modCtx c f).hbm = s.hbm ∧ (s.modCtx c f).funcs = s.funcs ∧
    (s.modCtx c f).rings = s.rings ∧ (s.modCtx c f).links = s.links ∧ (s.modCtx c f).board = s.board ∧
    (s.modCtx c f).gateway = s.gateway ∧ (s.modCtx c f).cycles = s.cycles ∧ (s.modCtx c f).time = s.time ∧
    (s.modCtx c f).agenda = s.agenda ∧ (s.modCtx c f).cur = s.cur ∧ (s.modCtx c f).curJob = s.curJob ∧
    (s.modCtx c f).ticks = s.ticks ∧ (s.modCtx c f).nextId = s.nextId := by
  refine ⟨?_, ?_, ?_, ?_, ?_, ?_, ?_, ?_, ?_, ?_, ?_, ?_, ?_, ?_, ?_, ?_, ?_, ?_, ?_, ?_, ?_, ?_, ?_, ?_, ?_, ?_⟩ <;> rfl

@[simp] theorem State.modTte_frame (s : State) (c : BitVec 8) (x : BitVec 20) (f : Tte → Tte) :
    (s.modTte c x f).slots = s.slots ∧ (s.modTte c x f).tiles = s.tiles ∧ (s.modTte c x f).clusters = s.clusters ∧
    (s.modTte c x f).mem = s.mem ∧ (s.modTte c x f).remote = s.remote ∧ (s.modTte c x f).units = s.units ∧
    (s.modTte c x f).jobs = s.jobs ∧ (s.modTte c x f).reqs = s.reqs ∧ (s.modTte c x f).homes = s.homes ∧
    (s.modTte c x f).pools = s.pools ∧ (s.modTte c x f).grans = s.grans ∧ (s.modTte c x f).late = s.late ∧
    (s.modTte c x f).domains = s.domains ∧ (s.modTte c x f).hbm = s.hbm ∧ (s.modTte c x f).funcs = s.funcs ∧
    (s.modTte c x f).rings = s.rings ∧ (s.modTte c x f).links = s.links ∧ (s.modTte c x f).board = s.board ∧
    (s.modTte c x f).gateway = s.gateway ∧ (s.modTte c x f).cycles = s.cycles ∧ (s.modTte c x f).time = s.time ∧
    (s.modTte c x f).agenda = s.agenda ∧ (s.modTte c x f).cur = s.cur ∧ (s.modTte c x f).curJob = s.curJob ∧
    (s.modTte c x f).ticks = s.ticks ∧ (s.modTte c x f).nextId = s.nextId := by
  refine ⟨?_, ?_, ?_, ?_, ?_, ?_, ?_, ?_, ?_, ?_, ?_, ?_, ?_, ?_, ?_, ?_, ?_, ?_, ?_, ?_, ?_, ?_, ?_, ?_, ?_, ?_⟩ <;> rfl

@[simp] theorem State.modFunc_frame (s : State) (f : BitVec 5) (g : Func → Func) :
    (s.modFunc f g).slots = s.slots ∧ (s.modFunc f g).tiles = s.tiles ∧ (s.modFunc f g).clusters = s.clusters ∧
    (s.modFunc f g).ctxs = s.ctxs ∧ (s.modFunc f g).mem = s.mem ∧ (s.modFunc f g).remote = s.remote ∧
    (s.modFunc f g).units = s.units ∧ (s.modFunc f g).jobs = s.jobs ∧ (s.modFunc f g).reqs = s.reqs ∧
    (s.modFunc f g).homes = s.homes ∧ (s.modFunc f g).pools = s.pools ∧ (s.modFunc f g).grans = s.grans ∧
    (s.modFunc f g).late = s.late ∧ (s.modFunc f g).domains = s.domains ∧ (s.modFunc f g).hbm = s.hbm ∧
    (s.modFunc f g).rings = s.rings ∧ (s.modFunc f g).links = s.links ∧ (s.modFunc f g).board = s.board ∧
    (s.modFunc f g).gateway = s.gateway ∧ (s.modFunc f g).cycles = s.cycles ∧ (s.modFunc f g).time = s.time ∧
    (s.modFunc f g).agenda = s.agenda ∧ (s.modFunc f g).cur = s.cur ∧ (s.modFunc f g).curJob = s.curJob ∧
    (s.modFunc f g).ticks = s.ticks ∧ (s.modFunc f g).nextId = s.nextId := by
  refine ⟨?_, ?_, ?_, ?_, ?_, ?_, ?_, ?_, ?_, ?_, ?_, ?_, ?_, ?_, ?_, ?_, ?_, ?_, ?_, ?_, ?_, ?_, ?_, ?_, ?_, ?_⟩ <;> rfl

@[simp] theorem State.modDomain_frame (s : State) (d : BitVec 10) (g : Domain → Domain) :
    (s.modDomain d g).slots = s.slots ∧ (s.modDomain d g).tiles = s.tiles ∧ (s.modDomain d g).clusters = s.clusters ∧
    (s.modDomain d g).ctxs = s.ctxs ∧ (s.modDomain d g).mem = s.mem ∧ (s.modDomain d g).remote = s.remote ∧
    (s.modDomain d g).units = s.units ∧ (s.modDomain d g).jobs = s.jobs ∧ (s.modDomain d g).reqs = s.reqs ∧
    (s.modDomain d g).homes = s.homes ∧ (s.modDomain d g).pools = s.pools ∧ (s.modDomain d g).grans = s.grans ∧
    (s.modDomain d g).late = s.late ∧ (s.modDomain d g).hbm = s.hbm ∧ (s.modDomain d g).funcs = s.funcs ∧
    (s.modDomain d g).rings = s.rings ∧ (s.modDomain d g).links = s.links ∧ (s.modDomain d g).board = s.board ∧
    (s.modDomain d g).gateway = s.gateway ∧ (s.modDomain d g).cycles = s.cycles ∧ (s.modDomain d g).time = s.time ∧
    (s.modDomain d g).agenda = s.agenda ∧ (s.modDomain d g).cur = s.cur ∧ (s.modDomain d g).curJob = s.curJob ∧
    (s.modDomain d g).ticks = s.ticks ∧ (s.modDomain d g).nextId = s.nextId := by
  refine ⟨?_, ?_, ?_, ?_, ?_, ?_, ?_, ?_, ?_, ?_, ?_, ?_, ?_, ?_, ?_, ?_, ?_, ?_, ?_, ?_, ?_, ?_, ?_, ?_, ?_, ?_⟩ <;> rfl

@[simp] theorem State.modPool_frame (s : State) (p : BitVec 6) (g : Pool → Pool) :
    (s.modPool p g).slots = s.slots ∧ (s.modPool p g).tiles = s.tiles ∧ (s.modPool p g).clusters = s.clusters ∧
    (s.modPool p g).ctxs = s.ctxs ∧ (s.modPool p g).mem = s.mem ∧ (s.modPool p g).remote = s.remote ∧
    (s.modPool p g).units = s.units ∧ (s.modPool p g).jobs = s.jobs ∧ (s.modPool p g).reqs = s.reqs ∧
    (s.modPool p g).homes = s.homes ∧ (s.modPool p g).grans = s.grans ∧ (s.modPool p g).late = s.late ∧
    (s.modPool p g).domains = s.domains ∧ (s.modPool p g).hbm = s.hbm ∧ (s.modPool p g).funcs = s.funcs ∧
    (s.modPool p g).rings = s.rings ∧ (s.modPool p g).links = s.links ∧ (s.modPool p g).board = s.board ∧
    (s.modPool p g).gateway = s.gateway ∧ (s.modPool p g).cycles = s.cycles ∧ (s.modPool p g).time = s.time ∧
    (s.modPool p g).agenda = s.agenda ∧ (s.modPool p g).cur = s.cur ∧ (s.modPool p g).curJob = s.curJob ∧
    (s.modPool p g).ticks = s.ticks ∧ (s.modPool p g).nextId = s.nextId := by
  refine ⟨?_, ?_, ?_, ?_, ?_, ?_, ?_, ?_, ?_, ?_, ?_, ?_, ?_, ?_, ?_, ?_, ?_, ?_, ?_, ?_, ?_, ?_, ?_, ?_, ?_, ?_⟩ <;> rfl

@[simp] theorem State.modShard_frame (s : State) (p : BitVec 6) (d : BitVec 3) (g : Shard → Shard) :
    (s.modShard p d g).slots = s.slots ∧ (s.modShard p d g).tiles = s.tiles ∧ (s.modShard p d g).clusters = s.clusters ∧
    (s.modShard p d g).ctxs = s.ctxs ∧ (s.modShard p d g).mem = s.mem ∧ (s.modShard p d g).remote = s.remote ∧
    (s.modShard p d g).units = s.units ∧ (s.modShard p d g).jobs = s.jobs ∧ (s.modShard p d g).reqs = s.reqs ∧
    (s.modShard p d g).homes = s.homes ∧ (s.modShard p d g).grans = s.grans ∧ (s.modShard p d g).late = s.late ∧
    (s.modShard p d g).domains = s.domains ∧ (s.modShard p d g).hbm = s.hbm ∧ (s.modShard p d g).funcs = s.funcs ∧
    (s.modShard p d g).rings = s.rings ∧ (s.modShard p d g).links = s.links ∧ (s.modShard p d g).board = s.board ∧
    (s.modShard p d g).gateway = s.gateway ∧ (s.modShard p d g).cycles = s.cycles ∧ (s.modShard p d g).time = s.time ∧
    (s.modShard p d g).agenda = s.agenda ∧ (s.modShard p d g).cur = s.cur ∧ (s.modShard p d g).curJob = s.curJob ∧
    (s.modShard p d g).ticks = s.ticks ∧ (s.modShard p d g).nextId = s.nextId := by
  refine ⟨?_, ?_, ?_, ?_, ?_, ?_, ?_, ?_, ?_, ?_, ?_, ?_, ?_, ?_, ?_, ?_, ?_, ?_, ?_, ?_, ?_, ?_, ?_, ?_, ?_, ?_⟩ <;> rfl

@[simp] theorem State.modLink_frame (s : State) (a b : BitVec 3) (g : Link28 → Link28) :
    (s.modLink a b g).slots = s.slots ∧ (s.modLink a b g).tiles = s.tiles ∧ (s.modLink a b g).clusters = s.clusters ∧
    (s.modLink a b g).ctxs = s.ctxs ∧ (s.modLink a b g).mem = s.mem ∧ (s.modLink a b g).remote = s.remote ∧
    (s.modLink a b g).units = s.units ∧ (s.modLink a b g).jobs = s.jobs ∧ (s.modLink a b g).reqs = s.reqs ∧
    (s.modLink a b g).homes = s.homes ∧ (s.modLink a b g).pools = s.pools ∧ (s.modLink a b g).grans = s.grans ∧
    (s.modLink a b g).late = s.late ∧ (s.modLink a b g).domains = s.domains ∧ (s.modLink a b g).hbm = s.hbm ∧
    (s.modLink a b g).funcs = s.funcs ∧ (s.modLink a b g).rings = s.rings ∧ (s.modLink a b g).board = s.board ∧
    (s.modLink a b g).gateway = s.gateway ∧ (s.modLink a b g).cycles = s.cycles ∧ (s.modLink a b g).time = s.time ∧
    (s.modLink a b g).agenda = s.agenda ∧ (s.modLink a b g).cur = s.cur ∧ (s.modLink a b g).curJob = s.curJob ∧
    (s.modLink a b g).ticks = s.ticks ∧ (s.modLink a b g).nextId = s.nextId := by
  refine ⟨?_, ?_, ?_, ?_, ?_, ?_, ?_, ?_, ?_, ?_, ?_, ?_, ?_, ?_, ?_, ?_, ?_, ?_, ?_, ?_, ?_, ?_, ?_, ?_, ?_, ?_⟩ <;> rfl

@[simp] theorem State.modJob_frame (s : State) (t : BitVec 10) (n : BitVec 16) (f : Job → Job) :
    (s.modJob t n f).slots = s.slots ∧ (s.modJob t n f).tiles = s.tiles ∧ (s.modJob t n f).clusters = s.clusters ∧
    (s.modJob t n f).ctxs = s.ctxs ∧ (s.modJob t n f).mem = s.mem ∧ (s.modJob t n f).remote = s.remote ∧
    (s.modJob t n f).units = s.units ∧ (s.modJob t n f).reqs = s.reqs ∧ (s.modJob t n f).homes = s.homes ∧
    (s.modJob t n f).pools = s.pools ∧ (s.modJob t n f).grans = s.grans ∧ (s.modJob t n f).late = s.late ∧
    (s.modJob t n f).domains = s.domains ∧ (s.modJob t n f).hbm = s.hbm ∧ (s.modJob t n f).funcs = s.funcs ∧
    (s.modJob t n f).rings = s.rings ∧ (s.modJob t n f).links = s.links ∧ (s.modJob t n f).board = s.board ∧
    (s.modJob t n f).gateway = s.gateway ∧ (s.modJob t n f).cycles = s.cycles ∧ (s.modJob t n f).time = s.time ∧
    (s.modJob t n f).agenda = s.agenda ∧ (s.modJob t n f).cur = s.cur ∧ (s.modJob t n f).curJob = s.curJob ∧
    (s.modJob t n f).ticks = s.ticks ∧ (s.modJob t n f).nextId = s.nextId := by
  refine ⟨?_, ?_, ?_, ?_, ?_, ?_, ?_, ?_, ?_, ?_, ?_, ?_, ?_, ?_, ?_, ?_, ?_, ?_, ?_, ?_, ?_, ?_, ?_, ?_, ?_, ?_⟩ <;> rfl

@[simp] theorem State.modReq_frame (s : State) (id : Nat) (f : Req → Req) :
    (s.modReq id f).slots = s.slots ∧ (s.modReq id f).tiles = s.tiles ∧ (s.modReq id f).clusters = s.clusters ∧
    (s.modReq id f).ctxs = s.ctxs ∧ (s.modReq id f).mem = s.mem ∧ (s.modReq id f).remote = s.remote ∧
    (s.modReq id f).units = s.units ∧ (s.modReq id f).jobs = s.jobs ∧ (s.modReq id f).homes = s.homes ∧
    (s.modReq id f).pools = s.pools ∧ (s.modReq id f).grans = s.grans ∧ (s.modReq id f).late = s.late ∧
    (s.modReq id f).domains = s.domains ∧ (s.modReq id f).hbm = s.hbm ∧ (s.modReq id f).funcs = s.funcs ∧
    (s.modReq id f).rings = s.rings ∧ (s.modReq id f).links = s.links ∧ (s.modReq id f).board = s.board ∧
    (s.modReq id f).gateway = s.gateway ∧ (s.modReq id f).cycles = s.cycles ∧ (s.modReq id f).time = s.time ∧
    (s.modReq id f).agenda = s.agenda ∧ (s.modReq id f).cur = s.cur ∧ (s.modReq id f).curJob = s.curJob ∧
    (s.modReq id f).ticks = s.ticks ∧ (s.modReq id f).nextId = s.nextId := by
  refine ⟨?_, ?_, ?_, ?_, ?_, ?_, ?_, ?_, ?_, ?_, ?_, ?_, ?_, ?_, ?_, ?_, ?_, ?_, ?_, ?_, ?_, ?_, ?_, ?_, ?_, ?_⟩ <;> rfl

@[simp] theorem State.dropReq_frame (s : State) (id : Nat) :
    (s.dropReq id).slots = s.slots ∧ (s.dropReq id).tiles = s.tiles ∧ (s.dropReq id).clusters = s.clusters ∧
    (s.dropReq id).ctxs = s.ctxs ∧ (s.dropReq id).mem = s.mem ∧ (s.dropReq id).remote = s.remote ∧
    (s.dropReq id).units = s.units ∧ (s.dropReq id).jobs = s.jobs ∧ (s.dropReq id).homes = s.homes ∧
    (s.dropReq id).pools = s.pools ∧ (s.dropReq id).grans = s.grans ∧ (s.dropReq id).late = s.late ∧
    (s.dropReq id).domains = s.domains ∧ (s.dropReq id).hbm = s.hbm ∧ (s.dropReq id).funcs = s.funcs ∧
    (s.dropReq id).rings = s.rings ∧ (s.dropReq id).links = s.links ∧ (s.dropReq id).board = s.board ∧
    (s.dropReq id).gateway = s.gateway ∧ (s.dropReq id).cycles = s.cycles ∧ (s.dropReq id).time = s.time ∧
    (s.dropReq id).agenda = s.agenda ∧ (s.dropReq id).cur = s.cur ∧ (s.dropReq id).curJob = s.curJob ∧
    (s.dropReq id).ticks = s.ticks ∧ (s.dropReq id).nextId = s.nextId := by
  refine ⟨?_, ?_, ?_, ?_, ?_, ?_, ?_, ?_, ?_, ?_, ?_, ?_, ?_, ?_, ?_, ?_, ?_, ?_, ?_, ?_, ?_, ?_, ?_, ?_, ?_, ?_⟩ <;> rfl

@[simp] theorem State.setHome_frame (s : State) (v : HomeState) :
    (s.setHome v).slots = s.slots ∧ (s.setHome v).tiles = s.tiles ∧ (s.setHome v).clusters = s.clusters ∧
    (s.setHome v).ctxs = s.ctxs ∧ (s.setHome v).mem = s.mem ∧ (s.setHome v).remote = s.remote ∧
    (s.setHome v).units = s.units ∧ (s.setHome v).jobs = s.jobs ∧ (s.setHome v).reqs = s.reqs ∧
    (s.setHome v).pools = s.pools ∧ (s.setHome v).grans = s.grans ∧ (s.setHome v).late = s.late ∧
    (s.setHome v).domains = s.domains ∧ (s.setHome v).hbm = s.hbm ∧ (s.setHome v).funcs = s.funcs ∧
    (s.setHome v).rings = s.rings ∧ (s.setHome v).links = s.links ∧ (s.setHome v).board = s.board ∧
    (s.setHome v).gateway = s.gateway ∧ (s.setHome v).cycles = s.cycles ∧ (s.setHome v).time = s.time ∧
    (s.setHome v).agenda = s.agenda ∧ (s.setHome v).cur = s.cur ∧ (s.setHome v).curJob = s.curJob ∧
    (s.setHome v).ticks = s.ticks ∧ (s.setHome v).nextId = s.nextId := by
  refine ⟨?_, ?_, ?_, ?_, ?_, ?_, ?_, ?_, ?_, ?_, ?_, ?_, ?_, ?_, ?_, ?_, ?_, ?_, ?_, ?_, ?_, ?_, ?_, ?_, ?_, ?_⟩ <;> rfl

@[simp] theorem State.fresh_frame (s : State) :
    (s.fresh).slots = s.slots ∧ (s.fresh).tiles = s.tiles ∧ (s.fresh).clusters = s.clusters ∧
    (s.fresh).ctxs = s.ctxs ∧ (s.fresh).mem = s.mem ∧ (s.fresh).remote = s.remote ∧
    (s.fresh).units = s.units ∧ (s.fresh).jobs = s.jobs ∧ (s.fresh).reqs = s.reqs ∧
    (s.fresh).homes = s.homes ∧ (s.fresh).pools = s.pools ∧ (s.fresh).grans = s.grans ∧
    (s.fresh).late = s.late ∧ (s.fresh).domains = s.domains ∧ (s.fresh).hbm = s.hbm ∧
    (s.fresh).funcs = s.funcs ∧ (s.fresh).rings = s.rings ∧ (s.fresh).links = s.links ∧
    (s.fresh).board = s.board ∧ (s.fresh).gateway = s.gateway ∧ (s.fresh).cycles = s.cycles ∧
    (s.fresh).time = s.time ∧ (s.fresh).agenda = s.agenda ∧ (s.fresh).cur = s.cur ∧
    (s.fresh).curJob = s.curJob ∧ (s.fresh).ticks = s.ticks := by
  refine ⟨?_, ?_, ?_, ?_, ?_, ?_, ?_, ?_, ?_, ?_, ?_, ?_, ?_, ?_, ?_, ?_, ?_, ?_, ?_, ?_, ?_, ?_, ?_, ?_, ?_, ?_⟩ <;> rfl

@[simp] theorem State.store_frame (s : State) (a : Nat) (bs : List Byte) :
    (s.store a bs).slots = s.slots ∧ (s.store a bs).tiles = s.tiles ∧ (s.store a bs).clusters = s.clusters ∧
    (s.store a bs).ctxs = s.ctxs ∧ (s.store a bs).remote = s.remote ∧ (s.store a bs).units = s.units ∧
    (s.store a bs).jobs = s.jobs ∧ (s.store a bs).reqs = s.reqs ∧ (s.store a bs).homes = s.homes ∧
    (s.store a bs).pools = s.pools ∧ (s.store a bs).grans = s.grans ∧ (s.store a bs).late = s.late ∧
    (s.store a bs).domains = s.domains ∧ (s.store a bs).hbm = s.hbm ∧ (s.store a bs).funcs = s.funcs ∧
    (s.store a bs).rings = s.rings ∧ (s.store a bs).links = s.links ∧ (s.store a bs).board = s.board ∧
    (s.store a bs).gateway = s.gateway ∧ (s.store a bs).cycles = s.cycles ∧ (s.store a bs).time = s.time ∧
    (s.store a bs).agenda = s.agenda ∧ (s.store a bs).cur = s.cur ∧ (s.store a bs).curJob = s.curJob ∧
    (s.store a bs).ticks = s.ticks ∧ (s.store a bs).nextId = s.nextId := by
  refine ⟨?_, ?_, ?_, ?_, ?_, ?_, ?_, ?_, ?_, ?_, ?_, ?_, ?_, ?_, ?_, ?_, ?_, ?_, ?_, ?_, ?_, ?_, ?_, ?_, ?_, ?_⟩ <;> rfl

@[simp] theorem State.modUnit_frame (s : State) (key : Nat) (f : Unit64 → Unit64) :
    (s.modUnit key f).slots = s.slots ∧ (s.modUnit key f).tiles = s.tiles ∧ (s.modUnit key f).clusters = s.clusters ∧
    (s.modUnit key f).ctxs = s.ctxs ∧ (s.modUnit key f).mem = s.mem ∧ (s.modUnit key f).remote = s.remote ∧
    (s.modUnit key f).jobs = s.jobs ∧ (s.modUnit key f).reqs = s.reqs ∧ (s.modUnit key f).homes = s.homes ∧
    (s.modUnit key f).pools = s.pools ∧ (s.modUnit key f).grans = s.grans ∧ (s.modUnit key f).late = s.late ∧
    (s.modUnit key f).domains = s.domains ∧ (s.modUnit key f).hbm = s.hbm ∧ (s.modUnit key f).funcs = s.funcs ∧
    (s.modUnit key f).rings = s.rings ∧ (s.modUnit key f).links = s.links ∧ (s.modUnit key f).board = s.board ∧
    (s.modUnit key f).gateway = s.gateway ∧ (s.modUnit key f).cycles = s.cycles ∧ (s.modUnit key f).time = s.time ∧
    (s.modUnit key f).agenda = s.agenda ∧ (s.modUnit key f).cur = s.cur ∧ (s.modUnit key f).curJob = s.curJob ∧
    (s.modUnit key f).ticks = s.ticks ∧ (s.modUnit key f).nextId = s.nextId := by
  refine ⟨?_, ?_, ?_, ?_, ?_, ?_, ?_, ?_, ?_, ?_, ?_, ?_, ?_, ?_, ?_, ?_, ?_, ?_, ?_, ?_, ?_, ?_, ?_, ?_, ?_, ?_⟩ <;> rfl

@[simp] theorem State.pushFunc_frame (s : State) (r : FaultRec) :
    (s.pushFunc r).slots = s.slots ∧ (s.pushFunc r).tiles = s.tiles ∧ (s.pushFunc r).clusters = s.clusters ∧
    (s.pushFunc r).ctxs = s.ctxs ∧ (s.pushFunc r).mem = s.mem ∧ (s.pushFunc r).remote = s.remote ∧
    (s.pushFunc r).units = s.units ∧ (s.pushFunc r).jobs = s.jobs ∧ (s.pushFunc r).reqs = s.reqs ∧
    (s.pushFunc r).homes = s.homes ∧ (s.pushFunc r).pools = s.pools ∧ (s.pushFunc r).grans = s.grans ∧
    (s.pushFunc r).late = s.late ∧ (s.pushFunc r).domains = s.domains ∧ (s.pushFunc r).hbm = s.hbm ∧
    (s.pushFunc r).rings = s.rings ∧ (s.pushFunc r).links = s.links ∧ (s.pushFunc r).board = s.board ∧
    (s.pushFunc r).gateway = s.gateway ∧ (s.pushFunc r).cycles = s.cycles ∧ (s.pushFunc r).time = s.time ∧
    (s.pushFunc r).agenda = s.agenda ∧ (s.pushFunc r).cur = s.cur ∧ (s.pushFunc r).curJob = s.curJob ∧
    (s.pushFunc r).ticks = s.ticks ∧ (s.pushFunc r).nextId = s.nextId := by
  refine ⟨?_, ?_, ?_, ?_, ?_, ?_, ?_, ?_, ?_, ?_, ?_, ?_, ?_, ?_, ?_, ?_, ?_, ?_, ?_, ?_, ?_, ?_, ?_, ?_, ?_, ?_⟩ <;> rfl

/-! ### Tables -/

theorem find_put {α : Type} (d : α) (m : Map α) (k j : Nat) (v : α) : find d (put m k v) j = if j = k then v else find d m j := by
  induction m with
  | nil =>
    simp only [put, find]
    by_cases h : j = k
    · simp [h]
    · simp [h, Ne.symm h]
  | cons e m ih =>
    obtain ⟨a, w⟩ := e
    simp only [put]
    split
    · next h =>
      subst h
      by_cases e : j = a
      · simp [find, e]
      · simp [find, e, Ne.symm e]
    · next h =>
      simp only [find]
      split
      · next h' => subst h'; simp [h]
      · exact ih

@[simp] theorem find_put_same {α : Type} (d : α) (m : Map α) (k : Nat) (v : α) : find d (put m k v) k = v := by
  simp [find_put]

theorem find_put_ne {α : Type} (d : α) (m : Map α) {k j : Nat} (v : α) (h : j ≠ k) : find d (put m k v) j = find d m j := by
  simp [find_put, h]

/-! ### Reading back -/

@[simp] theorem State.slot_setSlot (s : State) (i : SlotId) (v : Slot) : (s.setSlot i v).slot i = v := by
  simp [State.slot, State.setSlot]

theorem State.slot_setSlot_ne (s : State) {i j : SlotId} (v : Slot) (h : SlotId_num j ≠ SlotId_num i) :
    (s.setSlot i v).slot j = s.slot j := by
  simp [State.slot, State.setSlot, find_put_ne _ _ _ h]

@[simp] theorem State.me_setMe (s : State) (v : Slot) : (s.setMe v).me = v := by simp [State.me, State.setMe]

@[simp] theorem State.tile_setTile (s : State) (t : BitVec 10) (v : Tile) : (s.setTile t v).tile t = v := by
  simp [State.tile, State.setTile]

theorem State.tile_setTile_ne (s : State) {t u : BitVec 10} (v : Tile) (h : u ≠ t) : (s.setTile t v).tile u = s.tile u := by
  have : u.toNat ≠ t.toNat := fun e => h (BitVec.eq_of_toNat_eq e)
  simp [State.tile, State.setTile, find_put_ne _ _ _ this]

@[simp] theorem State.tile_modTile (s : State) (t : BitVec 10) (f : Tile → Tile) : (s.modTile t f).tile t = f (s.tile t) := by
  simp [State.modTile]

@[simp] theorem State.ctx_modCtx (s : State) (c : BitVec 8) (f : Ctx → Ctx) : (s.modCtx c f).ctx c = f (s.ctx c) := by
  simp [State.ctx, State.modCtx, State.setCtx]

theorem State.ctx_modCtx_ne (s : State) {c d : BitVec 8} (f : Ctx → Ctx) (h : d ≠ c) : (s.modCtx c f).ctx d = s.ctx d := by
  have : d.toNat ≠ c.toNat := fun e => h (BitVec.eq_of_toNat_eq e)
  simp [State.ctx, State.modCtx, State.setCtx, find_put_ne _ _ _ this]

@[simp] theorem State.cluster_modCluster (s : State) (c : BitVec 6) (f : Cluster → Cluster) :
    (s.modCluster c f).cluster c = f (s.cluster c) := by
  simp [State.cluster, State.modCluster, State.setCluster]

@[simp] theorem State.func_modFunc (s : State) (f : BitVec 5) (g : Func → Func) : (s.modFunc f g).func f = g (s.func f) := by
  simp [State.func, State.modFunc, State.setFunc]

theorem State.func_modFunc_ne (s : State) {f e : BitVec 5} (g : Func → Func) (h : e ≠ f) : (s.modFunc f g).func e = s.func e := by
  have : e.toNat ≠ f.toNat := fun x => h (BitVec.eq_of_toNat_eq x)
  simp [State.func, State.modFunc, State.setFunc, find_put_ne _ _ _ this]

@[simp] theorem State.domain_modDomain (s : State) (d : BitVec 10) (g : Domain → Domain) : (s.modDomain d g).domain d = g (s.domain d) := by
  simp [State.domain, State.modDomain]

theorem State.domain_modDomain_ne (s : State) {d e : BitVec 10} (g : Domain → Domain) (h : e ≠ d) : (s.modDomain d g).domain e = s.domain e := by
  have : e.toNat ≠ d.toNat := fun x => h (BitVec.eq_of_toNat_eq x)
  simp [State.domain, State.modDomain, find_put_ne _ _ _ this]

@[simp] theorem State.pool_modPool (s : State) (p : BitVec 6) (g : Pool → Pool) : (s.modPool p g).pool p = g (s.pool p) := by
  simp [State.pool, State.modPool]

theorem State.pool_modPool_ne (s : State) {p e : BitVec 6} (g : Pool → Pool) (h : e ≠ p) : (s.modPool p g).pool e = s.pool e := by
  have : e.toNat ≠ p.toNat := fun x => h (BitVec.eq_of_toNat_eq x)
  simp [State.pool, State.modPool, find_put_ne _ _ _ this]

theorem State.cluster_modCluster_ne (s : State) {c e : BitVec 6} (g : Cluster → Cluster) (h : e ≠ c) : (s.modCluster c g).cluster e = s.cluster e := by
  have : e.toNat ≠ c.toNat := fun x => h (BitVec.eq_of_toNat_eq x)
  simp [State.cluster, State.modCluster, State.setCluster, find_put_ne _ _ _ this]

@[simp] theorem State.shard_modShard (s : State) (p : BitVec 6) (d : BitVec 3) (g : Shard → Shard) :
    (s.modShard p d g).shard p d = g (s.shard p d) := by
  simp [State.shard, State.modShard, Pool.shard]

@[simp] theorem State.link_modLink (s : State) (a b : BitVec 3) (g : Link28 → Link28) : (s.modLink a b g).link a b = g (s.link a b) := by
  simp [State.link, State.modLink]

theorem State.link_modLink_ne (s : State) {a b c d : BitVec 3} (g : Link28 → Link28) (h : ¬(c = a ∧ d = b)) :
    (s.modLink a b g).link c d = s.link c d := by
  have : 8 * c.toNat + d.toNat ≠ 8 * a.toNat + b.toNat := fun x => h (by
    have := b.isLt; have := d.isLt
    exact ⟨BitVec.eq_of_toNat_eq (by omega), BitVec.eq_of_toNat_eq (by omega)⟩)
  simp [State.link, State.modLink, find_put_ne _ _ _ this]

@[simp] theorem State.entry_modEntry (s : State) (t : BitVec 10) (e : BitVec 6) (g : Entry → Entry) :
    (s.modEntry t e g).entry t e = g (s.entry t e) := by
  simp [State.entry, State.modEntry, Tile.entry]

@[simp] theorem State.chan_modChan (s : State) (t : BitVec 10) (c : BitVec 6) (g : Chan → Chan) :
    (s.modChan t c g).chan t c = g (s.chan t c) := by
  simp [State.chan, State.modChan, Tile.chan]

/-- Two slots have one number only where they are one slot. -/
theorem SlotId_num_inj {i j : SlotId} (h : SlotId_num i = SlotId_num j) : i = j := by
  obtain ⟨t, c, n⟩ := i
  obtain ⟨t', c', n'⟩ := j
  have h1 := n.isLt
  have h2 := n'.isLt
  have hs : n.toNat = n'.toNat ∧ t.toNat = t'.toNat ∧ c = c' := by
    cases c <;> cases c' <;> simp only [SlotId_num, b2n, if_true, if_false, Bool.false_eq_true] at h <;>
      refine ⟨?_, ?_, ?_⟩ <;> first | rfl | omega
  obtain ⟨hn, ht, rfl⟩ := hs
  simp only [SlotId.mk.injEq, true_and]
  exact ⟨BitVec.eq_of_toNat_eq ht, BitVec.eq_of_toNat_eq hn⟩

theorem State.slot_setMe_ne (s : State) {j : SlotId} (v : Slot) (h : j ≠ s.cur) : (s.setMe v).slot j = s.slot j :=
  s.slot_setSlot_ne v (fun e => h (SlotId_num_inj e))

/-! ### Registers of a slot -/

theorem Slot.xr_setX (v : Slot) (r q : XReg) (w : Word) : (v.setX r w).xr q = if q = r ∧ q ≠ 0 then w else v.xr q := by
  unfold Slot.setX Slot.xr
  by_cases hr : r = 0
  · subst hr; simp only [if_true]; split <;> simp_all
  · simp only [hr, if_false]
    by_cases hq : q = 0
    · simp [hq]
    · simp only [hq, if_false]
      by_cases e : q = r
      · subst e
        have hq' : ¬q = 0#5 := hq
        simp [hq']
      · have : r.toNat ≠ q.toNat := fun h => e (BitVec.eq_of_toNat_eq h.symm)
        simp only [Vector.getElem_set, this, if_false, e, false_and]

@[simp] theorem Slot.setX_zero (v : Slot) (w : Word) : v.setX 0 w = v := by simp [Slot.setX]

@[simp] theorem Slot.xr_zero (v : Slot) : v.xr 0 = 0 := by simp [Slot.xr]

@[simp] theorem Slot.xr_retire (v : Slot) (r : XReg) : v.retire.xr r = v.xr r := rfl

end Sys2Proof.Machine
end

