-- ==== Sys2Proof/Laws/Memory.lean ====
section
/-! SUPPORT. Memory: what a write leaves, what a read returns after it, and that every write keeps the canonical form (log 3). -/

namespace Sys2Proof.Machine

/-- The canonical form as a relation between neighbours: every listed byte is not 0 and every key is above `lo`. -/
def Memory_above (lo : Int) : List Host.Cell → Prop
  | [] => True
  | (k, b) :: m => lo < k ∧ b ≠ 0 ∧ Memory_above k m

theorem Memory_above.mono {lo lo' : Int} (h : lo' ≤ lo) : ∀ {m : List Host.Cell}, Memory_above lo m → Memory_above lo' m
  | [], _ => trivial
  | (_, _) :: _, ⟨a, b, c⟩ => ⟨by omega, b, c⟩

theorem Memory_above_iff (m : List Host.Cell) : Memory_above (-1) m ↔ Memory_wf m = true := by
  induction m with
  | nil => simp [Memory_above, Memory_wf]
  | cons e m ih =>
    obtain ⟨k, b⟩ := e
    cases m with
    | nil => simp [Memory_above, Memory_wf]; omega
    | cons e' m =>
      obtain ⟨j, c⟩ := e'
      have ih' := ih
      simp only [Memory_above, Memory_wf, Bool.and_eq_true, bne_iff_ne, decide_eq_true_eq] at ih' ⊢
      rw [← ih']
      constructor
      · rintro ⟨_, hb, hj, hc, hm⟩; exact ⟨⟨hb, by omega⟩, by omega, hc, hm⟩
      · rintro ⟨⟨hb, hj⟩, _, hc, hm⟩; exact ⟨by omega, hb, by omega, hc, hm⟩

theorem Memory_get_above {lo : Int} {m : List Host.Cell} (h : Memory_above lo m) {a : Nat} (ha : (a : Int) ≤ lo) :
    Memory_get m a = 0 := by
  induction m generalizing lo with
  | nil => rfl
  | cons e m ih =>
    obtain ⟨k, b⟩ := e
    obtain ⟨h1, _, h3⟩ := h
    simp only [Memory_get]
    rw [if_neg (by omega)]
    exact ih h3 (by omega)

theorem Memory_above_put {lo : Int} {m : List Host.Cell} (h : Memory_above lo m) {a : Nat} (b : Byte) (ha : lo < a) :
    Memory_above lo (Memory_put m a b) := by
  induction m generalizing lo with
  | nil => simp only [Memory_put]; split <;> simp_all [Memory_above]
  | cons e m ih =>
    obtain ⟨k, c⟩ := e
    obtain ⟨h1, h2, h3⟩ := h
    simp only [Memory_put]
    split
    · split
      · exact ⟨h1, h2, h3⟩
      · exact ⟨ha, by assumption, by omega, h2, h3⟩
    · split
      · split
        · exact h3.mono (by omega)
        · next e _ => subst e; exact ⟨ha, by assumption, h3⟩
      · exact ⟨h1, h2, ih h3 (by omega)⟩

/-- A write keeps the canonical form. -/
theorem Memory_wf_put {m : List Host.Cell} (h : Memory_wf m = true) (a : Nat) (b : Byte) : Memory_wf (Memory_put m a b) = true :=
  (Memory_above_iff _).1 (Memory_above_put ((Memory_above_iff m).2 h) b (by omega))

/-- A byte reads as it was last written; a write leaves every other byte alone. -/
theorem Memory_get_put {m : List Host.Cell} (h : Memory_wf m = true) (a j : Nat) (b : Byte) :
    Memory_get (Memory_put m a b) j = if j = a then b else Memory_get m j := by
  have aux : ∀ (lo : Int) (m : List Host.Cell), Memory_above lo m →
      Memory_get (Memory_put m a b) j = if j = a then b else Memory_get m j := by
    intro lo m
    induction m generalizing lo with
    | nil =>
      intro _
      simp only [Memory_put]
      split
      · simp_all [Memory_get]
      · simp only [Memory_get]; by_cases e : j = a
        · simp [e]
        · simp [e, Ne.symm e]
    | cons e m ih =>
      obtain ⟨k, c⟩ := e
      intro h
      obtain ⟨h1, h2, h3⟩ := h
      simp only [Memory_put]
      by_cases hak : a < k
      · simp only [hak, if_true]
        by_cases hb : b = 0
        · simp only [hb, if_true]
          by_cases e : j = a
          · subst e
            simp only [Memory_get, if_true]
            rw [if_neg (by omega)]
            exact Memory_get_above h3 (by omega)
          · simp [e]
        · simp only [hb, if_false, Memory_get]
          by_cases e : j = a
          · simp [e]
          · simp [e, Ne.symm e]
      · simp only [hak, if_false]
        by_cases hk : a = k
        · subst hk
          simp only [if_true]
          by_cases hb : b = 0
          · simp only [hb, if_true]
            by_cases e : j = a
            · subst e; simp only [if_true]; exact Memory_get_above h3 (by omega)
            · simp [e, Ne.symm e, Memory_get]
          · simp only [hb, if_false, Memory_get]
            by_cases e : j = a
            · simp [e]
            · simp [e, Ne.symm e]
        · simp only [hk, if_false, Memory_get]
          by_cases e : k = j
          · have : j ≠ a := by omega
            simp [e, this]
          · simp only [e, if_false]; exact ih _ h3
  exact aux _ m ((Memory_above_iff m).2 h)

theorem Memory_wf_putAll {m : List Host.Cell} (h : Memory_wf m = true) (a : Nat) (bs : List Byte) :
    Memory_wf (Memory_putAll m a bs) = true := by
  induction bs generalizing m a with
  | nil => exact h
  | cons b bs ih => exact ih (Memory_wf_put h a b) (a + 1)

/-- A stored byte string reads back; every byte outside it reads as before. -/
theorem Memory_get_putAll {m : List Host.Cell} (h : Memory_wf m = true) (a j : Nat) (bs : List Byte) :
    Memory_get (Memory_putAll m a bs) j = if a ≤ j ∧ j < a + bs.length then bs.getD (j - a) 0 else Memory_get m j := by
  induction bs generalizing m a with
  | nil => simp only [Memory_putAll, List.length_nil]; rw [if_neg (by omega)]
  | cons b bs ih =>
    simp only [Memory_putAll, List.length_cons]
    rw [ih (Memory_wf_put h a b) (a + 1), Memory_get_put h]
    by_cases e : j = a
    · subst e
      rw [if_neg (by omega), if_pos rfl, if_pos (by omega)]
      simp
    · by_cases r : a ≤ j ∧ j < a + (bs.length + 1)
      · rw [if_pos (by omega), if_pos r]
        have : j - a = (j - (a + 1)) + 1 := by omega
        rw [this]; simp
      · rw [if_neg (by omega), if_neg e, if_neg r]

theorem Memory_wf_filter {m : List Host.Cell} (h : Memory_wf m = true) (p : Host.Cell → Bool) : Memory_wf (m.filter p) = true := by
  have aux : ∀ (lo : Int) (m : List Host.Cell), Memory_above lo m → Memory_above lo (m.filter p) := by
    intro lo m
    induction m generalizing lo with
    | nil => intro h; exact h
    | cons e m ih =>
      obtain ⟨k, c⟩ := e
      rintro ⟨h1, h2, h3⟩
      simp only [List.filter_cons]
      split
      · exact ⟨h1, h2, ih _ h3⟩
      · exact ih _ (h3.mono (by omega))
  exact (Memory_above_iff _).1 (aux _ m ((Memory_above_iff m).2 h))

/-! ### The operations over the state -/

theorem State.MemOk.store {s : State} (h : s.MemOk) (a : Nat) (bs : List Byte) : (s.store a bs).MemOk := Memory_wf_putAll h a bs

theorem State.byte_store {s : State} (h : s.MemOk) (a j : Nat) (bs : List Byte) :
    (s.store a bs).byte j = if a ≤ j ∧ j < a + bs.length then bs.getD (j - a) 0 else s.byte j := Memory_get_putAll h a j bs

theorem Memory_bytes_eq (m : List Host.Cell) (a n : Nat) : Memory_bytes m a n = (List.range n).map (fun i => Memory_get m (a + i)) := by
  induction n generalizing a with
  | zero => rfl
  | succ n ih =>
    rw [Memory_bytes, ih, List.range_succ_eq_map]
    simp [Nat.add_assoc, Nat.add_comm 1]

@[simp] theorem Memory_bytes_length (m : List Host.Cell) (a n : Nat) : (Memory_bytes m a n).length = n := by simp [Memory_bytes_eq]

/-- What has been stored reads back. -/
theorem State.bytes_store_same {s : State} (h : s.MemOk) (a : Nat) (bs : List Byte) : (s.store a bs).bytes a bs.length = bs := by
  unfold State.bytes
  rw [Memory_bytes_eq]
  apply List.ext_getElem (by simp)
  intro i h1 h2
  have := State.byte_store h a (a + i) bs
  simp only [State.byte] at this
  simp only [List.getElem_map, List.getElem_range, this]
  rw [if_pos (by omega)]
  simp [List.getD_eq_getElem?_getD, h2]

theorem State.MemOk.storeMasked {s : State} (h : s.MemOk) (a : Nat) (bs : List Byte) (on : Nat → Bool) :
    (s.storeMasked a bs on).MemOk := by
  have aux : ∀ (l : List Nat) (m : List Host.Cell), Memory_wf m = true →
      Memory_wf (l.foldl (fun m i => if on i then Memory_put m (a + i) (bs.getD i 0) else m) m) = true := by
    intro l
    induction l with
    | nil => intro m h; exact h
    | cons x l ih =>
      intro m h
      apply ih
      show Memory_wf (if on x then _ else m) = true
      split
      · exact Memory_wf_put h _ _
      · exact h
  exact aux _ _ h

theorem State.MemOk.hbmWriteUnit {s : State} (h : s.MemOk) (key : Nat) (d : BitVec 10) (bs : List Byte) :
    (s.hbmWriteUnit key d bs).MemOk := Memory_wf_putAll h key bs

/-- A read counts its errors and changes no memory. -/
@[simp] theorem State.eccCount_mem (s : State) (key n : Nat) : (s.eccCount key n).mem = s.mem := by
  unfold State.eccCount
  simp only
  split <;> rfl

theorem State.MemOk.hbmMasked {s : State} (h : s.MemOk) (key : Nat) (d : BitVec 10) (bs : List Byte) (on : Nat → Bool) :
    (s.hbmMasked key d bs on).1.MemOk := by
  have h' : (s.eccCount key 64).MemOk := by simpa [State.MemOk] using h
  unfold State.hbmMasked State.hbmLoad
  simp only
  split
  · exact h'
  · exact h'.hbmWriteUnit ..

theorem State.MemOk.paStore {s : State} (h : s.MemOk) (pa : Nat) (bs : List Byte) : (s.paStore pa bs).MemOk := by
  unfold State.paStore
  simp only
  split <;> exact Memory_wf_putAll h _ bs

theorem State.reset_MemOk : State.reset.MemOk := rfl

end Sys2Proof.Machine
end

