-- ==== Sys2Proof/Laws/Ops.lean ====
section
/-! SUPPORT. What the shared wrappers of the instructions do (R123, R124, R139, R247): one lemma for each, for a slot that nothing
holds up, and the checks of a body one by one. -/

namespace Sys2Proof.Machine

theorem State.Ready.due {s : State} {rs : List XReg} (h : s.Ready rs) : rs.any s.me.dueOf = false := by
  rw [List.any_eq_false]
  intro r hr
  unfold Slot.dueOf
  by_cases e : r = 0
  · simp [e]
  · simp [(h.2 r hr e).1]

theorem State.Ready.marks {s : State} {rs : List XReg} (h : s.Ready rs) : s.me.markCause rs = none := by
  obtain ⟨hs, h⟩ := h
  clear hs
  induction rs with
  | nil => rfl
  | cons r rs ih =>
    unfold Slot.markCause
    by_cases e : r = 0
    · simp only [e, ne_eq, not_true, false_and, if_false]
      exact ih (fun q hq => h q (List.mem_cons_of_mem _ hq))
    · have := h r (List.mem_cons_self ..) e
      simp only [this.2.1, this.2.2, and_false, if_false, Bool.false_eq_true]
      exact ih (fun q hq => h q (List.mem_cons_of_mem _ hq))

theorem State.Ready.mono {s : State} {rs qs : List XReg} (h : s.Ready rs) (hq : ∀ r ∈ qs, r ∈ rs) : s.Ready qs :=
  ⟨h.1, fun r hr => h.2 r (hq r hr)⟩

/-- A body that nothing holds up acts, waits, or raises its cause. -/
theorem insn_ready {s : State} {reads : List XReg} (h : s.Ready reads) (c : ScoutClass) (body : State → Res State) :
    insn c reads body s = match body s with
      | .ok t => t
      | .error (.wait t) => t
      | .error (.trap t) => s.fault s.cur t := by
  unfold insn
  simp only [h.1, h.due, Bool.false_eq_true, if_false, State.settle, h.marks]
  split <;> simp_all

theorem intInsn_ready {s : State} {reads : List XReg} (h : s.Ready reads) (rd : XReg) (f : Slot → Word) :
    intInsn reads rd f s = s.retireX rd (f s.me) := by
  unfold intInsn
  simp only [h.1, h.due, Bool.false_eq_true, if_false, State.settle, h.marks]

theorem jumpInsn_ready {s : State} {reads : List XReg} (h : s.Ready reads) (rd : XReg) (f : Slot → Option Word) :
    jumpInsn reads rd f s = match f s.me with
      | some t => if t.getLsbD 1 then s.fault s.cur { cause := 0x00 } else s.setMe ((s.me.setX rd (s.me.pc + 4)).retireTo t)
      | none => s.retire := by
  unfold jumpInsn
  simp only [h.1, h.due, Bool.false_eq_true, if_false, State.settle, h.marks]
  cases f s.me with
  | none => rfl
  | some t => simp only; cases t.getLsbD 1 <;> rfl

theorem loadInsn_ready {s : State} {reads : List XReg} (h : s.Ready reads) (rd : XReg) (get : Slot → State → Res (Word × State)) :
    loadInsn reads rd get s = match get s.me s with
      | .ok (w, t) => t.retireX rd w
      | .error (.wait t) => t
      | .error (.trap t) => s.fault s.cur t := by
  unfold loadInsn
  simp only [h.1, h.due, Bool.false_eq_true, if_false, State.settle, h.marks]
  split <;> simp_all <;> split <;> simp_all

theorem storeInsn_ready {s : State} {reads : List XReg} (h : s.Ready reads) (addr : List XReg) (probe : Slot → State → Res Unit) (body : State → Res State) :
    storeInsn reads addr probe body s = match body s with
      | .ok t => t
      | .error (.wait t) => t
      | .error (.trap t) => s.fault s.cur t := by
  unfold storeInsn
  simp only [h.1, h.due, Bool.false_eq_true, if_false, State.settle, h.marks]
  split <;> simp_all

/-! ### Checks -/

@[simp] theorem need_true (c : BitVec 7) : need true c = .ok () := rfl
@[simp] theorem need_false (c : BitVec 7) : need false c = raise c := rfl
@[simp] theorem needT_true (c : BitVec 7) (t : Title) : needT true c t = .ok () := rfl
@[simp] theorem needT_false (c : BitVec 7) (t : Title) : needT false c t = raiseT c t := rfl
@[simp] theorem waitUnless_true (s : State) : waitUnless true s = .ok () := rfl
@[simp] theorem waitUnless_false (s : State) : waitUnless false s = waitIn s := rfl
@[simp] theorem ok_bind {α β : Type} (a : α) (f : α → Res β) : (Except.ok a : Res α) >>= f = f a := rfl
@[simp] theorem error_bind {α β : Type} (e : Stop) (f : α → Res β) : (Except.error e : Res α) >>= f = .error e := rfl
@[simp] theorem raise_bind {α β : Type} (c : BitVec 7) (f : α → Res β) : (raise c : Res α) >>= f = raise c := rfl
@[simp] theorem raiseT_bind {α β : Type} (c : BitVec 7) (t : Title) (f : α → Res β) : (raiseT c t : Res α) >>= f = raiseT c t := rfl
@[simp] theorem waitIn_bind {α β : Type} (s : State) (f : α → Res β) : (waitIn s : Res α) >>= f = waitIn s := rfl

/-- A result under rerun where no rerun is set (R145). -/
theorem State.rerun_off {s : State} (i : SlotId) (h : (s.ctx (s.slot i).ctx).rerun = 0) (kind : Byte) (checked : Bool) (w : Word) :
    s.rerun i kind checked w = .ok (w, s) := by
  unfold State.rerun State.isRecording State.isReplaying
  simp [h]

/-! ### Retiring -/

/-- What retiring with a result does to the slot's registers, PC and count, and to nothing else of the slot than marks and replies
due. -/
theorem State.retireX_me (s : State) (rd : XReg) (w : Word) : (s.retireX rd w).me = (s.me.setX rd w).retire := by
  simp [State.retireX]

theorem State.retireX_xr (s : State) (rd q : XReg) (w : Word) :
    (s.retireX rd w).me.xr q = if q = rd ∧ q ≠ 0 then w else s.me.xr q := by
  rw [State.retireX_me, Slot.xr_retire, Slot.xr_setX]

theorem State.retireX_pc (s : State) (rd : XReg) (w : Word) : (s.retireX rd w).me.pc = s.me.pc + 4 := by
  rw [State.retireX_me]; unfold Slot.retire Slot.setX; split <;> rfl

theorem State.retireX_other (s : State) (rd : XReg) (w : Word) {j : SlotId} (h : j ≠ s.cur) : (s.retireX rd w).slot j = s.slot j :=
  s.slot_setMe_ne _ h

end Sys2Proof.Machine
end

