-- ==== Sys2Proof/Laws/Hbm.lean ====
section
/-! SUPPORT. What a request to a base die, the read that follows it and the fault that reports it can do (R18, R106, R110, R111, R341,
R360): they change the base dies and the links, and nothing else of the state. -/

namespace Sys2Proof.Machine

/-- Reading through ECC counts errors at the base dies alone. -/
theorem State.eccCount_only (s : State) (key n : Nat) : { s.eccCount key n with hbm := s.hbm } = s := by
  unfold State.eccCount
  simp only
  split <;> rfl

/-- What a fault reports of the base dies changes them alone. -/
@[simp] theorem State.readDone_none (s : State) (t : TrapInfo) (h : t.hbm = none) : s.readDone t = s := by
  unfold State.readDone
  rw [h]
  rfl

theorem State.readDone_only (s : State) (t : TrapInfo) : { s.readDone t with hbm := s.hbm } = s := rfl

@[simp] theorem State.readDone_mem (s : State) (t : TrapInfo) : (s.readDone t).mem = s.mem := rfl
@[simp] theorem State.readDone_slots (s : State) (t : TrapInfo) : (s.readDone t).slots = s.slots := rfl
@[simp] theorem State.readDone_slot (s : State) (t : TrapInfo) (i : SlotId) : (s.readDone t).slot i = s.slot i := rfl
@[simp] theorem State.readDone_tiles (s : State) (t : TrapInfo) : (s.readDone t).tiles = s.tiles := rfl
@[simp] theorem State.readDone_ctxs (s : State) (t : TrapInfo) : (s.readDone t).ctxs = s.ctxs := rfl
@[simp] theorem State.readDone_clusters (s : State) (t : TrapInfo) : (s.readDone t).clusters = s.clusters := rfl
@[simp] theorem State.readDone_jobs (s : State) (t : TrapInfo) : (s.readDone t).jobs = s.jobs := rfl
@[simp] theorem State.readDone_reqs (s : State) (t : TrapInfo) : (s.readDone t).reqs = s.reqs := rfl
@[simp] theorem State.readDone_funcs (s : State) (t : TrapInfo) : (s.readDone t).funcs = s.funcs := rfl
@[simp] theorem State.readDone_rings (s : State) (t : TrapInfo) : (s.readDone t).rings = s.rings := rfl
@[simp] theorem State.readDone_board (s : State) (t : TrapInfo) : (s.readDone t).board = s.board := rfl
@[simp] theorem State.readDone_cur (s : State) (t : TrapInfo) : (s.readDone t).cur = s.cur := rfl

/-- A packet goes onto a link, or nowhere. -/
theorem State.sendPacket_only (s : State) (a : BitVec 3) (p : Packet) : { s.sendPacket a p with links := s.links } = s := by
  unfold State.sendPacket
  split
  · rfl
  · split
    · rfl
    · split <;> rfl

/-- A request's crossing and its reply's leave flits alone. -/
theorem State.exchange_only (s : State) (a b : BitVec 3) (pa : Nat) : { s.exchange a b pa with links := s.links } = s := by
  unfold State.exchange
  split
  · rfl
  · have h := State.sendPacket_only s a { dst := b, bytes := leBytes 8 pa }
    have h' := State.sendPacket_only (s.sendPacket a { dst := b, bytes := leBytes 8 pa }) b { dst := a, cls := 1 }
    generalize (s.sendPacket a { dst := b, bytes := leBytes 8 pa }) = t at h h' ⊢
    generalize (t.sendPacket b { dst := a, cls := 1 }) = u at h' ⊢
    rw [← h, ← h']

/-- A request that comes to its pseudo-channel passes or is queued there. -/
theorem State.ordinary_only {s t : State} {pc : Nat} {a : Asker} {pa : Nat}
    (h : s.ordinary pc a pa = .ok t ∨ s.ordinary pc a pa = .error (.wait t)) : { t with hbm := s.hbm } = s := by
  unfold State.ordinary waitIn at h
  simp only at h
  split at h
  · rcases h with h | h
    · cases h; rfl
    · cases h
  · split at h
    · rcases h with h | h
      · cases h
      · split at h <;> (cases h; rfl)
    · rcases h with h | h
      · cases h; rfl
      · cases h

/-- A request that is served changes the base dies and the links, and names the place of its address. -/
theorem State.request_ok {s t : State} {a : Asker} {d : BitVec 10} {pa k : Nat} (h : s.request a d pa = .ok (k, t)) :
    { t with hbm := s.hbm, links := s.links } = s ∧ ∃ x o, s.hbm.map pa = .at_ x o ∧ k = hbmKey x o (pa % 4096) := by
  unfold State.request at h
  split at h
  · rename_i x o hx
    simp only at h
    split at h
    · cases h
    · split at h
      · cases h
      · split at h
        · cases h
        · generalize ho : s.ordinary (pcNo x (pcOf o)) a pa = r at h
          cases r with
          | error e => cases h
          | ok u =>
            have hu := State.ordinary_only (Or.inl ho)
            simp only [ok_bind, Except.ok.injEq, Prod.mk.injEq] at h
            obtain ⟨hk, rfl⟩ := h
            refine ⟨?_, x, o, hx, hk.symm⟩
            have key : ∀ (v : State) (b : BitVec 3), { v with hbm := s.hbm } = s →
                { v.exchange a.die b pa with hbm := s.hbm, links := s.links } = s := fun v b hv =>
              (congrArg (fun z : State => { z with hbm := s.hbm, links := s.links }) (v.exchange_only a.die b pa)).trans
                (congrArg (fun z : State => { z with links := s.links }) hv)
            exact key _ _ hu
  · cases h
  · cases h

/-- An uncached load changes the base dies and the links. -/
theorem State.directLoad_only {a : Asker} {d : BitVec 10} : ∀ (ps : List (Nat × Nat)) {s t : State} {bs : List Byte} {bad : Bool},
    s.directLoad a d ps = .ok (bs, bad, t) → { t with hbm := s.hbm, links := s.links } = s := by
  intro ps
  induction ps with
  | nil => intro s t bs bad h; cases h; rfl
  | cons p ps ih =>
    intro s t bs bad h
    unfold State.directLoad at h
    cases hr : s.request a d p.1 with
    | error e => rw [hr] at h; cases h
    | ok q =>
      obtain ⟨k, u⟩ := q
      have hu := (State.request_ok hr).1
      simp only [hr, ok_bind, State.hbmLoad] at h
      cases hd : (u.eccCount k p.2).directLoad a d ps with
      | error e => rw [hd] at h; cases h
      | ok q =>
        obtain ⟨rest, bads, v⟩ := q
        simp only [hd, ok_bind, Except.ok.injEq, Prod.mk.injEq] at h
        obtain ⟨-, -, rfl⟩ := h
        have hc := State.eccCount_only u k p.2
        exact (congrArg (fun z : State => { z with hbm := s.hbm, links := s.links }) (ih hd)).trans
          ((congrArg (fun z : State => { z with hbm := s.hbm, links := s.links }) hc).trans hu)

end Sys2Proof.Machine
end

