-- ==== Sys2Proof/Laws/Step.lean ====
section
/-! SUPPORT. What the passing of time leaves alone, and what a step is for each kind of turn (log 1, log 4). -/

namespace Sys2Proof.Machine

/-- Time moves counters only: it changes no byte, title, job, translation, context, domain or record. -/
@[simp] theorem State.pass_frame (s : State) (n : Span) :
    (s.pass n).mem = s.mem ∧ (s.pass n).remote = s.remote ∧ (s.pass n).units = s.units ∧ (s.pass n).jobs = s.jobs ∧
    (s.pass n).clusters = s.clusters ∧ (s.pass n).ctxs = s.ctxs ∧ (s.pass n).homes = s.homes ∧ (s.pass n).grans = s.grans ∧
    (s.pass n).late = s.late ∧ (s.pass n).domains = s.domains ∧ (s.pass n).rings = s.rings ∧ (s.pass n).gateway = s.gateway ∧
    (s.pass n).agenda = s.agenda ∧ (s.pass n).cur = s.cur ∧ (s.pass n).curJob = s.curJob ∧ (s.pass n).nextId = s.nextId := by
  refine ⟨?_, ?_, ?_, ?_, ?_, ?_, ?_, ?_, ?_, ?_, ?_, ?_, ?_, ?_, ?_, ?_⟩ <;> rfl

@[simp] theorem State.pass_powerLimit (s : State) (n : Span) : (s.pass n).board.powerLimit = s.board.powerLimit := rfl
@[simp] theorem State.pass_clocks (s : State) (n : Span) : (s.pass n).board.clocks = s.board.clocks := rfl

/-- A package that does not stand still takes its turn. -/
theorem step_turn {s : State} (h : s.barred = none) : step s = passed s.turn := by
  unfold step; rw [h]

/-- A package that stands still stops, but for the start of a power-good. -/
theorem step_barred {s : State} {f : Fault} (h : s.barred = some f) (h' : isPowerGood s.agenda = false) : step s = .fault f := by
  unfold step; rw [h, h']

theorem turn_agenda {s : State} {u : Turn} {us : List Turn} (h : s.agenda = u :: us) : s.turn = State.take { s with agenda := us } u := by
  unfold State.turn; rw [h]

theorem passed_next {o : Out} {t : State} (h : passed o = .next t) : ∃ u, o = .next u ∧ t = u.tick := by
  cases o with
  | next u => exact ⟨u, rfl, by simpa [passed] using h.symm⟩
  | fault f => simp [passed] at h
  | refused r => simp [passed] at h

end Sys2Proof.Machine
end

