-- ==== Sys2Proof/Tests/Slice0.lean ====
section
/-! SUPPORT. Tests of one step, decoded words taken from the manual, and a witness for the hypotheses of each statement. -/

namespace Sys2Proof.Machine

/-- The running slot with a value in register r, a title in register k; in its trap handler, with a record of cause 4. -/
def State.withX (s : State) (r : XReg) (w : Word) : State := s.setMe { s.me with x := s.me.x.set r.toNat w }
def State.withK (s : State) (k : KReg) (t : Title) : State := s.setMe (s.me.setK k { img := t })
def State.inHandler (s : State) : State := s.setMe { s.me with handler := true, frame := { record := some { cause := 4 } } }

/-- A title in register k of the running slot, with its entry. -/
def State.withTitle (s : State) (k : KReg) (t : Title) (e : Tte) : State := (s.withK k t).modTte t.ctx t.index (fun _ => e)

/-- Entry 1 of tile 0, unmasked, with one message beside PROD 0. -/
def State.waiting (s : State) : State :=
  let r : ChRec := { msg := { payload := [1] } }
  (s.modEntry 0 1 (fun e => { e with valid := true, cclass := true, mask := false, codeLo := 0x10000, codeHi := 0x11000, entryPc := 0x10000 })).modChan
    0 1 (fun c => { c with recs := [r], onChip := 1 })

end Sys2Proof.Machine

namespace Sys2Proof.Tests
open Sys2Proof Sys2Proof.Machine

/- One theorem after the other: many closed ones at once would wait for each other in as many threads. -/
set_option Elab.async false

/-! ### A small package -/

/-- Tile 0 in service, context 0 running, one firing in slot 0 of the C-core with its code page mapped. -/
def home : State :=
  let s : State := { State.reset.withFetchCore 0x13 with cur := fetchSlot, agenda := [] }
  s.modTile 0 (fun t => { t with inService := true })

/-- The outcome is a value with property p. -/
def gives {α : Type} (r : Res α) (p : α → Bool) : Bool := match r with
  | .ok a => p a
  | .error _ => false

theorem exists_of_gives {α : Type} {r : Res α} {p : α → Bool} (h : gives r p = true) : ∃ a, r = .ok a ∧ p a = true := by
  unfold gives at h
  split at h
  · exact ⟨_, rfl, h⟩
  · cases h

theorem ready_of {s : State} {rs : List XReg} (h : (s.me.scout == none && rs.all (fun r => r == 0 || ((s.me.due[r.toNat] == none) &&
    !s.me.poisonMark r && !s.me.indetMark r))) = true) : s.Ready rs := by
  simp only [Bool.and_eq_true, beq_iff_eq, List.all_eq_true, Bool.or_eq_true, Bool.not_eq_true'] at h
  exact ⟨h.1, fun r hr h0 => by
    rcases h.2 r hr with h1 | h1
    · exact absurd h1 h0
    · exact ⟨h1.1.1, h1.1.2, h1.2⟩⟩

theorem ready_withX {s : State} {rs : List XReg} (r : XReg) (w : Word) (h : s.Ready rs) : (s.withX r w).Ready rs := by
  unfold State.Ready State.withX
  rw [State.me_setMe]
  exact h

/-! ### What the decoder and WellFormed refuse -/

theorem test_ill_formed : ([.fence 8 3 3 0 0, .fence 0 1 0 0 0, .tnarrow 1 2 3, .tnarrow 1 2 0, .tinfo 1 2 11, .ldkX 1 2 3 .d true, .vldk vin 0 0,
    .vgather vin 0 1, .vfadd .all vin 0 1, .vcmp .m1 vin 0 1, .vfabs .all vin 0, .vfclass .all vin 0, .vsel vin 0 1, .vperm vin 0 1,
    .vscan .all vin 0 .sum, .vbcast vin 0 1, .vslide vin 0 1, .vzip 30 0 1, .vunz vin 0 1, .vsetm 1 2 0, .vsplat .all vin 0, .voutl vin 0,
    .vcvt 0x7F .all 0 1, .vcvt 0 .all vin 1, .mtrn (.m 0) (.c 0), .mtrn (.c 0) (.m 0), .loop 0 0] : List Instr).all (fun i => !i.wf) = true := by
  decide +kernel

theorem test_ill_formed_events : ([.zondaFlitReceive 1 1 0 0 true [], .zondaFlitReceive 0 1 52 0 true [], .laneRemoval 2 2 0 0, .retrainDone 0 1 60,
    .linkFailure 3 3 true, .lwctlEn 17 true, .frstatDrops 31, .powerLimitSet 1599, .powerLimitSet 3201, .pageTableChange 0 0 5 0] : List Instr).all
    (fun i => !i.wf) = true := by
  decide +kernel

/-- The manual's worked words (chapters 13, 15, 17, 19, 21, 23, 25). -/
theorem test_decode_worked_words : ([(0x986B822B, .tsendShort 4 0x0D7 12), (0x001A22AB, .stkD 5 4 0), (0x005A132B, .ldkD 6 4 1),
    (0x2E38132B, .ldkX 6 0 5 .d false), (0x000030AB, .vldk 1 0 0), (0x0000815B, .vfadd .all 2 1 0), (0x0202800B, .exitS 5), (0x0200B00B, .semP 1),
    (0x0802930B, .recv 6 5 0), (0x0124900B, .send 9 18), (0x986B990B, .sendShort 18 0x0D7 12), (0x052202AB, .tsplit 5 4 0b10010),
    (0x0602822B, .tjoin 4 5), (0x0202CEAB, .mvGet 29 5), (0x0C0ACEAB, .mvSlab 29 21), (0x006352AB, .amoAdd false 5 6 6),
    (0x920352AB, .amoLd true 5 6), (0x00D4670B, .pins 8 13 14), (0x0654600B, .ptakeM 8 5), (0x0091602B, .nbOpen 2 9), (0x040BEEAB, .nbRun 29 23),
    (0x0E6062AB, .nbStat 5 0 6), (0xE60101DB, .vcvt 0b1001100 .all 3 2), (0xE60221DB, .vcvt 0b1001100 .m1z 3 4), (0x360082DB, .vredf .all 5 1 .sum),
    (0x4620855B, .vdot .all 10 1 2), (0x4A43005B, .vsetm 0 6 4), (0x3250835B, .vcmp .all 6 1 5), (0x3450815B, .vsel 2 1 5),
    (0x0010047B, .mma false 0 (.m 0) 1), (0x0010147B, .mma true 0 (.m 0) 1), (0x002404FB, .mma false 1 (.c 0) 2), (0x042404FB, .mmaO 1 (.c 0) 2),
    (0x0241857B, .mmaB16 false 2 (.m 3) 4), (0x061005FB, .mmai false 3 0 1), (0x0804827B, .mcvt false false 4 1), (0x1294047B, .macca false 0 0 1),
    (0x140482FB, .mstat false 5 1), (0x0E30042B, .tinfo 8 0 3), (0x0202C90B, .kfault 18 5), (0x060BB38B, .waitj 7 23)] : List (Nat × Instr)).all
    (fun p => decode (BitVec.ofNat 32 p.1) == some p.2) = true := by decide +kernel

/-- Words that the maps of R176 to R182 reserve: each funct3 group's first free funct7, the reserved groups, modes and majors, a
title register above 15, and the bits that AMO and VCVT want 0. -/
theorem test_decode_reserved : ([0, 0xFFFFFFFF, 0x6B, 0x0000700B, 0x0800000B, 0x0A00100B, 0x0A00200B, 0x0A00300B, 0x0E00400B, 0x0A00500B,
    0x0E00600B, 0x0000702B, 0x1200002B, 0x0020202B, 0x0020302B, 0x0E00402B, 0x1A00502B, 0x2000502B, 0x4000502B, 0x1000602B, 0x0000505B,
    0x5200005B, 0xE64101DB, 0x1600007B, 0x0208002B] : List Nat).all (fun w => decode (BitVec.ofNat 32 w) == none) = true := by decide +kernel

/-- Words written out from the encoding tables of the spec: words of RV64IM and Zicsr (R192). -/
theorem test_decode_integer_words_a : ([(0x800012B7, .lui 5 0x80001), (0x80001297, .auipc 5 0x80001), (0xFF9FF2EF, .jal 5 0xFFFFC),
   (0x801302E7, .jalr 5 6 0x801), (0x007301E3, .beq 6 7 0x401), (0x007311E3, .bne 6 7 0x401),
   (0x007341E3, .blt 6 7 0x401), (0x007351E3, .bge 6 7 0x401), (0x007361E3, .bltu 6 7 0x401),
   (0x007371E3, .bgeu 6 7 0x401), (0x80130283, .lb 5 6 0x801), (0x80131283, .lh 5 6 0x801),
   (0x80132283, .lw 5 6 0x801), (0x80133283, .ld 5 6 0x801), (0x80134283, .lbu 5 6 0x801),
   (0x80135283, .lhu 5 6 0x801), (0x80136283, .lwu 5 6 0x801), (0xFC7308A3, .sb 6 7 0xFD1),
   (0xFC7318A3, .sh 6 7 0xFD1), (0xFC7328A3, .sw 6 7 0xFD1), (0xFC7338A3, .sd 6 7 0xFD1),
   (0x80130293, .addi 5 6 0x801), (0x80132293, .slti 5 6 0x801), (0x80133293, .sltiu 5 6 0x801),
   (0x80134293, .xori 5 6 0x801), (0x80136293, .ori 5 6 0x801), (0x80137293, .andi 5 6 0x801),
   (0x03D31293, .slli 5 6 61), (0x03D35293, .srli 5 6 61), (0x43D35293, .srai 5 6 61),
   (0x007302B3, .add 5 6 7), (0x407302B3, .sub 5 6 7), (0x007312B3, .sll 5 6 7),
   (0x007322B3, .slt 5 6 7)] : List (Nat × Instr)).all
    (fun p => decode (BitVec.ofNat 32 p.1) == some p.2) = true := by decide +kernel

/-- Words written out from the encoding tables of the spec: words of RV64IM and Zicsr (R192). -/
theorem test_decode_integer_words_b : ([(0x007332B3, .sltu 5 6 7), (0x007342B3, .xor 5 6 7), (0x007352B3, .srl 5 6 7),
   (0x407352B3, .sra 5 6 7), (0x007362B3, .or 5 6 7), (0x007372B3, .and 5 6 7),
   (0x8013029B, .addiw 5 6 0x801), (0x01D3129B, .slliw 5 6 29), (0x01D3529B, .srliw 5 6 29),
   (0x41D3529B, .sraiw 5 6 29), (0x007302BB, .addw 5 6 7), (0x407302BB, .subw 5 6 7),
   (0x007312BB, .sllw 5 6 7), (0x007352BB, .srlw 5 6 7), (0x407352BB, .sraw 5 6 7),
   (0x027302B3, .mul 5 6 7), (0x027312B3, .mulh 5 6 7), (0x027322B3, .mulhsu 5 6 7),
   (0x027332B3, .mulhu 5 6 7), (0x027342B3, .div 5 6 7), (0x027352B3, .divu 5 6 7),
   (0x027362B3, .rem 5 6 7), (0x027372B3, .remu 5 6 7), (0x027302BB, .mulw 5 6 7),
   (0x027342BB, .divw 5 6 7), (0x027352BB, .divuw 5 6 7), (0x027362BB, .remw 5 6 7),
   (0x027372BB, .remuw 5 6 7), (0x1233028F, .fence 1 2 3 6 5), (0x8333028F, .fenceTso 6 5),
   (0x0100000F, .pause), (0x1233128F, .fenceI 0x123 6 5), (0x00000073, .ecall),
   (0x00100073, .ebreak)] : List (Nat × Instr)).all
    (fun p => decode (BitVec.ofNat 32 p.1) == some p.2) = true := by decide +kernel

/-- Words written out from the encoding tables of the spec: words of RV64IM and Zicsr (R192). -/
theorem test_decode_integer_words_c : ([(0xC01312F3, .csrrw 5 6 0xC01), (0xC01322F3, .csrrs 5 6 0xC01), (0xC01332F3, .csrrc 5 6 0xC01),
   (0xC01352F3, .csrrwi 5 6 0xC01), (0xC01362F3, .csrrsi 5 6 0xC01), (0xC01372F3, .csrrci 5 6 0xC01)] : List (Nat × Instr)).all
    (fun p => decode (BitVec.ofNat 32 p.1) == some p.2) = true := by decide +kernel

/-- Words written out from the encoding tables of the spec: control, messages, system, pools (R193 to R215, R310 to R330). -/
theorem test_decode_control_words_a : ([(0x0000000B, .exit), (0x0203000B, .exitS 6), (0x0473000B, .spawn 6 7),
   (0x0673028B, .rspawn 5 6 7), (0x0073100B, .send 6 7), (0xD4AA928B, .sendShort 5 0x155 0x2A),
   (0x0273100B, .sendv 6 7), (0x0473100B, .volley 6 7), (0x0673100B, .post 6 7),
   (0x0873128B, .recv 5 6 7), (0x0003228B, .chpop 5 6), (0x0203228B, .chcnt 5 6),
   (0x0403200B, .hmask 6), (0x0603200B, .hunmask 6), (0x0873200B, .hprio 6 7),
   (0x0003300B, .semV 6), (0x0203300B, .semP 6), (0x0403328B, .semTry 5 6),
   (0x0603328B, .waitj 5 6), (0x0803328B, .jstat 5 6), (0x0003400B, .trap 6),
   (0x0203428B, .kfault 5 6), (0x0473428B, .ksave 5 6 7), (0x0600400B, .resume),
   (0x0800400B, .skipf), (0x0A00400B, .abandon), (0x0C03400B, .ctxkill 6),
   (0x0073518B, .view 3 6 7), (0x0231528B, .viewq 5 2 3), (0x0400528B, .slotid 5),
   (0x0600528B, .tileid 5), (0x0803500B, .rerunMark 6), (0x00A4E40B, .pins 9 10 8),
   (0x02A4E40B, .pinsK 9 10 8)] : List (Nat × Instr)).all
    (fun p => decode (BitVec.ofNat 32 p.1) == some p.2) = true := by decide +kernel

/-- Words written out from the encoding tables of the spec: control, messages, system, pools (R193 to R215, R310 to R330). -/
theorem test_decode_control_words_b : ([(0x0473628B, .ptakeNb 5 6 7), (0x0673600B, .ptakeM 6 7), (0x0873600B, .pcfg 6 7),
   (0x0A33628B, .pstat 5 6 3), (0x0C03628B, .pdrain 5 6)] : List (Nat × Instr)).all
    (fun p => decode (BitVec.ofNat 32 p.1) == some p.2) = true := by decide +kernel

/-- Words written out from the encoding tables of the spec: titles, memory, jobs, atomics, near-bank (R219 to R246, R346). -/
theorem test_decode_memory_words_a : ([(0x007302AB, .tnew 5 6 7), (0x020302AB, .tfree 5 6), (0x047302AB, .tsplit 5 6 7),
   (0x060302AB, .tjoin 5 6), (0x088302AB, .tnarrow 5 6 8), (0x0A0302AB, .tsend 5 6),
   (0xD4AA82AB, .tsendShort 5 0x155 0x2A), (0x0C7302AB, .tsendr 5 6 7), (0x0EA302AB, .tinfo 5 6 10),
   (0x107302AB, .tchk 5 6 7), (0x804312AB, .ldkB 5 6 0x201), (0x804B12AB, .ldkH 5 6 0x201),
   (0x805312AB, .ldkW 5 6 0x201), (0x805B12AB, .ldkD 5 6 0x201), (0x806312AB, .ldkBN 5 6 0x201),
   (0x806B12AB, .ldkHN 5 6 0x201), (0x807312AB, .ldkWN 5 6 0x201), (0x3D3B12AB, .ldkX 5 6 7 .w true),
   (0x804322AB, .stkB 5 6 0x201), (0x804B22AB, .stkH 5 6 0x201), (0x805322AB, .stkW 5 6 0x201),
   (0x805B22AB, .stkD 5 6 0x201), (0x804332AB, .vldk 5 6 0x201), (0x804B32AB, .vstk 5 6 0x201),
   (0x025332AB, .vgather 5 6 9), (0x025B32AB, .vscatter 5 6 9), (0x000342AB, .mvCopy 5 6),
   (0x020342AB, .mvGet 5 6), (0x040342AB, .mvPut 5 6), (0x060342AB, .mvXfer 5 6),
   (0x080342AB, .mvFill 5 6), (0x0A0342AB, .mv2D 5 6), (0x0C0342AB, .mvSlab 5 6),
   (0x807352AB, .amoAdd true 5 6 7)] : List (Nat × Instr)).all
    (fun p => decode (BitVec.ofNat 32 p.1) == some p.2) = true := by decide +kernel

/-- Words written out from the encoding tables of the spec: titles, memory, jobs, atomics, near-bank (R219 to R246, R346). -/
theorem test_decode_memory_words_b : ([(0x427352AB, .amoMin false true 5 6 7), (0x447352AB, .amoMax false true 5 6 7), (0x867352AB, .amoAnd true 5 6 7),
   (0x887352AB, .amoOr true 5 6 7), (0x8A7352AB, .amoXor true 5 6 7), (0x8C7352AB, .amoSwap true 5 6 7),
   (0x8E7352AB, .amoCas true 5 6 7), (0x907352AB, .amoFadd true 5 6 7), (0x920352AB, .amoLd true 5 6),
   (0x9473502B, .amoSt true 6 7), (0x9673502B, .amoV true 6 7), (0x587352AB, .amoWaitge false true 5 6 7),
   (0x0073602B, .nbOpen 6 7), (0x020362AB, .nbBcast 5 6), (0x040362AB, .nbRun 5 6),
   (0x060362AB, .nbRead 5 6), (0x0873602B, .nbClose 6 7), (0x0A0362AB, .nbRcopy 5 6),
   (0x0C7362AB, .nbZero 5 6 7), (0x0E7362AB, .nbStat 5 6 7)] : List (Nat × Instr)).all
    (fun p => decode (BitVec.ofNat 32 p.1) == some p.2) = true := by decide +kernel

/-- Words written out from the encoding tables of the spec: vector instructions (R254 to R284). -/
theorem test_decode_vector_words_a : ([(0x007342DB, .vfadd .m0z 5 6 7), (0x027342DB, .vfsub .m0z 5 6 7), (0x047342DB, .vfmul .m0z 5 6 7),
   (0x067342DB, .vfma .m0z 5 6 7), (0x087342DB, .vfms .m0z 5 6 7), (0x0A7342DB, .vfmax .m0z 5 6 7),
   (0x0C7342DB, .vfmin .m0z 5 6 7), (0x0E0332DB, .vfabs .m0 5 6), (0x100332DB, .vfneg .m0 5 6),
   (0x120332DB, .vfrcp .m0 5 6), (0x140332DB, .vfrsq .m0 5 6), (0x160332DB, .vfexp2 .m0 5 6),
   (0x180332DB, .vflog2 .m0 5 6), (0x1A0332DB, .vfsig .m0 5 6), (0x1C0332DB, .vfgelu .m0 5 6),
   (0x1E7342DB, .viadd .m0z 5 6 7), (0x207342DB, .visub .m0z 5 6 7), (0x227342DB, .vimul .m0z 5 6 7),
   (0x247342DB, .vimax .m0z 5 6 7), (0x267342DB, .vimin .m0z 5 6 7), (0x287342DB, .vand .m0z 5 6 7),
   (0x2A7342DB, .vor .m0z 5 6 7), (0x2C7342DB, .vxor .m0z 5 6 7), (0x2E7342DB, .vshl .m0z 5 6 7),
   (0x307342DB, .vshr .m0z 5 6 7), (0x327342DB, .vcmp .m0z 5 6 7), (0x347302DB, .vsel 5 6 7),
   (0x362312DB, .vredf .m1 5 6 .min), (0x382312DB, .vredi .m1 5 6 .min), (0x3A2312DB, .vscan .m1 5 6 .min),
   (0x3C7302DB, .vperm 5 6 7), (0x3E7302DB, .vbcast 5 6 7), (0x407302DB, .vslide 5 6 7),
   (0x427302DB, .vzip 5 6 7)] : List (Nat × Instr)).all
    (fun p => decode (BitVec.ofNat 32 p.1) == some p.2) = true := by decide +kernel

/-- Words written out from the encoding tables of the spec: vector instructions (R254 to R284). -/
theorem test_decode_vector_words_b : ([(0x447302DB, .vunz 5 6 7), (0x467342DB, .vdot .m0z 5 6 7), (0x487302DB, .vmovx 5 6 7),
   (0x4A9302DB, .vsetm 5 6 9), (0x4C0332DB, .vfclass .m0 5 6), (0x4E0332DB, .vsplat .m0 5 6),
   (0x500302DB, .voutl 5 6), (0xC03322DB, .vcvt 3 .m1z 5 6)] : List (Nat × Instr)).all
    (fun p => decode (BitVec.ofNat 32 p.1) == some p.2) = true := by decide +kernel

/-- Words written out from the encoding tables of the spec: matrix instructions (R290). -/
theorem test_decode_matrix_words : ([(0x007314FB, .mma true 1 (.m 6) 7), (0x027314FB, .mmaB16 true 1 (.m 6) 7), (0x047504FB, .mmaO 1 (.c 2) 7),
   (0x067314FB, .mmai true 1 6 7), (0x080522FB, .mcvt false true 5 2), (0x0A0005FB, .mzero 3),
   (0x0C0304FB, .mldc 1 6), (0x0E0482FB, .mstc 5 1), (0x100504FB, .mtrn (.c 1) (.c 2)),
   (0x12B514FB, .macca true 1 2 3), (0x140512FB, .mstat true 5 2)] : List (Nat × Instr)).all
    (fun p => decode (BitVec.ofNat 32 p.1) == some p.2) = true := by decide +kernel

/-- Words written out from the encoding tables of the spec: micro-instructions (R343). -/
theorem test_decode_micro_words : ([(0x00000000, .halt), (0x08000000, .act), (0x12E70000, .mac16 5 6 3 true),
   (0x1AB38000, .adds 5 6 7), (0x22C08000, .scale 5 0x81), (0x28000000, .nextrow),
   (0x34302000, .loop 0x21 0x81), (0x3AB00000, .putacc 5 6)] : List (Nat × Instr)).all
    (fun p => decodeMicro (BitVec.ofNat 32 p.1) == some p.2) = true := by decide +kernel


/-! ### Witnesses: states and operands that meet the hypotheses of each statement, its clauses at the ends of their ranges -/

theorem hyp_IntegerResults : home.Ready [5] ∧ home.Ready [5, 6] := ⟨ready_of (by decide +kernel), ready_of (by decide +kernel)⟩

theorem hyp_MultiplyDivideResults :
    let s := (home.withX 5 (BitVec.intMin 64)).withX 6 (BitVec.allOnes 64)
    home.Ready [5, 6] ∧ home.me.xr 6 = 0 ∧ s.Ready [5, 6] ∧ s.me.xr 5 = BitVec.intMin 64 ∧ s.me.xr 6 = BitVec.allOnes 64 :=
  ⟨ready_of (by decide +kernel), by decide +kernel, ready_of (by decide +kernel), by decide +kernel, by decide +kernel⟩

theorem hyp_JumpsFencesAndCounters : home.Ready [5, 6] ∧ home.Ready [] ∧ (home.ctxOf home.cur).rerun = 0 :=
  ⟨ready_of (by decide +kernel), ready_of (by decide +kernel), by decide +kernel⟩

/-- Loads and stores at both ends of slot 0's own region. -/
theorem hyp_PrivateWindow : (∀ v, (home.withX 5 v).Ready [5] ∧ (home.withX 5 v).Ready [5, 6]) ∧ home.MemOk ∧ home.cur.slot = 0 ∧
    ([0, 0x1FFF] : List Nat).all (fun a => a < 0x2000) ∧ 0x1FF8 % 8 = 0 :=
  ⟨fun v => ⟨ready_withX _ _ (ready_of (by decide +kernel)), ready_withX _ _ (ready_of (by decide +kernel))⟩, rfl, rfl, by decide, by decide⟩

/-- One address for each cause of an x-register access, beside the ends of slot 0's region [0, 0x2000) and of the code [0x10000, 0x11000). -/
theorem hyp_PrivateWindow_causes :
    let lo := (home.entryOf home.cur).codeLo.toNat
    let hi := (home.entryOf home.cur).codeHi.toNat
    (lo = 0x10000 ∧ hi = 0x11000) ∧
    (∀ a ∈ [2 ^ 56, 2 ^ 64 - 1], 2 ^ 56 ≤ a) ∧ (∀ a ∈ [0x2000, 0xFFFF], a < 0x10000 ∧ ¬a < 0x2000) ∧ (0x1FFF < 0x2000 ∧ 0x1FFF % 2 ≠ 0) ∧
    (∀ a ∈ [0x11000, 2 ^ 56 - 1], a < 2 ^ 56 ∧ ¬a < 0x10000 ∧ ¬a < hi) ∧ (∀ a ∈ [0x10000, 0x10FFF], lo ≤ a ∧ a < hi) ∧ 0x10FFF % 8 ≠ 0 := by
  decide +kernel

/-- The code at 0x10FF8 to be read with its page in the TLB: its translation, the leaf's A bit, and the read, of a sound and of a poisoned unit. -/
theorem hyp_PrivateWindow_code :
    let s := home.withX 5 0x10FF8
    let sick : State := { s with units := [(hbmKey 0 0 0xFC0 / 64, { poison := true })] }
    let c := s.ctxOf s.cur
    let reads := fun (u : State) (bad : Bool) =>
      gives (u.translate (clusterOf 0) { ctx := 0, world := c.world, domain := c.domain, title := none, by_ := u.walkerOf u.cur } 0x10FF8 .read) (fun x =>
        match x with
        | .here pa leaf => decide (pa < hbmEnd) && decide (pa % 64 + 8 ≤ 64) && gives (u.setAccessed (clusterOf 0) leaf true) (fun s1 =>
            gives (s1.request { die := dieOf 0 } c.domain pa) (fun r => r.2.hbmPoison r.1 8 == bad))
        | _ => false) = true
    reads s false ∧ reads sick true ∧ s.Ready [5] ∧ (s.entryOf s.cur).codeHi = 0x11000 :=
  ⟨by decide +kernel, by decide +kernel, ready_of (by decide +kernel), by decide +kernel⟩

theorem hyp_PreciseFaultEntersHandler : home.CanTrap home.cur ∧ terminalCause 0x04 = false := by
  unfold State.CanTrap; decide +kernel

/-- A slot in handler mode; one with a reply due to x5 and a fault waiting, from a request that has been sent and from one that was given up; and the
same with the reply come. -/
theorem hyp_FaultsThatWaitOrEnd :
    let owed : State := home.setMe { home.me with due := home.me.due.set 5 (some 1), trap := some { cause := 0x04 } }
    let q : Req := { id := 1, src := home.cur, chainId := 1, ctx := 0, seq := 0, home := .tile 0, kind := .amo 0 false 0 0 7 0, rd := some 5 }
    let with_ := fun (st : ReqState) => ({ owed with reqs := [{ q with state := st }] } : State)
    let paid : State := home.setMe { home.me with trap := some { cause := 0x04 } }
    (home.inHandler.slot home.cur).handler = true ∧
    (((with_ .sent).slot home.cur).handler = false ∧ ((with_ .sent).slot home.cur).anyDue = true ∧ ((with_ .sent).slot home.cur).trap.isSome ∧
      ∀ r, (with_ .sent).lostDue home.cur r = false) ∧
    ((with_ .refused).lostDue home.cur 5 = true ∧ (with_ .refused).frameBad home.cur = false ∧
      (∀ r, ((with_ .refused).slot home.cur).dueOf r = true → (with_ .refused).lostDue home.cur r = true) ∧
      ∀ r ∈ (with_ .refused).reqs, (with_ .refused).givesUp home.cur r = false) ∧
    ((paid.slot home.cur).trap.isSome ∧ paid.CanTrap home.cur) := by
  unfold State.CanTrap; decide +kernel

theorem hyp_SystemTraps : home.Ready [5] ∧ home.CanTrap home.cur ∧ (31 : XReg) ≠ 0 ∧ (1 : XReg) ≠ 0 :=
  ⟨ready_of (by decide +kernel), by unfold State.CanTrap; decide +kernel, by decide, by decide⟩

theorem hyp_HandlerInstructions :
    let s := (home.inHandler.withX 5 23).withX 6 (0x121)
    home.Ready [5, 6] ∧ home.me.handler = false ∧ s.Ready [5, 6] ∧ s.me.handler = true ∧ s.me.frame.record = some { cause := 4 } ∧
    (s.me.xr 5).toNat < 24 ∧ 24 ≤ (s.me.xr 6).toNat ∧ s.me.skipCheck = false :=
  ⟨ready_of (by decide +kernel), by decide +kernel, ready_of (by decide +kernel), by decide +kernel⟩

/-- EXIT in and outside the handler, at depth 0 and 1, with no operation under way and with each kind that holds it; ABANDON with a started job of
the firing, with a running operation, and with neither. -/
theorem hyp_FiringsEnd :
    let deep : State := home.setMe { home.me with links := [{ ra := 0x40, rd := 5 }] }
    let job : Job := { tile := 0, num := 0, core := true, slot := 0, chainId := 1, ctx := 0, kind := .copy, card := {}, status := 2 }
    let s := home.inHandler
    let w : State := { s with jobs := [job] }
    let flies := fun (u : State) (f : Flight) => u.modTile 0 (fun t => { t with flight := [f] })
    let vm : Flight := ⟨7, true, 0, true, [], [], [], false, none⟩
    let held : List Flight := [vm, { vm with vm := false, lands := some (.tile 0) }, { vm with vm := false, writes := [⟨.tile 0, 0, 256⟩] },
      { vm with vm := false, writes := [⟨.slab 0, 0, 256⟩] }, { vm with vm := false, reads := [⟨.slab 0, 0, 256⟩] }]
    let matrix := (flies s vm).modTile 0 (fun t => { t with mxu := { t.mxu with queue := [
      { ord := 7, core := true, slot := 0, ctx := 0, insn := .mzero 0, vw := startViews, slabBase := 0, slabLen := 0, sx := 0, lfsr := 1, vinBytes := none, rd := 0 }] } })
    home.Ready [1] ∧ (home.me.handler = false ∧ home.me.links = []) ∧ home.inHandler.Ready [1] ∧ home.inHandler.me.handler = true ∧
    deep.Ready [1] ∧ deep.me.links = [{ ra := 0x40, rd := 5 }] ∧ s.Ready [] ∧ w.Ready [] ∧ w.me.handler = true ∧
    ((home.tile 0).flight = [] ∧ (∀ f ∈ held, ((flies home f).tile 0).flight = [f] ∧ f.core = home.cur.core ∧ f.slot = home.cur.slot ∧
      (f.vm = true ∨ f.lands = some (.tile 0) ∨ (∃ r ∈ f.writes, r.space = .tile 0 ∨ r.space = .slab 0) ∨
        (f.consumed = false ∧ ∃ r ∈ f.reads, r.space = .slab 0)))) ∧
    s.jobs.any (fun j => j.isOf s.cur s.me.chainId && (j.status == 1 || j.status == 2) && !j.cancelled) = false ∧
    w.jobs.any (fun j => j.isOf w.cur w.me.chainId && (j.status == 1 || j.status == 2) && !j.cancelled) = true ∧
    (((flies s vm).tile 0).flight = [vm] ∧ ((flies s vm).tile 0).mxu.queue = [] ∧ (flies s vm).jobs = []) ∧
    ((matrix.tile 0).mxu.queue.map UnitOp.ord = [7] ∧ (matrix.tile 0).flight = [vm] ∧ matrix.me.handler = true) :=
  ⟨ready_of (by decide +kernel), by decide +kernel, ready_of (by decide +kernel), by decide +kernel, ready_of (by decide +kernel), by decide +kernel, ready_of (by decide +kernel), ready_of (by decide +kernel),
   by decide +kernel⟩

/-- SPAWN and EXIT.S of entry 0: named and inside at the first and last word of its code; beside the code; an unnamed entry; a full pool
with 9, 8 and no free records of the spawn queue, and 8 for a firing from the queue; chains of 15 and 16. -/
theorem hyp_WorkIsCreated :
    let at_ := fun (n pc : Word) => (home.withX 5 n).withX 6 pc
    let full := fun (free : Nat) => (home.modTile 0 (fun t => { t with pool := List.replicate 64 ⟨0, 0, 0x10000, [], false⟩ })).modCtx 0
      (fun c => { c with spawnQ := List.replicate (64 - free) ⟨1, 0, 0x10000, [], false⟩ })
    let mine := fun (free : Nat) => (full free).setMe { (full free).me with fromQueue := true }
    let chain := fun (n : BitVec 5) => home.setMe { home.me with chain := n }
    (∀ n pc, (at_ n pc).Ready [5, 6, 12, 13, 14, 15]) ∧ home.Ready [5] ∧
    ((home.entry 0 0).valid = true ∧ (home.entry 0 0).ctx = home.me.ctx ∧ (home.entry 0 0).cclass = home.cur.core ∧ (home.entry 0 1).valid = false) ∧
    (∀ pc ∈ [0x10000, 0x10FFC], pc % 4 = 0 ∧ (home.entry 0 0).codeLo.toNat ≤ pc ∧ pc < (home.entry 0 0).codeHi.toNat) ∧
    ((home.entry 0 0).codeHi.toNat ≤ 0x11000 ∧ 0x10002 % 4 ≠ 0) ∧ (home.tile 0).pool.length < 64 ∧ (home.ctx 0).spawnQ = [] ∧
    (∀ free ∈ [0, 8, 9], ((full free).tile 0).pool.length = 64 ∧ ((full free).ctx 0).spawnCap - ((full free).ctx 0).spawnQ.length = free ∧
      (mine free).me.fromQueue = true) ∧
    (home.me.handler = false ∧ home.me.links = [] ∧ (home.ctxOf home.cur).state = 1 ∧ (home.ctxOf home.cur).rerun = 0) ∧
    ((chain 15).me.chain.toNat < 16 ∧ 16 ≤ (chain 16).me.chain.toNat) ∧ home.late = [] ∧ home.reservedMsgs home.cur home.me.entry = [] :=
  ⟨fun n pc => ready_withX _ _ (ready_withX _ _ (ready_of (by decide +kernel))), ready_of (by decide +kernel), by decide +kernel⟩

/-- RSPAWN: tile 0 is served and reached, tile 1 is not served; a request that is sent with a slot free and with none, the answers, and each of
these as its packet is on its way. -/
theorem hyp_RemoteSpawns :
    let s := (home.withX 5 0x40).withX 6 0x10000
    let cut : State := (home.withX 5 (64 * 128)).modTile 128 (fun t => { t with inService := true })
    let far : State := { cut with links := (List.range 64).map (fun n => (n, { state := 2 })) }
    let r : Req := { id := 7, src := home.cur, chainId := 1, ctx := 0, seq := 0, home := .tile 0, rd := some 5, kind := .spawn 0 0x10000 [1, 2, 3, 4] }
    let q : State := { home.setMe { home.me with wait := some (.reply 7) } with reqs := [r] }
    let busy := q.setSlot ⟨0, true, 1⟩ { busy := true } |>.setSlot ⟨0, true, 2⟩ { busy := true } |>.setSlot ⟨0, true, 3⟩ { busy := true }
    let travels : State := { q with links := [(1, { replay := [{ lsn := 0, cls := 0, group := 0, payload := [], ends := some { dst := 1, num := 9 } }] })] }
    home.Ready [5, 6, 1, 12, 13, 14, 15] ∧ (home.ctxOf home.cur).rerun ≠ 2 ∧
    ((s.me.xr 5).toNat < 65536 ∧ (s.tile 1).inService = false) ∧ ((home.tile 0).inService = true ∧ home.reach (dieOf 0) (dieOf 0) = true) ∧
    ((cut.tile 128).inService = true ∧ cut.reach (dieOf 0) (dieOf 128) = true ∧ dieOf 128 ≠ dieOf 0) ∧
    ((far.tile 128).inService = true ∧ far.reach (dieOf 0) (dieOf 128) = false) ∧
    (q.req? 7 = some r ∧ (q.ctx 0).rerun = 0 ∧ (q.slot r.src).ctx = r.ctx ∧ (q.entry 0 0).valid = true ∧ (q.entry 0 0).ctx = 0 ∧
      q.spawnSlot 0 0 = some ⟨0, true, 1⟩ ∧ busy.spawnSlot 0 0 = none ∧ (q.landed r).1 = true ∧
      (travels.landed { r with packet := some 9 }).1 = false) ∧
    (∀ v ∈ [(0 : Word), 1], let a : State := { q with reqs := [{ r with state := .replied v .none }] }
      (∃ r', a.req? 7 = some r' ∧ r'.state = .replied v .none ∧ (a.landed r').1 = true) ∧ (a.slot r.src).wait = some (.reply 7) ∧
      (a.entryOf r.src).holds 0x10000 = true ∧ (a.slot r.src).links.length < 16) :=
  ⟨ready_of (by decide +kernel), by decide +kernel, by decide +kernel, by decide +kernel, by decide +kernel, by decide +kernel, by decide +kernel, fun v hv => by
    simp only [List.mem_cons, List.not_mem_nil, or_false] at hv
    rcases hv with rfl | rfl <;> exact ⟨⟨_, rfl, rfl, by decide +kernel⟩, by decide +kernel, by decide +kernel, by decide +kernel⟩⟩

/-- Entry 1 of tile 0, unmasked, as f changes it, with the messages of its channel. -/
def chosen (f : Entry → Entry) (ms : List Msg) : State :=
  (home.modEntry 0 1 (fun e => f { e with valid := true, cclass := true, mask := false, codeLo := 0x10000, codeHi := 0x11000, entryPc := 0x10000 })).modChan
    0 1 (fun c => { c with recs := ms.map (fun m => { msg := m }), onChip := ms.length })

/-- Of tile 0's C-core entry 1 alone is a candidate, for slot 1, the lowest that is free. -/
def State.only1 (s : State) : Prop :=
  s.replayingCtxs = [] ∧ (∀ c, (s.ctx c).rerun = 0) ∧ (s.slot ⟨0, true, 0⟩).busy = true ∧ (s.slot ⟨0, true, 1⟩).busy = false ∧
  (∀ m, (s.entry 0 m).cclass = true ∧ s.runnable 0 m = true ↔ m = 1) ∧
  (∀ r ∈ (s.chan 0 1).recs ++ (s.chan 0 2).recs, r.holder ≠ some (true, 1)) ∧ (s.entry 0 1).sec ≠ some 1

/-- A spawn record inside the code; messages of kind 0, with and without titles, and spawn messages inside the code and outside; a second
channel that alone gives the message; and no message reserved at all. -/
theorem hyp_SelectionDispatches :
    let w : Title := { index := 1, kind := 2, rights := 0b10010, base := 0x1000, len := 4 }
    let spawn : State := (chosen id []).modTile 0 (fun t => { t with pool := [⟨0, 1, 0x10FFC, [1, 2, 3, 4], true⟩] })
    let plain := chosen id [{ hdr := header 0 0 0 0 1 3 0 0, titles := [w, { w with kind := 1 }, w], payload := [1] }, { payload := [2] }]
    let msgIn := chosen id [{ hdr := header 1 0 0 0 5 0 0 0, payload := [0x10FFC, 1, 2, 3, 4] }]
    let msgOut := chosen id [{ hdr := header 1 0 0 0 5 0 0 0, payload := [0x11000, 1, 2, 3, 4] }]
    let sec := (chosen (fun e => { e with rateP := 0, rateS := 1, sec := some 2 }) []).modChan 0 2 (fun c => { c with recs := [{ msg := { payload := [1] } }], onChip := 1 })
    let bare := chosen (fun e => { e with rateP := 0, rateS := 1 }) []
    (∀ s ∈ [spawn, plain, msgIn, msgOut, sec, bare], State.only1 s) ∧
    ((spawn.tile 0).pool.find? (fun x => x.entry == 1)).map SpawnRec.pc = some 0x10FFC ∧ (∀ x ∈ (plain.tile 0).pool, x.entry ≠ 1) ∧
    (((plain.chan 0 1).recs.find? (fun r => r.holder.isNone)).map (fun r => hdrKind r.msg.hdr) = some 0 ∧ w.isShare = true ∧ ({ w with kind := 1 } : Title).ctx = 0) ∧
    (((msgIn.chan 0 1).recs.find? (fun r => r.holder.isNone)).map (fun r => hdrKind r.msg.hdr) = some 1 ∧
      ((msgOut.chan 0 1).recs.find? (fun r => r.holder.isNone)).map (fun r => hdrKind r.msg.hdr) = some 1) ∧
    ((sec.entry 0 1).sec = some 2 ∧ (sec.entry 0 1).rateP = 0 ∧ (bare.entry 0 1).rateP = 0 ∧ (bare.entry 0 1).sec = none) := by
  unfold State.only1; decide +kernel



/-- A WHOLE of 1024 bytes of tile 0's SRAM with every right, its entry, a share of it, and the arena it came from. -/
def sram : Title := { index := 1, kind := 1, rights := 0b11010, base := 0x1000, len := 4 }
def sramEntry : Tte := { state := 1, kind := 1, ownTile := 0, ownCore := true, ownSlot := 0, parent := 2, rights := 0b11010, base := 0x1000, len := 4 }
def shareOf (t : Title) : Title := { t with kind := 2, rights := 0b10010 }
def arena : Title := { index := 2, kind := 1, rights := 1, base := 0x1000, len := 8 }
def arenaEntry : Tte := { state := 1, kind := 1, ownCore := true, rights := 1, base := 0x1000, len := 8 }
/-- The view that VIEW reads from 32 bytes (R213). -/
def viewIn (bs : List Byte) : View :=
  { d0 := leWord (bs.take 8), d1 := leWord ((bs.drop 8).take 8), d2 := leWord ((bs.drop 16).take 8), d3 := leWord ((bs.drop 24).take 8) }
/-- The firing holds the WHOLE in k1 and the arena in k2, an entry 3 is free. -/
def titled : State := ((home.withTitle 1 sram sramEntry).withTitle 2 arena arenaEntry).modCtx 0 (fun c => { c with tableSize := 16, arenas := [(2, [(0, 4)])] })

/-- A firing that holds one title: a WHOLE from an arena, used by a copy and not, with a share out, a share of it that is the last and one of two;
and the WHOLE beside a part of it. -/
theorem hyp_FiringsEnd_titles :
    let lone := titled.withK 2 {}
    let root := fun (e : Tte) => lone.modTte 0 1 (fun _ => e)
    let share := fun (n : BitVec 20) => (root { sramEntry with shares := n }).withK 1 (shareOf sram)
    let x : Title := { sram with index := 3, base := 0x1300, len := 1 }
    let both := ((root { sramEntry with carved := 1 }).withTitle 5 x { sramEntry with parent := 1, base := 0x1300, len := 1 })
    let used := lone.modTile 0 (fun t => { t with flight := [⟨7, true, 0, false, [sram.region 0 8], [], [(0, 1)], false, none⟩] })
    (lone.reqs = [] ∧ lone.late = [] ∧ (lone.slot fetchSlot).heldTitles = [sram] ∧ lone.reservedMsgs fetchSlot 0 = [] ∧ lone.titleBusy 0 sram = false) ∧
    ((used.slot fetchSlot).heldTitles = [sram] ∧ used.titleBusy 0 sram = true) ∧
    (lone.arenaParent sram = true ∧ (lone.tte sram).parent ≠ sram.index ∧ (lone.tte sram).shares = 0 ∧ sram.loc.toNat < 2 ∧
      ∀ y ∈ (lone.ctx 0).table, y.2.parent = sram.index → y.2.state = 0) ∧
    (((share 1).slot fetchSlot).heldTitles = [shareOf sram] ∧ ((share 1).tte (shareOf sram)).shares = 1 ∧ ((share 2).tte (shareOf sram)).shares ≠ 1) ∧
    (((root { sramEntry with shares := 1 }).slot fetchSlot).heldTitles = [sram] ∧ ((root { sramEntry with shares := 1 }).tte sram).shares ≠ 0) ∧
    ((both.slot fetchSlot).heldTitles = [sram, x] ∧ both.titleBusy 0 x = false ∧ (both.tte sram).rights.getLsbD rARENA = false ∧
      both.arenaParent sram = true ∧ (both.tte x).shares = 0 ∧
      (both.ctx 0).table.filter (fun y => y.2.parent == sram.index) = [(x.index.toNat, both.tte x)] ∧ ∀ y ∈ (both.ctx 0).table, y.2.parent ≠ x.index) := by
  decide +kernel

theorem hyp_SendsPlaceMessages :
    let d : Dest := { peer := 0x3FF, tile := 0, chan := 5, ctx := 0 }
    let line := home.modTile 0 (fun t => { t with outWaiters := [(false, 1)] })
    home.Ready [5, 6] ∧ (home.tile 0).outbox.length < 128 ∧ gives (home.dest home.cur { peer := 0x3FF, tile := 0, chan := 5 }) (· == d) = true ∧
    home.outGranted home.cur = true ∧ line.outGranted line.cur = false ∧
    gives (home.destOf home.cur 0x3FF0005) (fun _ => true) = true ∧
    gives (readBlock home home.cur (home.me.xr 6) (chanInfo d.chan d.tile)) (fun b => b.regs == []) = true :=
  ⟨ready_of (by decide +kernel), by decide +kernel⟩

/-- The title passes the checks towards channel 5 of its tile; it also travels in a block that names k1; each check in its turn fails. -/
theorem hyp_TitlesTravelOrStay :
    let d : Dest := { peer := 0x3FF, tile := 0, chan := 5, ctx := 0 }
    let out : Dest := { d with peer := 1 }
    let s := ((titled.withX 5 0x3FF0005).withX 6 0x100).store (coreKey 0 true 0x100) (leBytes 8 (1 * 2 ^ 8 + 1 * 2 ^ 10))
    let with_ := fun (e : Tte) => home.withTitle 1 sram e
    let lock := s.setMe (s.me.setK 1 { img := sram, locked := true })
    s.Ready [5, 6] ∧ lock.Ready [5] ∧ (s.tile 0).outbox.length < 128 ∧ s.outGranted s.cur = true ∧ (s.me.kr 1).img = sram ∧ (s.me.kr 1).locked = false ∧
    gives (s.outChecks s.cur sram d false) (fun _ => true) = true ∧ s.busyUnder s.cur sram = false ∧ needsScan s.cur sram d false = false ∧
    gives (s.destOf s.cur (s.me.xr 5)) (· == d) = true ∧ gives (s.dest s.cur { peer := 0x3FF, tile := 0, chan := 5 }) (· == d) = true ∧
    gives (readBlock s s.cur (s.me.xr 6) (chanInfo d.chan d.tile)) (fun b => b.regs == [1]) = true ∧
    (({ sram with rights := 0b11000 } : Title).rights.getLsbD 1 = false) ∧
    (((with_ { sramEntry with carved := 1 }).tte sram).carved ≠ 0 ∧ ((with_ { sramEntry with shares := 1 }).tte sram).shares ≠ 0) ∧
    ((shareOf sram).isShare = true ∧ (shareOf sram).rights.getLsbD 1 = true ∧ out.peer ≠ 0x3FF ∧ home.rightsOnly sram out = false) ∧
    gives (home.destOf home.cur 0x10005) (· == out) = true ∧
    ((s.me.kr 0).img.kind = 0 ∧ (lock.me.kr 1).locked = true ∧ gives (lock.destOf lock.cur (lock.me.xr 5)) (· == d) = true) :=
  ⟨ready_of (by decide +kernel), ready_of (by decide +kernel), by decide +kernel⟩

/-- SENDV of a view that ends at the allotment, beyond it, of STRIDE 0, and of vin with a message; VOLLEY to tile 0, to none, and a word of
38 bits. -/
theorem hyp_WideSends :
    let s := (home.setMe { home.me with vw := startViews, slabLen := 256 }).withX 5 0x3FF0005
    let flat := s.setMe { s.me with vw := Vector.replicate 4 {} }
    let full := s.modChan 0 0 (fun c => { c with recs := [{ msg := { payload := [7] } }], onChip := 1 })
    let set : Word := 0x10101
    let room := fun (v : VReg) => (s.me.vwr 0).base + 256 * (s.me.vwr 0).stride * v.toNat + 256
    let inSet := fun (w : Word) (t : BitVec 10) => w.getLsbD (t.toNat / 128) = true ∧ w.getLsbD (8 + t.toNat / 16 % 8) = true ∧
      w.getLsbD (16 + t.toNat % 16) = true ∧ (home.tile t).inService = true
    s.Ready [5] ∧ home.Ready [5, 6] ∧ gives (s.destOf s.cur (s.me.xr 5)) (fun _ => true) = true ∧ (flat.me.vwr 0).stride = 0 ∧ (s.me.vwr 0).stride ≠ 0 ∧
    (s.slabOf s.cur).2 = 256 ∧ room 0 = 256 ∧ 256 < room 1 ∧
    (s.tile 0).edgeFree true [{ space := .slab 0, lo := 0, hi := 256 }] [] s.nextId = true ∧ s.outGranted s.cur = true ∧
    (s.ctxOf s.cur).rerun = 0 ∧ gives (full.vinChoose full.cur) (· == (0, full)) = true ∧ ((full.chan 0 0).recs[0]?).isSome = true ∧
    gives (readBlock home home.cur (home.me.xr 6) (chanInfo 0 0)) (fun b => b.regs == []) = true ∧
    (inSet set 0 ∧ set.toNat < 2 ^ 38 ∧ (∀ t, inSet set t → home.reach (dieOf 0) (dieOf t) = true) ∧ (∀ t, ¬inSet 0 t)) :=
  ⟨ready_of (by decide +kernel), ready_of (by decide +kernel), by decide +kernel⟩

/-- RECV with a message without titles, to memory and to nothing; with three titles for k13 to k15 and for k14 and on, for an empty, a taken and a
locked register; with one of another context for a table with a free entry and for a full one; and with none. -/
theorem hyp_Receiving :
    let put := fun (m : Msg) => titled.modChan 0 0 (fun c => { c with recs := [{ msg := m }], onChip := 1 })
    let plain := put { payload := [7] }
    let xs : List Title := [{ sram with index := 5 }, shareOf sram, { sram with index := 6, kind := 3 }]
    let gift := put { hdr := header 0 0 0 0 0 3 0 0, titles := xs }
    let lock := gift.setMe (gift.me.setK 13 { img := {}, locked := true })
    let w := plain.withX 5 0x1F00
    let other := { sram with ctx := 7 }
    let room := put { hdr := header 0 0 0 0 0 1 0 0, titles := [other] }
    let full := room.modCtx 0 (fun c => { c with tableSize := 3 })
    let kept := fun (s : State) (kd : KReg) (n : Nat) => ∀ j < n, (s.me.kr (BitVec.ofNat 4 (kd.toNat + j))).img.kind = 0 ∧
      (s.me.kr (BitVec.ofNat 4 (kd.toNat + j))).locked = false
    titled.Ready [5] ∧ titled.Ready [0] ∧ (titled.ctxOf titled.cur).rerun = 0 ∧ (titled.entryOf titled.cur).sec = none ∧
    (titled.chan 0 0).choose (true, 0) = none ∧
    ((plain.chan 0 0).choose (true, 0) = some 0 ∧ ((plain.chan 0 0).recs[0]?).map (fun r => hdrNt r.msg.hdr) = some 0) ∧
    ((w.me.xr 5).getLsbD 1 = false ∧ (w.me.xr 5).toNat / 8 * 8 + 256 ≤ 0x2000 ∧ (w.entryOf w.cur).holds 0x1F00 = false) ∧
    ((gift.chan 0 0).choose (true, 0) = some 0 ∧ ((gift.chan 0 0).recs[0]?).map (fun r => hdrNt r.msg.hdr) = some 3 ∧
      ((gift.chan 0 0).recs[0]?).map (fun r => r.msg.titles) = some xs ∧ (∀ x ∈ xs, x.kind ≠ 0 ∧ (x.isShare = true ∨ x.ctx = gift.me.ctx)) ∧
      xs.map Title.isShare = [false, true, false]) ∧
    ((13 : KReg).toNat + 3 ≤ 16 ∧ kept gift 13 3 ∧ ¬(14 : KReg).toNat + 3 ≤ 16 ∧ ¬kept gift 1 3 ∧ ¬kept lock 13 3) ∧
    ((room.chan 0 0).choose (true, 0) = some 0 ∧ ((room.chan 0 0).recs[0]?).map (fun r => r.msg.titles) = some [other] ∧ kept room 3 1 ∧
      other.isShare = false ∧ other.ctx ≠ room.me.ctx ∧ (room.ctx 0).freeIndex = some 3) ∧
    ((full.chan 0 0).choose (true, 0) = some 0 ∧ (full.ctx 0).freeIndex = none ∧ kept full 3 1) :=
  ⟨ready_of (by decide +kernel), ready_of (by decide +kernel), by decide +kernel⟩

/-- Entries 0 (named) and 1 (not valid); a semaphore at 0, 1 and 65 535, with a slot in line, one that joined it in this cycle behind a lower slot,
and a write to the slab under way. -/
theorem hyp_HandlersAndSemaphores :
    let sem := fun (c : BitVec 16) => home.modTile 0 (fun t => { t with sems := [(3, c)] })
    let line := home.modTile 0 (fun t => { t with semWaiters := [(3, true, 1)] })
    let held := home.modTile 0 (fun t => { t with flight := [⟨0, true, 0, false, [], [⟨.slab 0, 0, 256⟩], [], false, none⟩] })
    let twice := home.modTile 0 (fun t => { t with semWaiters := [(3, true, 1)], semLast := 0, semSame := [(3, true, 1)] })
    home.Ready [5, 6] ∧ home.Ready [] ∧ ((home.entry 0 0).valid = true ∧ (home.entry 0 0).ctx = home.me.ctx ∧ (home.entry 0 63).valid = false) ∧
    (home.ctxOf home.cur).rerun = 0 ∧ home.releaseReady home.cur = true ∧ held.releaseReady held.cur = false ∧
    find (0, 0) (home.tile 0).semBlocks home.me.ctx.toNat = (0, 0) ∧
    ([0, 1, 65535] : List (BitVec 16)).all (fun c => find 0 ((sem c).tile 0).sems 3 == c) = true ∧ (home.tile 0).semWaiters = [] ∧
    (line.tile 0).semWaiters.filter (fun w => w.1 == 3) = [(3, true, 1)] ∧ (⟨0, true, 1⟩ : SlotId) ≠ line.cur ∧
    ((twice.tile 0).semLast = twice.cycles[(dieOf 0).toNat] ∧ (twice.tile 0).semSame.contains (3, true, 1) = true) :=
  ⟨ready_of (by decide +kernel), ready_of (by decide +kernel), by decide +kernel⟩

/-- TCHK words whose range ends at the title's last byte and one past it, one whose right is missing; a shared and a carved title. -/
theorem hyp_TitleAndIdentityReads :
    let w := fun (off n needs : Nat) => off + n * 2 ^ 48 + needs * 2 ^ 59
    let inside := fun (x : Nat) => x % 2 ^ 48 + x / 2 ^ 48 % 256 + 1 ≤ 256 * sram.len.toNat
    titled.Ready [] ∧ titled.Ready [5] ∧ (titled.me.kr 0).img.kind = 0 ∧ (titled.me.kr 1).img.kind ≠ 0 ∧ (titled.me.kr 1).locked = false ∧
    titled.me.links.length ≤ 16 ∧ inside (w 0x3FC 3 0b11000) ∧ ¬inside (w 0x3FD 3 0b11000) ∧
    (∀ b < 5, (BitVec.ofNat 64 (w 0 3 0b11000)).extractLsb' 59 5 = 0b11000 ∧ (b ∈ [3, 4] → sram.rights.getLsbD b = true)) ∧
    sram.rights.getLsbD 0 = false ∧ (titled.tte sram).shares = 0 ∧ (titled.tte sram).carved = 0 ∧
    ((home.withTitle 1 sram { sramEntry with shares := 1 }).tte sram).shares ≠ 0 ∧
    ((home.withTitle 1 sram { sramEntry with carved := 1 }).tte sram).carved ≠ 0 :=
  ⟨ready_of (by decide +kernel), ready_of (by decide +kernel), by decide +kernel⟩

/-- VIEW with a legal descriptor (zeros), an illegal one, and a misaligned offset; jobs Running, Done and FAULT, and an unknown one. -/
theorem hyp_ViewsMarksAndJobs :
    let bad := titled.store (tileKey 0 0x1000) [1]
    let rec_ := titled.modCtx 0 (fun c => { c with rerun := 1, logCap := 64 })
    let job := fun (st : BitVec 4) => ({ titled.setMe { titled.me with known := [9] } with
      jobs := [{ tile := 0, num := 9, core := true, slot := 0, chainId := 1, ctx := 0, kind := .copy, card := {}, status := st }] } : State)
    titled.Ready [5] ∧ (titled.ctxOf titled.cur).rerun = 0 ∧ rec_.isRecording 0 = true ∧ (rec_.tile 0).staging.length < 1024 ∧
    (titled.me.xr 5).toNat % 32 = 0 ∧ 31 % 32 ≠ 0 ∧ gives (titled.allow titled.me 1 rRD 0 32) (· == sram) = true ∧
    (titled.tile 0).edgeFree true [sram.region 0 32] [] titled.nextId = true ∧
    gives (titled.titleLoad titled.cur sram 0 32) (fun r => (viewIn r.1).legal) = true ∧
    gives (bad.titleLoad bad.cur sram 0 32) (fun r => !(viewIn r.1).legal) = true ∧
    (∀ st ∈ [(1 : BitVec 4), 2, 3, 6], (9 : BitVec 16) ∈ (job st).me.known ∧ ((job st).job? 0 9).map Job.status = some st) ∧
    (10 : BitVec 16) ∉ (job 3).me.known :=
  ⟨ready_of (by decide +kernel), by decide +kernel⟩

/-- A recording context with room and without; one in replay whose next entry of the slot is a JSTAT's, a SEM.TRY's or a mark's, with the
operation's own value, with another one, and with another one that RESUME repeats; and one at the end of its log. -/
theorem hyp_ViewsMarksAndJobs_rerun :
    let job : Job := { tile := 0, num := 9, core := true, slot := 0, chainId := 1, ctx := 0, kind := .copy, card := {}, status := 2 }
    let base : State := { (titled.withX 5 9).setMe { (titled.withX 5 9).me with known := [9] } with jobs := [job] }
    let rec_ := base.modCtx 0 (fun c => { c with rerun := 1, logCap := 64 })
    let full := rec_.modTile 0 (fun t => { t with staging := List.replicate 1024 (0, { kind := 0, tile := 0, core := true, slot := 0, serial := 0, value := 0 }) })
    let e : LogEntry := { kind := 0x0A, tile := 0, core := true, slot := 0, serial := 1, value := 3 }
    let replay := fun (es : List LogEntry) => base.modCtx 0 (fun c => { c with rerun := 2, replay := es })
    let skip := fun (s : State) => s.setMe { s.me with skipCheck := true }
    let mine := fun (x : LogEntry) => x.tile == (0 : BitVec 10) && x.core == true && x.slot == (0 : BitVec 2)
    let up := find 0 (base.tile 0).sems ((find (0, 0) (base.tile 0).semBlocks base.me.ctx.toNat).1 + 3)
    base.Ready [5] ∧ (base.ctxOf base.cur).logStopped = false ∧ ((rec_.ctxOf rec_.cur).rerun = 1 ∧ (rec_.tile 0).staging.length < 1024 ∧
      1024 ≤ (full.tile 0).staging.length) ∧
    ((base.me.xr 5).toNat < 65536 ∧ ((base.me.xr 5).setWidth 16 : BitVec 16) ∈ base.me.known ∧ base.job? 0 9 = some job ∧ job.status ≠ 6) ∧
    (∀ x ∈ [e, { e with kind := 0x09 }, { e with kind := 0x0D }], ((replay [x]).ctxOf fetchSlot).rerun = 2 ∧
      ((replay [x]).ctxOf fetchSlot).replay.find? mine = some x ∧ (skip (replay [x])).me.skipCheck = true ∧ (replay [x]).me.skipCheck = false) ∧
    (((replay []).ctxOf fetchSlot).replay.find? mine = none ∧ (replay []).CanTrap fetchSlot) ∧ (up = 0 ∧ e.value ≠ 0 ∧ e.value ≠ base.me.xr 5) :=
  ⟨ready_of (by decide +kernel), by decide +kernel, by decide +kernel, by decide +kernel, by decide +kernel, by unfold State.CanTrap; decide +kernel⟩

/-- CTXKILL from function 0 and 1, of a running and a free context; AGE at 4095, of a runnable entry and one that is not; a watchdog at its limit,
once, twice, and of a firing that is ending. -/
theorem hyp_KillsAndWatchdogs :
    let other := home.modCtx 0 (fun c => { c with func := 1 })
    let v := home.me
    let late := home.setMe { v with wdog := 1024 }
    let twice := home.setMe { v with wdog := 1024, wdogTaken := true }
    let ends := home.setMe { v with wdog := 1024, ending := some .abandon }
    let last := (home.setMe { v with ending := some .last }).setSlot ⟨0, true, 1⟩ { busy := true }
    let old := home.waiting.modEntry 0 1 (fun e => { e with age := 4095 })
    home.Ready [5] ∧ other.Ready [5] ∧ (home.ctxOf home.cur).func = 0 ∧ (other.ctxOf other.cur).func ≠ 0 ∧
    ((home.ctx 0).state ≠ 0 ∧ (home.ctx 0).world = (home.ctxOf home.cur).world ∧ (home.ctx 255).state = 0) ∧
    ((old.entry 0 1).age = 4095 ∧ old.runnable 0 1 = true ∧ home.runnable 0 0 = false) ∧
    (late.watchOut late.cur = true ∧ late.me.ending = none ∧ late.effective late.cur = false ∧ late.me.wdogTaken = false ∧ late.CanTrap late.cur) ∧
    (twice.watchOut twice.cur = true ∧ twice.me.wdogTaken = true) ∧ (ends.watchOut ends.cur = true ∧ ends.me.ending = some .abandon) ∧
    (last.me.ending = some .last ∧ (last.slot ⟨0, true, 1⟩).busy = true ∧ (last.slot ⟨0, true, 1⟩).ctx = last.me.ctx) ∧
    (v.busy = true ∧ v.wdogOver = false) :=
  ⟨ready_of (by decide +kernel), ready_of (by decide +kernel), by unfold State.CanTrap; decide +kernel⟩

/-- An arena of 8 blocks with blocks 0 to 3 allotted, and one more of each outcome of TNEW. -/
theorem hyp_ArenasAllot :
    let ask := fun (n : Word) => titled.withX 5 n
    let nofree := titled.modCtx 0 (fun c => { c with tableSize := 3 })
    (([(0, 4)] : List (Nat × Nat)).Pairwise (fun a b => a.1 + a.2 ≤ b.1) ∧ (∀ r ∈ [(0, 4)], 0 < r.2 ∧ r.1 + r.2 ≤ 8)) ∧
    (∀ n, (ask n).Ready [5]) ∧ (titled.ctxOf titled.cur).rerun = 0 ∧ (titled.me.kr 2).img = arena ∧ arena.isArena = true ∧
    ¬(sram.kind = 1 ∧ sram.rights.getLsbD 0 = true) ∧ (titled.me.kr 3).img.kind = 0 ∧ (titled.me.kr 1).img.kind ≠ 0 ∧
    (titled.arenaMap 0 2 = [(0, 4)] ∧ lowestRun 4 8 0 [(0, 4)] = some 4 ∧ lowestRun 5 8 0 [(0, 4)] = none) ∧
    ((titled.ctx 0).freeIndex.isSome = true ∧ (nofree.ctx 0).freeIndex = none) :=
  ⟨by decide, fun _ => ready_withX _ _ (ready_of (by decide +kernel)), by decide +kernel⟩


/-- A share of the WHOLE in k4, counted at its root; a part of it in k5, counted and with its own entry 3. -/
def shared : State := (titled.withK 4 (shareOf sram)).modTte 0 1 (fun e => { e with shares := 1 })
def part : Title := { sram with index := 3, base := 0x1300, len := 1 }
/-- A COMMONS of one object in tile SRAM. -/
def commons : Title := { index := 1, kind := 3, rights := 0b10100, base := 0x1000, len := 1 }
def parted : State := (titled.withTitle 5 part { sramEntry with parent := 1, base := 0x1300, len := 1 }).modTte 0 1 (fun e => { e with carved := 1 })

/-- TSPLIT and TNARROW of k1 into k3, TNARROW of the share, the part ending at the last byte and one block past it; TJOIN of the share and of the
part with their root; TFREE of the root to its arena. -/
theorem hyp_SharesPartsAndFrees :
    let sound := fun (x : Title) (off lw : Nat) => lw / 32 % 8 = 0 ∧ off % 256 = 0 ∧ lw / 256 ≠ 0 ∧ off + 256 * (lw / 256) ≤ 256 * x.len.toNat
    (titled.Ready [6, 7] ∧ titled.Ready [] ∧ shared.Ready [6, 7]) ∧
    ((titled.me.kr 3).img.kind = 0 ∧ (titled.me.kr 3).locked = false ∧ (titled.me.kr 1).img = sram ∧ sram.loc.toNat < 2 ∧
      titled.writesUnder titled.cur sram = false ∧ sram.isArena = false ∧ (titled.tte sram).carved = 0 ∧ (titled.tte sram).shares = 0) ∧
    ((shared.me.kr 4).img = shareOf sram ∧ (shareOf sram).isShare = true ∧ (shared.tte (shareOf sram)).shares = 1) ∧
    (sound sram 0x300 0x118 ∧ ¬sound sram 0x300 0x200 ∧ ¬sound sram 0x300 0x120) ∧
    ((titled.ctx 0).freeIndex = some 3 ∧ sram.index.toNat ≠ 3) ∧
    ((shared.me.kr 1).img = sram ∧ (shared.tte sram).kind = 1 ∧ (shared.tte sram).state = 1) ∧
    ((parted.me.kr 5).img = part ∧ (parted.tte part).parent = sram.index ∧ (parted.tte part).shares = 0 ∧ (parted.tte part).carved = 0 ∧
      parted.busyUnder parted.cur part = false) ∧
    ((titled.me.kr 2).img = arena ∧ arena.isArena = true ∧ (titled.tte sram).parent = arena.index ∧ titled.busyUnder titled.cur sram = false) ∧
    ((shared.tte sram).shares ≠ 0 ∧ (parted.tte sram).carved ≠ 0) ∧
    (let lock := titled.setMe (titled.me.setK 3 { img := {}, locked := true })
     (titled.me.kr 2).img.kind ≠ 0 ∧ (lock.me.kr 3).locked = true ∧ (commons.kind ≠ 1 ∧ commons.isShare = false) ∧
     ((titled.modTte 0 1 (fun e => { e with shares := BitVec.allOnes 20 })).tte sram).shares = BitVec.allOnes 20 ∧
     ((titled.modTte 0 1 (fun e => { e with carved := 4095 })).tte sram).carved = 4095) :=
  ⟨⟨ready_of (by decide +kernel), ready_of (by decide +kernel), ready_of (by decide +kernel)⟩, by decide +kernel⟩

/-- A title of the cluster's SRAM, and one of HBM with its page in the TLB. -/
def cluster : Title := { sram with loc := 1 }
def hbm : Title := { sram with loc := 2, base := 0x20000, len := 32 }
def pageE : TlbEntry := { ctx := 0, va := 0x20000, size := 0x2000, pa := 0x40000, mode := 0, peer := 0x3FF, thr := 0, rp := true, wp := true, xp := false, leaf := 0 }
def paged : State := (titled.withTitle 1 hbm { sramEntry with loc := 2, base := 0x20000, len := 32 }).modCluster 0 (fun c => { c with tlb := c.tlb ++ [pageE] })

/-- An engine has come to the end of its pieces, or waits. -/
def isAll : Progress → Bool
  | .all => true
  | _ => false
def isWait : Progress → Bool
  | .waits => true
  | _ => false

/-- TSENDR to peer 1: before it, with a buffer and in line for one; with the copy begun, of a title in SRAM and of one whose walk it awaits; and on
each answer, with the zeroing done and held by a refresh; a package without a live port. -/
theorem hyp_CopyToPeer :
    let x : Title := { sram with len := 1 }
    let s := (titled.withTitle 1 x { sramEntry with len := 1 }).withX 5 0x10005
    let line := s.modTile 0 (fun t => { t with outWaiters := [(false, 1)] })
    let q : Req := { id := 3, src := home.cur, chainId := 1, ctx := 0, seq := 0, home := .peer 1, kind := .titleCopy 1 0x10005 [] false, state := .unsent,
                     buf := some 0 }
    let with_ := fun (s : State) (r : Req) => ({ s with reqs := [r], nextId := 4 } : State)
    let back := fun (w : Word) => with_ s { q with state := .replied w .none }
    let dark : State := { s with gateway := { s.gateway with ports := Vector.replicate 8 0 } }
    let far := with_ (titled.withTitle 1 hbm { sramEntry with loc := 2, base := 0x20000, len := 32 }) q
    let busy : State := { paged with hbm := { paged.hbm with rfm := (List.range 16).map (fun b => (0, pcOf 0, BitVec.ofNat 4 b)) } }
    let reads := fun (u : State) (x : Title) => (u.copyMore (u.engOf u.cur) x (unitPieces 0 x.bytes) { bytes := [], bad := false, pages := q.pages }).2.2
    let wipes := fun (u : State) (x : Title) (p : List TlbEntry) => (u.wipeMore (u.engOf u.cur) x p (unitPieces 0 x.bytes) 0).2.2
    s.Ready [5] ∧ titled.Ready [5] ∧ ((∀ r ∈ s.reqs, r.id < s.nextId) ∧ (∀ r ∈ (with_ s q).reqs, r.id < (with_ s q).nextId)) ∧
    (titled.me.xr 5).extractLsb' 16 10 = 0 ∧ ((s.me.xr 5).toNat < 2 ^ 26 ∧ (s.me.xr 5).extractLsb' 16 10 = 1) ∧
    s.livePorts ≠ [] ∧ dark.livePorts = [] ∧ (0x3FF0005 : Word).extractLsb' 16 10 = 0x3FF ∧
    ((s.me.kr 1).img = x ∧ x.loc.toNat < 2) ∧ gives (s.copyChecks s.cur x) (fun _ => true) = true ∧ s.copyOf s.cur = none ∧ s.busyUnder s.cur x = false ∧
    (s.outGranted s.cur = true ∧ line.outGranted line.cur = false ∧ (s.tile 0).outbox.length < 128) ∧
    ((with_ s q).copyOf s.cur = some q ∧ (with_ s q).req? 3 = some q ∧ isAll (reads (with_ s q) x) = true ∧ isWait (reads far hbm) = true) ∧
    ([3, 4, 5] : List Word).all (fun w => ((back w).copyOf s.cur).map Req.state == some (.replied w .none)) = true ∧
    (wipes (back 3) x [] = true ∧ wipes busy hbm [pageE] = false) :=
  ⟨ready_of (by decide +kernel), ready_of (by decide +kernel), by decide +kernel⟩

/-- The last double word of 1024 bytes (immediate 127), the next one outside, and each failing check. -/
theorem hyp_ScalarTitleAccesses :
    let at_ := fun (x : Title) => home.withTitle 1 x sramEntry
    let o := 8 * (127#10).toInt
    (∀ x ∈ [sram, cluster], (at_ x).me.xr 5 = 0 ∧ ((at_ x).me.kr 1).img = x ∧ ((at_ x).me.kr 1).locked = false ∧ x.isData = true ∧
      x.rights.getLsbD 4 = true ∧ x.rights.getLsbD 3 = true ∧ ((at_ x).tte x).carved = 0 ∧ ((at_ x).tte x).shares = 0 ∧
      (0 ≤ o ∧ o + 8 = (256 * x.len.toNat : Nat) ∧ (x.base.toNat + o.toNat) % 8 = 0) ∧
      ((at_ x).tile 0).edgeFree true [x.region o.toNat 8] [] (at_ x).nextId = true ∧
      ((at_ x).tile 0).edgeFree true [] [x.region o.toNat 8] (at_ x).nextId = true ∧
      gives ((at_ x).titleLoad (at_ x).cur x o.toNat 8) (fun _ => true) = true ∧
      gives ((at_ x).titleStore (at_ x).cur x o.toNat [1, 2, 3, 4, 5, 6, 7, 8]) (fun _ => true) = true) ∧
    ((home.tile sram.place).world = sram.world ∧ (home.cluster 0).world = cluster.world) ∧ home.MemOk ∧
    (((home.setMe (home.me.setK 1 { img := sram, locked := true })).me.kr 1).locked = true ∧ (home.me.kr 0).img.kind = 0 ∧ arena.isData = false ∧ ({ sram with rights := 0 } : Title).rights.getLsbD 4 = false ∧
      ¬(0 ≤ 8 * (128#10).toInt ∧ 8 * (128#10).toInt + 8 ≤ (256 * sram.len.toNat : Nat)) ∧ (shared.tte sram).shares ≠ 0 ∧
      (parted.tte sram).carved ≠ 0 ∧ (({ sram with base := 0x1004 } : Title).base.toNat + 0) % 8 ≠ 0) ∧
    (home.withTitle 1 sram sramEntry).Ready [5] ∧ (home.withTitle 1 cluster sramEntry).Ready [5] :=
  ⟨by decide +kernel, by decide +kernel, rfl, by decide +kernel, ready_of (by decide +kernel), ready_of (by decide +kernel)⟩

theorem hyp_CachedStoreThenLoad :
    let s := paged
    let a := hbm.base.toNat + 8
    let pa := pageE.pa + (a - pageE.va)
    s.Ready [5] ∧ ((s.me.kr 1).img = hbm ∧ (s.me.kr 1).locked = false ∧ hbm.rights.getLsbD 0 = false ∧ hbm.rights.getLsbD 3 = true ∧
      hbm.rights.getLsbD 4 = true ∧ (s.tte hbm).shares = 0 ∧ (s.tte hbm).carved = 0 ∧ 8 + 8 ≤ 256 * hbm.len.toNat ∧ a % 8 = 0) ∧
    ((s.tile 0).flight = [] ∧ (s.cluster 0).tlbFind 0 a = some pageE ∧ pageE.va % 256 = 0 ∧ pageE.pa % 256 = 0 ∧ pa < s.hbm.liveCap.toNat ∧ pa < hbmEnd ∧
      s.regionWorld pa = hbm.world) ∧
    ((s.dieOfPa pa).all (fun d => s.reach (dieOfCluster 0) d) = true ∧ s.granOf (pa / 4096) = none ∧ (s.cluster 0).lines = []) :=
  ⟨ready_of (by decide +kernel), by decide +kernel⟩

/-- The view v0 ends inside an allotment of 512 bytes, v1 at its end, v2 beyond; an index of zeros. -/
theorem hyp_VectorMemory :
    let s := titled.setMe { titled.me with vw := startViews, slabLen := 512 }
    let full := s.modChan 0 0 (fun c => { c with recs := [{ msg := { payload := [7] } }], onChip := 1 })
    let view := fun (n : VReg) => (s.me.vwr 0).base + 256 * (s.me.vwr 0).stride * n.toNat
    let region := fun (n : VReg) => ({ space := .slab 0, lo := view n, hi := view n + 256 } : Region)
    let os := indexOffsets (s.bytes (slabKey 0 (view 1)) 256)
    let free := fun (r w : List Region) => (s.tile 0).edgeFree true r w s.nextId = true
    s.Ready [] ∧ s.MemOk ∧ (s.slabOf s.cur = (0, 512) ∧ (s.me.vwr 0).stride ≠ 0 ∧ view 1 + 256 = 512 ∧ 512 < view 2 + 256) ∧
    ((titled.setMe { titled.me with vw := Vector.replicate 4 {} }).me.vwr 0).stride = 0 ∧
    (gives (s.allow s.me 1 rRD 0 256) (· == sram) = true ∧ gives (s.allow s.me 1 rWR 0 256) (· == sram) = true) ∧
    gives (full.vinTake full.cur) (fun _ => true) = true ∧
    (free [sram.region 0 256] [region 0] ∧ free [region 0] [sram.region 0 256] ∧ free [region 1] [] ∧ free (region 1 :: unitRegions sram os) [region 0] ∧
      free [region 0, region 1] (unitRegions sram os)) ∧
    gives (s.admitUnits s.me 1 rRD os) (fun _ => true) = true ∧ gives (s.admitUnits s.me 1 rWR os) (fun _ => true) = true :=
  ⟨ready_of (by decide +kernel), rfl, by decide +kernel⟩

/-- A card that copies k1 to a second title k6; one with a reserved bit set; 16 jobs not final; the job as it starts and runs. -/
def copyTo : Title := { sram with index := 4, base := 0x2000 }
def carded : State :=
  let s := (titled.withTitle 6 copyTo { sramEntry with base := 0x2000 }).withX 5 0x100
  s.store (coreKey 0 true 0x100) (leBytes 8 (1 * 2 ^ 28 + 6 * 2 ^ 24) ++ leBytes 8 0 ++ leBytes 8 0 ++ leBytes 8 0x40)

theorem hyp_MoveJobs :
    let ws : List Word := [0x16000000, 0, 0, 0x40, 0, 0, 0, 0]
    let job : Job := { tile := 0, num := 9, core := true, slot := 0, chainId := 1, ctx := 0, kind := .copy, card := cardOf ws, imgS := sram, imgD := copyTo }
    let busy : State := { carded with jobs := (List.range 16).map (fun n => { job with num := BitVec.ofNat 16 n }) }
    let runs := fun (st : BitVec 4) => ({ carded with jobs := [{ job with status := st }] } : State)
    carded.Ready [5] ∧ gives (readCard carded carded.cur (carded.me.xr 5)) (· == ws) = true ∧ cardOk .copy ws = true ∧ cardOk .xfer ws = false ∧
    gives (carded.jobSource .copy (cardOf ws)) (· == sram) = true ∧ gives (carded.jobTarget .copy (cardOf ws)) (· == copyTo) = true ∧
    gives (carded.jobDest .copy (cardOf ws)) (· == none) = true ∧ gives (carded.jobOut .copy (cardOf ws) sram copyTo none) (fun _ => true) = true ∧
    carded.placesUsed carded.cur = 0 ∧ busy.placesUsed busy.cur = 16 ∧
    ((runs 0).job? 0 9 = some job ∧ (runs 0).jobReady job = true ∧ (runs 1).job? 0 9 = some { job with status := 1 } ∧
      (runs 1).unitAdmits (.tramontane (clusterOf 0)) false = true ∧ (runs 1).late = [] ∧ (runs 1).reqs = [] ∧ (carded.tile 0).world = false) :=
  ⟨ready_of (by decide +kernel), by decide +kernel⟩

/-- A job of each kind that reads or writes tile or cluster SRAM as it begins to run; an MV.2D of two rows; and reads that all come. -/
theorem hyp_MoveJobs_runs :
    let job : Job := { tile := 0, num := 9, core := true, slot := 0, chainId := 1, ctx := 0, kind := .copy, card := { len := 64 }, imgS := sram, imgD := cluster, status := 1 }
    let with_ := fun (j : Job) => ({ carded with jobs := [j] } : State)
    let jobs : List Job := [job, { job with kind := .get }, { job with kind := .fill }, { job with kind := .slab, card := { job.card with toslab := true } },
      { job with kind := .slab }, { job with kind := .twoD, card := { job.card with rows := 2, sstride := 64, dstride := 128 } }]
    (∀ j ∈ jobs, (with_ j).job? j.tile j.num = some j ∧ j.status = 1 ∧ j.got = [] ∧ j.data = [] ∧ j.row = 0 ∧ j.buf = none ∧ j.card.notify = false ∧
      j.card.carry = false ∧ j.waits = [] ∧ (with_ j).late = [] ∧ (with_ j).reqs = [] ∧ j.card.len % 8 = 0 ∧ 0 < j.card.len) ∧
    (carded.tile sram.place).world = sram.world ∧ (carded.cluster 0).world = cluster.world ∧ carded.unitAdmits (.tramontane 0) false = true ∧
    isAll ((with_ job).engMore job.eng sram (unitPieces 0 64) [] []).2.2.2 = true ∧ (with_ job).MemOk :=
  ⟨by decide +kernel, by decide +kernel, by decide +kernel, by decide +kernel, by decide +kernel, by unfold State.MemOk; decide +kernel⟩

/-- A whole unit and part of one, under the HBM title, of a job of Tramontane and of a base die; the unit good, poisoned, and never written. -/
theorem hyp_MoveJobs_units :
    let g : Eng := { cl := 0, src := fetchSlot, ctx := 0, by_ := .job 0 9 }
    let key := hbmKey 0 0x40 0
    let with_ := fun (u : Unit64) => ({ paged with units := [(key / 64, u)] } : State)
    let good : Unit64 := { written := true }
    let put := fun (s : State) (g : Eng) (kind : AccKind) => gives (s.translate 0 (g.purpose hbm) 0x20000 kind) (fun x => match x with
      | .here pa leaf => decide (pa < hbmEnd) && pa == 0x40000 && gives (s.setAccessed 0 leaf true) (fun s1 => gives (s1.request g.asker 0 pa) (fun r =>
          r.1 == key && r.1 % 64 == pa % 64 && decide (r.2.mem = s.mem) && decide (r.2.units = s.units) &&
          (r.2.cluster 0).lines.all (fun l => !l.isFor pa hbm)))
      | _ => false) = true
    (paged.engAdmits g hbm = true ∧ paged.engAdmits { g with base := true } hbm = true ∧ hbm.loc = 2) ∧
    (put (with_ good) g .write ∧ put (with_ { good with poison := true }) g .write ∧ put paged { g with base := true } .read) ∧
    (((with_ good).unit key).bad = false ∧ ((with_ good).unit key).written = true ∧ ((with_ good).unit key).domain = 0 ∧
      ((with_ good).unit key).epoch = (paged.domain 0).epoch ∧ ((with_ { good with poison := true }).unit key).bad = true) ∧
    (0 < 64 ∧ 0x40000 % 64 + 64 ≤ 64) ∧ paged.MemOk :=
  ⟨by decide +kernel, by decide +kernel, by decide +kernel, by decide +kernel, rfl⟩

/-- A job that ends without a message, with one to this package, and with a carried title; an MV.XFER that moves rights, one for whose copy the landing
arena has room and one without, and one whose bytes are written. -/
theorem hyp_MoveJobs_end :
    let job : Job := { tile := 0, num := 9, core := true, slot := 0, chainId := 1, ctx := 0, kind := .copy, card := { cmpdst := 0x3FF0005 }, imgS := sram, imgD := copyTo, status := 2, ord := 1 }
    let with_ := fun (j : Job) => ({ titled.withTitle 6 copyTo { sramEntry with base := 0x2000 } with jobs := [j] } : State)
    let tells : Job := { job with card := { job.card with notify := true }, buf := some 0 }
    let carries : Job := { tells with card := { tells.card with carry := true } }
    let xfer : Job := { job with kind := .xfer, buf := some 0 }
    let copies : Job := { xfer with far := true, imgD := {} }
    let lands := (with_ copies).modCtx 0 (fun c => { c with landing := [⟨0, 2, 3⟩] })
    let room := fun (u : State) => (u.landingArena copies.dest true).bind (fun a => u.allotBlocks copies.src a sram.len.toNat)
    (∀ j ∈ [job, tells, carries, xfer, copies, { copies with imgD := copyTo }], (with_ j).job? j.tile j.num = some j ∧ j.status = 2 ∧ j.paused = none ∧
      j.data = [] ∧ j.waits = [] ∧ (with_ j).late = [] ∧ (with_ j).reqs = [] ∧ (destWord j.card.cmpdst).peer = 0x3FF ∧
      ((with_ j).slot j.src).busy = true ∧ ((with_ j).slot j.src).chainId = j.chainId) ∧
    ((with_ carries).busyBefore fetchSlot copyTo 1 = false ∧ needsScan fetchSlot copyTo carries.dest false = false ∧ copyTo.isShare = false) ∧
    ((with_ xfer).busyBefore fetchSlot sram 1 = false ∧ needsScan fetchSlot sram xfer.dest false = false ∧ xfer.far = false) ∧
    (room (with_ copies) = none ∧ (room lands).isSome = true ∧ (lands.job? 0 9 = some copies)) ∧
    (copyTo.kind ≠ 0 ∧ (titled.tile sram.place).world = sram.world ∧ titled.unitAdmits (.tramontane 0) false = true ∧
      ¬(copyTo.ctx = sram.ctx ∧ copyTo.index = sram.index)) := by decide +kernel

/-- Granule 0x20000 of the HBM title: not open, open by the chain, open by another; STAT of a granule and of a register. -/
def granOf0 (c : BitVec 32) : Gran := { stack := 0, off := 0, g := 0x40, opener := fetchSlot, chainId := c, ctx := 0, index := 1, domain := 0 }

theorem hyp_GranulesOpenAndClose :
    let op := fun (s : State) (r : Option Nat) (p : Nat × State → Bool) => gives (s.granuleOperand 1 r 0 0x13 .read) (fun x => x.1 == hbm && p x.2) = true
    let mine : State := { paged with grans := [granOf0 1] }
    let other : State := { paged with grans := [granOf0 2] }
    paged.Ready [5] ∧ mine.Ready [5] ∧ (paged.me.xr 5).toNat = 0 ∧ (paged.ctxOf paged.cur).rerun = 0 ∧
    op paged (some rRD) (fun x => x.1 == 0x40 && (x.2.granOf x.1).isNone && (x.2.hbm.nowPlace x.1).isSome && !x.2.hbm.inWindow x.1 &&
      !x.2.touches x.2.cur hbm 0 && gives (x.2.flushGranule 0 x.1) (fun _ => true)) ∧
    op mine (some rRD) (fun x => (x.2.granOf x.1).isSome) ∧
    op mine none (fun x => x.2.granOf x.1 == some (granOf0 1) && !x.2.granBusy (granOf0 1)) ∧ op other none (fun x => x.2.granOf x.1 == some (granOf0 2)) ∧
    ((paged.withX 5 15).me.xr 5).toNat % 2 = 1 :=
  ⟨ready_of (by decide +kernel), ready_of (by decide +kernel), by decide +kernel⟩

/-- Cards of NB.RUN and NB.RCOPY over the HBM title and its second granule, with the first granule open by the chain, and not open. -/
theorem hyp_NearBankJobsIssue :
    let run : List Word := [0x11000000, 0, 0x1000, 1, 0, 0, 0, 0]
    let copy : List Word := [0x11000000, 0, 0x1000, 0, 0, 0, 0, 0]
    let mine : State := { paged with grans := [granOf0 1] }
    let card := fun (s : State) (ws : List Word) => (s.withX 5 0x100).store (coreKey 0 true 0x100) (wordsBytes ws)
    (card mine run).Ready [5] ∧ gives (readCard (card mine run) fetchSlot 0x100) (· == run) = true ∧ nbCardOk .run run = true ∧ nbCardOk .read copy = false ∧
    gives (mine.granuleOperand 1 (some rRD) 0 0x61 .read) (fun x => x.1 == hbm && (x.2.2.granOf x.2.1).any (fun y => y.opener == fetchSlot && y.chainId == 1) &&
      gives (x.2.2.jobTitle 1 rRD 0x1000 (nbBytes .run (cardOf run))) (· == hbm) && gives (x.2.2.jobDest .run (cardOf run)) (· == none)) = true ∧
    nbCardOk .rcopy copy = true ∧
    gives (paged.granuleOperand 1 (some rRD) 0 0x61 .read) (fun x => (x.2.2.granOf x.2.1).isNone &&
      gives (x.2.2.granuleOperand 1 (some rWR) 0x1000 0x61 .write) (fun y => (y.2.2.granOf y.2.1).isNone)) = true ∧
    gives (paged.granuleOperand 1 (some rWR) 0x1000 0x13 .write) (fun x => (x.2.2.granOf x.2.1).isNone) = true ∧
    paged.placesUsed paged.cur = 0 :=
  ⟨ready_of (by decide +kernel), by decide +kernel⟩

/-- The granule's page: each of its bytes is translated for a load or store of any walker. -/
theorem hyp_NearBankJobsIssue_page (kind : AccKind) (by_ : Walker) (n : Nat) (hk : kind ≠ .fetch) (hn : n < 4096) :
    paged.translate 0 { ctx := 0, world := false, domain := 0, title := some hbm, by_ := by_ } (0x20000 + n) kind = .ok (.here (0x40000 + n) pageE) := by
  have hf : (paged.cluster 0).tlbFind 0 (0x20000 + n) = some pageE := by
    have h0 : (paged.cluster 0).tlb = [{ pageE with va := 0x10000, size := 0x1000, pa := 0, wp := false, xp := true }, pageE] := by decide +kernel
    simp only [Cluster.tlbFind, h0, List.find?, TlbEntry.hit, pageE]
    rw [show decide (0x20000 + n < 0x10000 + 0x1000) = false from decide_eq_false (by omega),
      show decide (0x20000 + n < 0x20000 + 0x2000) = true from decide_eq_true (by omega), show decide (0x20000 ≤ 0x20000 + n) = true from decide_eq_true (by omega)]
    simp
  have hd : paged.dieOfPa (0x40000 + n) = some 0 := by
    have h0 : paged.dieOfPa 0x40000 = some 0 := by decide +kernel
    have hb : (0x41000 : Nat) < hbmEnd := by decide +kernel
    rw [State.dieOfPa, if_pos (by omega)] at h0 ⊢
    rw [show (0x40000 + n) / 4096 = 0x40000 / 4096 by omega]
    exact h0
  have hr : paged.regionWorld (0x40000 + n) = false := by
    have : paged.board.regions = [] := by decide +kernel
    simp [State.regionWorld, this]
  have hl : ¬0x40000 + n ≥ paged.hbm.liveCap.toNat := by
    have : (0x41000 : Nat) < paged.hbm.liveCap.toNat := by decide +kernel
    omega
  have hh : ¬0x40000 + n ≥ hbmEnd := by
    have : (0x41000 : Nat) < hbmEnd := by decide +kernel
    omega
  have hx : paged.reach (dieOfCluster 0#6) 0#3 = true := by decide +kernel
  simp only [State.translate, hf]
  cases kind with
  | fetch => exact absurd rfl hk
  | read => simp [State.throughLeaf, State.checkLeaf, hd, hr, hl, hh, pageE, hbm, sram]; intro h; rw [hx] at h; cases h
  | write => simp [State.throughLeaf, State.checkLeaf, hd, hr, hl, hh, pageE, hbm, sram]; intro h; rw [hx] at h; cases h

/-- A program that ends with HALT, one with a word that is no micro-instruction, one with a LOOP beyond COUNT, and one in a poisoned unit; a broadcast, sound and
poisoned; a read of 16 slots; a granule to zero and one to copy, with their pages. -/
theorem hyp_NearBankJobsIssue_runs :
    let job : Job := { tile := 0, num := 9, core := true, slot := 0, chainId := 1, ctx := 0, kind := .run, card := { len := 2 }, imgS := hbm, imgD := sram, gran := some 0x40 }
    let with_ := fun (j : Job) (ws : List (BitVec 32)) =>
      (({ paged with jobs := [j], grans := [granOf0 1] } : State)).store (tileKey 0 0x1000) (ws.flatMap (fun w => leBytes 4 w.toNat))
    let sick := fun (j : Job) => ({ with_ { j with imgD := hbm } [] with units := [(hbmKey 0 0x40 0 / 64, { poison := true })] } : State)
    let reads := fun (s : State) (j : Job) (n : Nat) (p : List Nat → Bool) => gives (s.engRange j.eng j.imgD 0 n) (fun r => p r.2.1 &&
      r.2.2.granOf 0x40 == some (granOf0 1) && r.2.2.job? 0 9 == some j && r.2.2.late.isEmpty) = true
    let sound := fun (ws : List (BitVec 32)) => ws.all (fun w => match decodeMicro w with
      | some (.loop n _) => n.toNat < 2
      | some _ => true
      | none => false)
    let bcast : Job := { job with kind := .bcast, status := 1 }
    let zero : Job := { job with kind := .zero, imgD := hbm }
    let rcopy : Job := { job with kind := .rcopy, imgS := hbm, imgD := hbm, status := 1, card := { dstoff := 0x1000 } }
    (sound [0x08000000, 0] = true ∧ sound [0x08000000, 0xFFFFFFFF] = false ∧ sound [0x08000000, 0x30402000] = false) ∧
    (((with_ job []).jobReady job = true ∧ reads (with_ job [0x08000000, 0]) job 8 List.isEmpty ∧ reads (with_ job [0x08000000, 0xFFFFFFFF]) job 8 List.isEmpty ∧ reads (with_ job [0x08000000, 0x30402000]) job 8 List.isEmpty) ∧
      (sick { job with imgD := hbm }).jobReady { job with imgD := hbm } = true ∧ reads (sick job) { job with imgD := hbm } 8 (fun b => !b.isEmpty)) ∧
    (reads (with_ bcast []) bcast 256 List.isEmpty ∧ reads (sick bcast) { bcast with imgD := hbm } 256 (fun b => !b.isEmpty) ∧ (granOf0 1).closing = false) ∧
    ((with_ { job with kind := .read, card := { len := 16 } } []).jobReady { job with kind := .read, card := { len := 16 } } = true) ∧
    ((with_ zero []).jobReady zero = true ∧ (with_ rcopy []).job? 0 9 = some rcopy) ∧
    (0x40000 % 4096 = 0 ∧ 0x41000 ≤ paged.hbm.liveCap.toNat ∧ 0x41000 ≤ hbmEnd ∧ paged.hbm.map 0x40000 = .at_ 0 0x40 ∧ paged.reach 0 0 = true ∧
      pageE.aPending = false ∧ (paged.domain 0).actRate = 0 ∧ paged.hbm.rfm = [] ∧ (paged.cluster 0).lines = [] ∧
      paged.hbmPoison (hbmKey 0 0x40 0) 4096 = false) := by decide +kernel

/-- A run on an open and on a closed row, one with poison in the row, one held back by an RFM, one with 32 products and one with 64 micro-instructions in its
row, one at its last word, LOOP at its last and an earlier meeting, and an arbitration window with requests queued, amid the row and at its boundary. -/
theorem hyp_MicroInstructions :
    let job : Job := { tile := 0, num := 9, core := true, slot := 0, chainId := 1, ctx := 0, kind := .run, card := {}, status := 1, prog := [0, 0, 0], gran := some 0x40 }
    let at_ := fun (g : Gran) => ({ paged with jobs := [job], grans := [g], curJob := some (0, 9) } : State)
    let shut := granOf0 1
    let open_ : Gran := { granOf0 1 with rowOpen := true }
    let sick : State := { at_ open_ with units := [(hbmKey 0 0 0 / 64, { poison := true })] }
    let held : State := { at_ shut with hbm := { paged.hbm with rfm := [(0, pcOf 0, 0)] } }
    let last : Gran := { open_ with upc := 2 }
    let queued := fun (g : Gran) => ({ at_ g with hbm := { paged.hbm with waiting := [(g.pc, 0, 0x40000)] } } : State)
    ((at_ shut).runningMicro = some (job, shut) ∧ (at_ open_).runningMicro = some (job, open_) ∧ open_.execs < 64 ∧ open_.macs < 32 ∧
      shut.upc.toNat + 1 < job.prog.length) ∧
    ((at_ { open_ with macs := 32 }).runningMicro = some (job, { open_ with macs := 32 }) ∧
      (at_ { open_ with execs := 64 }).runningMicro = some (job, { open_ with execs := 64 })) ∧
    ((at_ last).runningMicro = some (job, last) ∧ ¬last.upc.toNat + 1 < job.prog.length ∧
      (at_ { last with rowOpen := false }).runningMicro = some (job, { last with rowOpen := false })) ∧
    ((at_ shut).activationHeld shut = false ∧ held.activationHeld shut = true) ∧
    ((∀ b < 16, ((at_ open_).burst open_ b 0).2 = false) ∧ (sick.burst open_ 0 0).2 = true ∧ job.deferred = none ∧ job.cancelled = false) ∧
    (open_.lc.toNat + 1 < (2 : BitVec 8).toNat ∧ (1 : BitVec 8).toNat ≤ open_.lc.toNat + 1) ∧
    ((queued open_).runningMicro = some (job, open_) ∧ open_.suspended = false ∧
      (queued { shut with ran := true }).runningMicro = some (job, { shut with ran := true }) ∧
      (queued { shut with ran := true }).hbm.waiting.filter (fun w => w.1 == shut.pc) ≠ []) := by decide +kernel

/-- A request of the firing for the COMMONS. -/
def amo (id : Nat) (op : BitVec 4) : Req :=
  { id := id, src := fetchSlot, chainId := 1, ctx := 0, seq := BitVec.ofNat 20 id, home := .tile 0, kind := .amo op false (tileKey 0 0x1000) 0 7 0, rd := some 5,
    tindex := 1 }

theorem hyp_AtomicsAsk :
    let s := titled.withTitle 1 commons { sramEntry with kind := 3 }
    let full : State := { s with reqs := (List.range 16).map (fun n => amo n 0) }
    let ordered : State := { s with reqs := [{ amo 0 0 with ord := true }] }
    s.Ready [5, 6] ∧ (s.ctxOf s.cur).rerun = 0 ∧ ((s.me.kr 1).img = commons ∧ (s.me.kr 1).locked = false ∧ commons.rights.getLsbD 2 = true ∧
      commons.rights.getLsbD 4 = true ∧ commons.len ≠ 0 ∧ gives (s.homeOf s.cur commons 0) (· == (.tile 0, tileKey 0 0x1000, 0, s)) = true) ∧
    ((s.amosOf s.cur).length = 0 ∧ (full.amosOf full.cur).length = 16 ∧ (ordered.amosOf ordered.cur).any Req.ord = true) ∧
    ((titled.me.kr 1).img.kind = 1 ∧ ({ commons with rights := 0b00010 } : Title).rights.getLsbD 2 = false) :=
  ⟨ready_of (by decide +kernel), by decide +kernel⟩

/-- A request at its home: new, stored in the filter, a replay that is not; WAITGE that holds, parks, and finds 256 parked, of a slot that waits and one that
does not; a wait that an ADD wakes; an object in HBM, sound and poisoned; a request and a reply on their way; the reply with and without a slot
that waits; a request at 50 µs after 7 and 8 resends; an answer not-parked. -/
theorem hyp_AtomicsServed :
    let s := fun (r : Req) => ({ titled with reqs := [r], nextId := 100 } : State)
    let filter : HomeState := { home := .tile 0, filters := [⟨SlotId_num fetchSlot, [(1, 9, .none)]⟩] }
    let full : HomeState := { home := .tile 0, parks := List.replicate 256 ⟨50, 0, 0, 0, false, 0⟩ }
    let sleeper : HomeState := { home := .tile 0, parks := [⟨50, 0, 0, tileKey 0 0x1000, false, 7⟩] }
    let known : State := { s (amo 1 0) with homes := [filter] }
    let wakes : State := { s (amo 1 0) with homes := [sleeper], reqs := [amo 1 0, { amo 50 12 with state := .parked }] }
    let waits : State := (s (amo 1 12)).setMe { titled.me with wait := some (.reply 1) }
    let far : Req := { amo 1 0 with home := .stack 0, kind := .amo 0 false (hbmKey 0 0x40 0) 0x40000 7 0 }
    let sick : State := { s far with units := [(hbmKey 0 0x40 0 / 64, { poison := true })] }
    let away : Req := { amo 1 0 with packet := some 9 }
    let travels : State := { s away with links := [(1, { replay := [{ lsn := 0, cls := 0, group := 0, payload := [], ends := some { dst := 1, num := 9 } }] })] }
    let found := fun (u : State) (r : Req) (h : Home) (bad : Bool) => gives ((u.landed r).2.homeNow r (tileKey 0 0x1000) 0x40000) (fun x =>
      x.1 == h && decide (x.2.1 % 64 ≤ 56) && Memory_wf x.2.2.mem && decide (x.2.2.mem = u.mem) && x.2.2.hbmPoison x.2.1 8 == bad) = true
    ((∀ op ∈ [(0 : BitVec 4), 11, 12], (s (amo 1 op)).req? 1 = some (amo 1 op) ∧ ((s (amo 1 op)).home (.tile 0)).stored (SlotId_num fetchSlot) 1 = none ∧
        ((s (amo 1 op)).landed (amo 1 op)).1 = true ∧ found (s (amo 1 op)) (amo 1 op) (.tile 0) false) ∧
      (known.home (.tile 0)).stored (SlotId_num fetchSlot) 1 = some (9, .none) ∧ ({ amo 1 0 with replay := true } : Req).replay = true) ∧
    ((s far).req? 1 = some far ∧ found (s far) far (.stack 0) false ∧ found sick far (.stack 0) true) ∧
    ((wakes.home (.tile 0)).parks.map Parked.id = [50] ∧ (7 : Word).toInt ≤ (leWord (titled.bytes (tileKey 0 0x1000) 8) + 7).toInt ∧
      (wakes.req? 50).isSome = true) ∧
    (travels.landed away).1 = false ∧
    (leWord (titled.bytes (tileKey 0 0x1000) 8) = 0 ∧ ¬(7 : Word).toInt ≤ (0 : Word).toInt ∧ (({ s (amo 1 12) with homes := [full] } : State).home (.tile 0)).parks.length = 256) ∧
    (s (amo 1 0)).MemOk ∧ (titled.slot fetchSlot).ctx = 0 ∧ (titled.ctx 0).rerun = 0 ∧
    ((s { amo 1 0 with state := .replied 3 .poison }).me.wait ≠ some (.reply 1) ∧ (waits.slot fetchSlot).wait = some (.reply 1) ∧
      ({ amo 1 12 with state := .notParked, age := 1000 } : Req).state = .notParked ∧ ({ amo 1 12 with age := 50000, resends := 8 } : Req).age = 50000) := by
  unfold State.MemOk; decide +kernel


/-- Pool 0 of context 0 with one request of the firing; its title in k1. -/
def poolTitle : Title := { hbm with kind := 5, rights := 0b00110 }
def poolWord : Word := 0x0001000200010000
def pooled (h : Shard) (rs : List Req) : State :=
  let s := paged.withTitle 1 poolTitle { sramEntry with kind := 5, loc := 2, base := 0x20000, len := 32 }
  { s with pools := [(0, { configured := true, ctx := 0, title := poolTitle, word := poolWord, next := poolWord, shards := [(0, h)] })], reqs := rs, nextId := 100 }
def poolReq (k : ReqKind) : Req := { id := 1, src := fetchSlot, chainId := 1, ctx := 0, seq := 0, home := .shard 0 0, kind := k, tindex := 1 }
def elem : Elem := { key := 5, value := 6, title := none, stamp := 0 }
/-- A table of context 0 that serves every level of the low addresses: entry 0 points to itself, entry 32 is the leaf of the pool's storage. -/
def walked (s : State) (leaf : Word) : State :=
  ((s.modCtx 0 (fun c => { c with en := true, top := 0x100 })).setPte 0x100000 0x8000000000100000).setPte (0x100000 + 256) leaf

theorem hyp_PoolInstructions :
    let s := pooled {} []
    let nopool : State := { s with pools := [] }
    let full := pooled {} ((List.range 16).map (fun n => { poolReq (.insert 0 1 2 none) with id := n }))
    let give := (pooled {} []).withTitle 3 { sram with index := 5 } sramEntry
    let root := paged.withX 5 poolWord
    s.Ready [5, 6] ∧ root.Ready [5, 6] ∧ (s.ctxOf s.cur).rerun = 0 ∧ gives (s.poolCheck 1) (· == (0, poolTitle)) = true ∧ nopool.poolOf poolTitle = none ∧
    (s.placeFree s.cur = true ∧ full.placeFree full.cur = false ∧ s.outGranted s.cur = true ∧ s.poolBefore s.cur 0 s.nextId = false) ∧
    ((give.me.kr 3).img = { sram with index := 5 } ∧ (give.tte { sram with index := 5 }).shares = 0 ∧ give.openUnder give.cur { sram with index := 5 } = false ∧
      give.busyUnder give.cur { sram with index := 5 } = false) ∧
    ((s.me.kr 3).img.kind = 0 ∧ ((0x1FE0 : Word).toNat % 8 = 0 ∧ (0x1FE0 : Word).toNat + 32 ≤ 0x2000)) ∧
    ((s.tile 0).entries.any (fun e => e.2.valid && e.2.ctx == 0 && e.1 == 0) = true ∧ cfgOk poolWord = true ∧ cfgOk 0 = false) ∧
    ((root.me.kr 1).img = hbm ∧ hbm.rights = 0b11010 ∧ hbm.len.toNat % 8 = 0 ∧ root.poolsOf 0 < (root.ctx 0).poolGrant ∧ root.freePool = some 0 ∧
      gives (root.titleProbe root.cur hbm 0 .write) (fun _ => true) = true ∧ gives (root.poolWorld hbm) (fun _ => true) = true ∧ root.busyUnder root.cur hbm = false ∧
      gives (root.scanWB 0 0 1) (fun _ => true) = true) ∧
    (let cut : State := { walked s 0x83FF0000002000B8 with hbm := { s.hbm with liveCap := 0x180000 } }
     cut.poolOf poolTitle = some 0 ∧ cut.walk 0 0x20000 = .leaf 0x83FF0000002000B8 (0x100000 + 256) ∧ ptePeer 0x83FF0000002000B8 = 0x3FF ∧
     cut.hbm.liveCap.toNat ≤ pteAddr 0x83FF0000002000B8 ∧ pteAddr 0x83FF0000002000B8 < hbmEnd) ∧
    (let give := (pooled {} []).withTitle 3 { hbm with index := 5 } sramEntry
     (give.me.kr 3).img = { hbm with index := 5 } ∧ give.busyUnder give.cur { hbm with index := 5 } = false ∧ gives (give.scanWB 0 0 5) (fun _ => true) = true) ∧
    ((s.ctxOf s.cur).func = 0 ∧ (s.pool 0).configured = true ∧ (s.pool 1).configured = false) :=
  ⟨ready_of (by decide +kernel), ready_of (by decide +kernel), by decide +kernel⟩

/-- An insert at an open shard, at a full one, held, refused and in the last round; a take of an element, of none, of a spilled one, and resent;
a steal and its batch; each phase of a turn; a transfer. -/
theorem hyp_PoolsServe :
    let ins := poolReq (.insert 0 7 8 none)
    let take := poolReq (.take 0 0x100 3)
    let s := pooled {} [ins]
    let after := pooled { phase := .cut } [ins]
    let last := pooled { round := 2 ^ 48 - 1 } [ins]
    let has := pooled { elems := [elem] } [take]
    let far := pooled { elems := [{ elem with place := some 0 }] } [take]
    let none_ := pooled {} [take]
    let steal := pooled { queue := [1] } [take]
    let lands := pooled { phase := .turned } [take]
    let ready := pooled { phase := .ready } []
    let cut := pooled { phase := .cut, reports := List.replicate 8 (0, 0, []) } []
    let with_ := fun (f : Pool → Pool) (u : State) => ({ u with pools := [(0, f (u.pool 0))] } : State)
    let full := with_ (fun q => { q with quota := 0 }) s
    let late := with_ (fun q => { q with sinceCut := 512 }) (pooled {} [])
    let batch : Transfer := { src := 1, dst := 0, elems := [elem], for_ := some 1 }
    let moving := with_ (fun q => { q with moving := [batch] }) lands
    (s.req? 1 = some ins ∧ s.poolBefore fetchSlot 0 1 = false ∧ (s.home (.shard 0 0)).stored (SlotId_num fetchSlot) 0 = none ∧
      (s.shard 0 0).parked = [] ∧ (s.shard 0 0).round < 2 ^ 48 - 1 ∧
      (s.shard 0 0).phase ≠ .cut ∧ ¬(s.pool 0).quota ≤ (s.shard 0 0).onChip ∧ (s.shard 0 0).inserts < 8191 ∧ (after.shard 0 0).phase = .cut) ∧
    ((full.pool 0).quota ≤ (full.shard 0 0).onChip ∧ ¬(last.shard 0 0).round < 2 ^ 48 - 1 ∧
      ({ ins with state := .notParked, sinceOffer := 256, sinceRefusal := 2000000 } : Req).state = .notParked) ∧
    ((has.shard 0 0).pick = some elem ∧ elem.spilled = false ∧ (far.shard 0 0).pick = some { elem with place := some 0 } ∧ (none_.shard 0 0).pick = none ∧
      (nextVictim (none_.shard 0 0) 0 []).isSome = true ∧ nextVictim (none_.shard 0 0) 0 [1, 2, 3, 4, 5, 6, 7] = none ∧
      (none_.pool 0).moving = [] ∧ ({ take with record := [1] } : Req).record ≠ []) ∧
    ((1 : Nat) ∈ (steal.shard 0 0).queue ∧ (steal.shard 0 0).phase = .normal ∧ nextVictim (steal.shard 0 0) 0 [] = some 1 ∧
      (steal.shard 0 1).phase = .normal ∧ take.poolNo = some 0) ∧
    (moving.batchPool 1 = some 0 ∧ (moving.pool 0).moving.find? (fun x => x.for_ == some 1) = some batch ∧ (moving.shard 0 0).phase ≠ .normal ∧
      (moving.shard 0 0).onChip + 1 < (moving.pool 0).quota) ∧
    (late.pool 0).turnDue = true ∧ ((lands.shard 0 0).phase = .turned ∧ (lands.pool 0).moving = []) ∧
    ((ready.shard 0 0).phase = .ready ∧ (ready.shard 0 0).held = [] ∧ (ready.shard 0 0).onChip ≤ (ready.pool 0).quota) ∧
    ((cut.shard 0 0).phase = .cut ∧ 8 ≤ (cut.shard 0 0).reports.length ∧ (cut.shard 0 0).held = [] ∧ (cut.shard 0 0).parked = []) ∧
    (0 < cfgAlpha poolWord ∧ (far.pool 0).configured = true ∧ (far.shard 0 0).onChip < 3 * (far.pool 0).quota / 4 ∧
      (far.shard 0 0).elems.Nodup) := by decide +kernel

/-- What the pool engine moves: a record that is written, and read back, sound and poisoned, through the pool's own walk; the shard at its quota that spills for an
insert, and one that a refresh holds; a spilled element that comes back below three quarters of the quota, and one that a thief waits for; an engine that
awaits the answer of a retry record; requests of a pool drained since. -/
theorem hyp_PoolsServe_engine :
    let ins := poolReq (.insert 0 7 8 none)
    let at_ := fun (h : Shard) (n : Nat) => let s := walked (pooled h [ins]) 0x83FF0000000400B8
      ({ s with pools := [(0, { s.pool 0 with quota := n })] } : State)
    let away : Elem := { elem with place := some 0 }
    let tight := at_ { elems := [elem] } 1
    let held := fun (s : State) => ({ s with hbm := { s.hbm with rfm := (List.range 16).map (fun b => (0, pcOf 0x40, BitVec.ofNat 4 b)) } } : State)
    let idle := at_ { elems := [away] } 8
    let pauses := at_ { elems := [away], paused := some 3 } 8
    let sick : State := { idle with units := [(hbmKey 0 0x40 0 / 64, { poison := true })] }
    let robbed := idle.modShard 0 1 (fun _ => { elems := [away] })
    let access := fun (s : State) (write bad : Bool) => gives (s.poolAccess (s.pool 0) 0 ((s.pool 0).recordAddr 0 0) write) (fun x =>
      decide (x.1 % 64 ≤ 32) && Memory_wf x.2.2.mem && x.2.2.hbmPoison (x.1 / 64 * 64) 64 == bad) = true
    (ins.serial = (tight.pool 0).serial ∧ ({ ins with serial := 1 } : Req).serial ≠ (tight.pool 0).serial) ∧
    (1 ≤ (tight.shard 0 0).onChip ∧ ¬((tight.pool 0).quota ≤ (tight.shard 0 0).onChip ∧ (tight.pool 0).backing ≤ (tight.shard 0 0).spilledCount) ∧
      (tight.makeRoom 0 0 fetchSlot 1).1 = true ∧ ((held tight).makeRoom 0 0 fetchSlot 1).1 = false) ∧
    (access tight true false ∧ access idle false false ∧ access sick false true) ∧
    ((idle.shard 0 0).onChip < 3 * (idle.pool 0).quota / 4 ∧ (idle.shard 0 0).pick = some away ∧ (idle.shard 0 0).parked = [] ∧
      (idle.shard 0 0).paused = none ∧ (pauses.shard 0 0).paused ≠ none ∧ (at_ {} 8).shard 0 0 = {}) ∧
    ((robbed.shard 0 1).servable away = true ∧ (robbed.refillAll 0 1 fetchSlot [] 0 [away]).1 = true ∧
      ((held robbed).refillAll 0 1 fetchSlot [] 0 [away]).1 = false) := by decide +kernel

/-- An unscaled F view of an allotment of 1024 bytes, for a vector, a matrix and a running instruction; a free and a taken place at the unit. -/
def vectored : State := home.setMe { home.me with vw := startViews, slabLen := 1024 }
def unitOp (ins : Instr) : UnitOp :=
  { ord := 9, core := true, slot := 0, ctx := 0, insn := ins, vw := startViews, slabBase := 0, slabLen := 1024, sx := 0, lfsr := 0xACE1, vinBytes := none, rd := 5 }

theorem hyp_VectorInstructionsIssue :
    let s := vectored
    let ins : Instr := .vfadd .all 2 1 0
    let busy := s.modTile 0 (fun t => { t with vxu := { t.vxu with presented := [(true, 1)] } })
    let turn := s.modTile 0 (fun t => { t with vxu := { t.vxu with granted := some (true, 0) } })
    let odd := s.setMe { s.me with vw := s.me.vw.set 0 { (s.me.vw[0]) with d0 := (0x7F : Word) <<< 57 } }
    s.Ready [5] ∧ odd.Ready [5] ∧ fmtOf odd.me.vw[0].fmt = none ∧ fmtOf s.me.vw[0].fmt = some fmtF ∧
    (vshape fmtF ins).any (fun h => h.viewOk fmtF s.me.vw[0] && !h.srcs.contains 31 &&
      gives (s.vregions s.cur h fmtF s.me.vw[0]) (fun r => (s.tile 0).edgeFree true r.1 r.2 s.nextId) &&
      gives (s.vlist s.cur ins h s.me.vw[0]) (fun r => r.1.1.isNone && (r.2.tile 0).vxu.presented.isEmpty && (r.2.tile 0).vxu.granted.isNone) &&
      gives (turn.vlist turn.cur ins h turn.me.vw[0]) (fun r => (r.2.tile 0).vxu.granted == some (turn.cur.core, turn.cur.slot))) = true ∧
    ((vshape fmtF ins).any (fun h => !h.viewOk fmtF {})) = true ∧ (busy.tile 0).vxu.presented.any (fun x => x.1 == true) = true ∧
    (busy.tile 0).vxu.granted ≠ some (busy.cur.core, busy.cur.slot) :=
  ⟨ready_of (by decide +kernel), ready_of (by decide +kernel), by decide +kernel⟩

/-- A list of one record of two at the WHOLE in k1, named by a view; VOUTL from its record on, and beyond it; an H view that appends to it. -/
def listedView (fmt : BitVec 7) (scaled : Bool) : View :=
  { d0 := (fmt.setWidth 64 <<< 57) ||| (if scaled then 1#64 <<< 52 else 0) ||| (1#64 <<< 48), d1 := BitVec.ofNat 64 (512 * 2 ^ 32 + 2 ^ 18), d2 := 0, d3 := 0 }
def listed : State :=
  let s := home.withTitle 1 sram sramEntry
  (s.setMe { s.me with vw := startViews.set 0 (listedView 0 false), slabLen := 1024 }).store (tileKey 0 0x1000)
    (leBytes 8 1 ++ leBytes 8 2 ++ leBytes 4 70 ++ leBytes 4 0x3F800000)

theorem hyp_VectorInstructionsIssue_list :
    let far := listed.withX 5 1
    let half := listed.setMe { listed.me with vw := listed.me.vw.set 0 (listedView 1 false) }
    let opens := fun (s : State) (ins : Instr) (n : Nat) => (vshape fmtF ins).any (fun h => gives (s.vlist s.cur ins h s.me.vw[0]) (fun r =>
      r.1.1.any (fun l => decide (l.title.loc.toNat < 2) && l.count == 1) && r.1.2.length == n)) = true
    opens listed (.voutl 2 5) 1 ∧ opens far (.voutl 2 5) 0 ∧
    (vshape fmtH (.vfadd .all 2 1 0)).any (fun h => h.appends half.me.vw[0] && gives (half.vlist half.cur (.vfadd .all 2 1 0) h half.me.vw[0]) (fun r => r.1.1.isSome)) = true := by
  decide +kernel

/-- Every tree and every running value that the statements of the reductions and products speak of exists. -/
theorem hyp_trees {α : Type} (f : Nat → α) (g : α → α → α) (a : α) (h : Nat → α → α) :
    (∃ T : Nat → Nat → α, (∀ i, T 0 i = f i) ∧ ∀ l i, T (l + 1) i = g (T l (2 * i)) (T l (2 * i + 1))) ∧
    ∃ P : Nat → α, P 0 = a ∧ ∀ i, P (i + 1) = h i (P i) :=
  ⟨⟨fun l => Nat.rec f (fun _ t i => g (t (2 * i)) (t (2 * i + 1))) l, fun _ => rfl, fun _ _ => rfl⟩,
   ⟨fun i => Nat.rec a (fun i p => h i p) i, rfl, fun _ => rfl⟩⟩

/-- A converting operation on scaled H lanes that appends to a list of tile SRAM, one from vin, an outlier read, and reductions with a result due. -/
theorem hyp_VectorUnitResults_formats :
    let l : OutList := { title := sram, off := 0, d0 := 1, d1 := 2 }
    let op := fun (ins : Instr) => { unitOp ins with vw := startViews.set 0 (listedView 1 true), mask := List.replicate 256 1, list := some l }
    let run := fun (o : UnitOp) => listed.modTile 0 (fun t => { t with vxu := { t.vxu with running := some o } })
    let vin_ := { op (.vfabs .all 2 31) with vinBytes := some (List.replicate 256 7), vw := startViews.set 0 (listedView 0 false), list := none }
    let red := { op (.vredf .all 5 1 .sum) with list := none }
    let owed := (run red).setMe { listed.me with due := listed.me.due.set 5 (some 9) }
    let views := slabKey 0 (256 * 2)
    ((∀ ins ∈ [Instr.vfadd .m1z 2 1 0, .vfmax .all 2 1 0, .vfrcp .all 2 1, .vcvt 0b1001100 .all 2 1, .vscan .all 2 1 .sum],
        ((run (op ins)).tile 0).vxu.running = some (op ins)) ∧ (op (.vfadd .all 2 1 0)).mask.length = 256 ∧
      fmtOf (op (.vfadd .all 2 1 0)).vw[0].fmt = some fmtH ∧ fmtH.mayScale = true ∧ fmtH.isF = true ∧ fmtI8.isI = true ∧ (fmtOf 0b1001100).isSome = true) ∧
    (vin_.vinBytes.map List.length = some 256 ∧ fmtOf vin_.vw[0].fmt = some fmtF ∧ vin_.vw[0].stride ≠ 0 ∧ vin_.vw[0].ovf = 0) ∧
    (l.title.loc.toNat < 2 ∧ tileKey 0 0x1000 + 16 + 8 * l.cap ≤ views ∧ views + 256 ≤ slabKey 0 (512 + 256 * 2)) ∧
    ((owed.slot fetchSlot).due[5] = some 9 ∧ red.ord = 9 ∧ red.rd = 5 ∧ red.list = none) ∧ listed.late = [] := by decide +kernel

theorem hyp_VectorUnitResults :
    let run := fun (ins : Instr) (fmt : BitVec 7) => vectored.modTile 0 (fun t => { t with vxu := { t.vxu with
      running := some { unitOp ins with vw := startViews.set 0 (viewOf fmt 1), mask := List.replicate 256 1 } } })
    let line := vectored.modTile 0 (fun t => { t with vxu := { t.vxu with presented := [(true, 0)] } })
    let owed := (run (.vmovx 5 1 6) 5).setMe { home.me with due := home.me.due.set 5 (some 9) }
    (((run (.vfadd .m1 2 1 0) 0).tile 0).vxu.running.any (fun o => o.insn == .vfadd .m1 2 1 0 && o.list.isNone && o.vw[0].fmt == 0 && !o.vw[0].scaled &&
      o.vw[0].rnd == 0 && o.mask.length == 256) = true ∧ ((run (.viadd .m0z 2 1 0) 5).tile 0).vxu.running.any (fun o => o.vw[0].fmt == 5) = true) ∧
    (run (.vfadd .m1 2 1 0) 0).late = [] ∧ ((line.tile 0).vxu.running = none ∧ (line.tile 0).vxu.granted = none ∧ (line.tile 0).vxu.presented = [(true, 0)]) ∧
    (owed.slot fetchSlot).due[5] = some 9 ∧ vectored.MemOk :=
  ⟨by decide +kernel, by decide +kernel, by decide +kernel, by decide +kernel, rfl⟩

theorem hyp_MatrixInstructionsIssue :
    let s := vectored.modTile 0 (fun t => { t with mxu := { t.mxu with claim := some 0 } })
    let full := s.modTile 0 (fun t => { t with mxu := { t.mxu with queue := List.replicate 5 (unitOp (.mzero 0)) } })
    let ask := vectored.modTile 0 (fun t => { t with mxu := { t.mxu with waiters := [0] } })
    let ins : Instr := .mma false 0 (.m 0) 1
    let p := mplan (Vector.replicate 4 {}) ins
    let q := mplan s.me.vw (.mzero 0)
    s.Ready [] ∧ vectored.Ready [] ∧ ({ vectored with cur := ⟨0, false, 0⟩ } : State).cur.core = false ∧ s.cur.core = true ∧
    (vectored.tile 0).mxu.claim ≠ some s.cur.slot ∧ (s.tile 0).mxu.claim = some s.cur.slot ∧ p.ok = false ∧
    (q.ok = true ∧ gives (s.planRegions s.cur (q.a.toList ++ q.b.toList ++ q.sa.toList ++ q.sb.toList)) (fun _ => true) = true ∧
      gives (s.planRegions s.cur q.w) (fun _ => true) = true ∧ gives (s.mlist s.cur s.me q) (fun r => r.1.1.isNone) = true) ∧
    (5 ≤ (full.tile 0).mxu.queue.length ∧ (s.tile 0).mxu.queue = [] ∧ (s.tile 0).mxu.running = none) ∧
    ((ask.tile 0).mxu.waiters = [0] ∧ (ask.tile 0).mxu.claim = none ∧ (ask.tile 0).mxu.running = none) :=
  ⟨ready_of (by decide +kernel), ready_of (by decide +kernel), by decide +kernel⟩

/-- The list of an MMA.O, of one record; a waiter whose context has a parked firing that holds the claim. -/
theorem hyp_MatrixInstructionsIssue_list :
    let s := listed.setMe { listed.me with vw := listed.me.vw.set 3 (listedView 0b1001100 false) }
    let parked := (vectored.modTile 0 (fun t => { t with mxu := { t.mxu with waiters := [0] } })).modCtx 0
      (fun c => { c with parked := [{ sid := ⟨0, true, 2⟩, slot := {}, matrix := some (Vector.replicate 4 [], 0) }] })
    gives (s.mlist s.cur s.me (mplan s.me.vw (.mmaO 0 (.m 0) 1))) (fun r => r.1.1.any (fun l => decide (l.title.loc.toNat < 2)) && r.1.2.length == 1) = true ∧
    ((parked.tile 0).mxu.waiters = [0] ∧ (parked.ctxOf ⟨0, true, 0⟩).parked.any (fun p => p.sid.tile == 0 && p.matrix.isSome) = true) := by decide +kernel

/-- A running product of tile views and of an accumulator that appends, MMA.O with a record, MMAI, MCVT with a list, and MTRN. -/
theorem hyp_MatrixResults_formats :
    let l : OutList := { title := sram, off := 0, d0 := 1, d1 := 2 }
    let vw := (((startViews.set 1 (listedView 0b1001100 true)).set 2 (listedView 0b1001100 true)).set 3 (listedView 0b1001100 true))
    let op := fun (ins : Instr) (o : Option OutList) => { unitOp ins with vw := vw, list := o, recs := [(70, 0x3F800000)] }
    let run := fun (o : UnitOp) => listed.modTile 0 (fun t => { t with mxu := { t.mxu with claim := some 0, running := some o } })
    let ints := { op (.mmai false 0 0 1) none with vw := (startViews.set 1 (viewOf 3 16)).set 2 (viewOf 3 16) }
    (∀ o ∈ [op (.mma false 0 (.m 0) 1) none, op (.mmaB16 true 0 (.m 0) 1) none, op (.mma false 0 (.c 1) 1) (some l), op (.mmaO 0 (.m 0) 1) none,
      op (.mcvt false true 0 1) (some l), op (.mtrn (.m 0) (.m 1)) none, ints], ((run o).tile 0).mxu.running = some o ∧ o.operands = none) ∧
    ((∀ j : Fin 4, j ≠ 0 → (fmtOf vw[j].fmt).any Fmt.mayScale = true) ∧ vw[1].ovf = 0 ∧
      vw[3].ovf = 0 ∧ vw[1].scaled = true) ∧
    (fmtOf ints.vw[1].fmt = some fmtI8 ∨ fmtOf ints.vw[1].fmt = some fmtN8) ∧ (fmtOf ints.vw[3].fmt).isSome = true ∧
    (l.title.loc.toNat < 2 ∧ tileKey 0 0x1000 + 16 + 8 * l.cap ≤ slabKey 0 0 ∧ slabKey 0 (512 * 8) ≤ slabKey 0 (512 + 4096)) ∧ listed.late = [] := by
  decide +kernel

theorem hyp_MatrixResults :
    let q := vectored.modTile 0 (fun t => { t with mxu := { t.mxu with claim := some 0, queue := [unitOp (.mzero 1)] } })
    let r := vectored.modTile 0 (fun t => { t with mxu := { t.mxu with claim := some 0, running := some (unitOp (.mstat true 5 1)) } })
    let owed := r.setMe { r.me with due := r.me.due.set 5 (some 9) }
    q.late = [] ∧ q.MemOk ∧ ((q.tile 0).mxu.running = none ∧ (q.tile 0).mxu.queue = [unitOp (.mzero 1)] ∧ (q.tile 0).flight = []) ∧
    ((unitOp (.mstat true 5 1)).list = none ∧ (unitOp (.mstat true 5 1)).operands = none ∧ (owed.slot fetchSlot).due[5] = some 9) ∧
    (fmtOf 3 = some fmtI8 ∧ fmtOf 1 = some fmtH ∧ fmtH.width = 16) :=
  ⟨by decide +kernel, rfl, by decide +kernel⟩

/-- A working group, one in training, the last one, one with 64 and with 65 failures; a flit at, before and after the expected number, and behind one
that is held; a packet home and one that a detour takes. -/
theorem hyp_LinksRecover :
    let s := fun (l : Link28) => ({ State.reset with links := [(8 * 0 + 1, l)] } : State)
    let trains : Link28 := ({} : Link28).setGroup 0 { training := true, next := 0xFFFE }
    let dead : Link28 := { groups := (List.range 52).map (fun n => (n, { lanes := 0, mask := 0, next := 0, training := n == 51 })) }
    let p : Packet := { dst := 1, flow := some (7, 3), cls := 0, bytes := [1] }
    let f : Flit := { lsn := 3, cls := 0, group := 0, payload := [1], ends := some p }
    let sends := s { expected := 3, next := 4, replay := [f] }
    let bad := fun (n : Nat) => ({} : Link28).setGroup 0 { fails := List.replicate n 1000000 }
    ((0 : BitVec 3) ≠ 1 ∧ ((s {}).link 0 1).state.toNat < 2 ∧ (((s {}).link 0 1).group 0).training = false ∧ (((s {}).link 0 1).group 0).lanes ≠ 0 ∧
      (((s {}).link 0 1).group 0).mask.getLsbD 15 = true ∧ ((1 : BitVec 16) ≠ 0 ∧ (List.replicate 256 (0 : Byte)).length = 256)) ∧
    (((s { expected := 3 }).link 0 1).expected ≤ 3 ∧ ¬((s { expected := 3 }).link 0 1).expected ≤ 2 ∧
      ∀ h ∈ ((s { expected := 3, held := [(4, [])] }).link 0 1).held, h.1 ≠ 3) ∧
    ((sends.link 0 1).replay = [f] ∧ f.ends = some p ∧ p.dst = 1 ∧ (sends.link 1 0).replay = [] ∧ sends.detour 0 1 = some 2 ∧
      find 0 ({ sends with board := { sends.board with arrived := [(7, 3)] } } : State).board.arrived 7 = 3) ∧
    ((([64, 65] : List Nat).map (fun n => (((s (bad n)).link 0 1).group 0).fails.countP (fun ns => ns ≤ 1000000))) = [64, 65]) ∧
    ((((s trains).link 0 1).group 0).training = true ∧ 0 < ((s trains).link 0 1).live) ∧
    ((((s dead).link 0 1).group 51).training = true ∧ (((s dead).link 0 1).setGroup 51 { lanes := 0 }).live = 0) := by decide +kernel

/-- A port that fails beside others and the last one; a message next of its flow, one ahead of its turn with its predecessor, and one refused; a write and
a copy that await the peer, and an atomic; memory here in HBM and beyond it. -/
theorem hyp_PortsAndGateway :
    let req := fun (k : ReqKind) => ({ id := 1, src := fetchSlot, chainId := 1, ctx := 0, seq := 0, home := .peer 2, kind := k, rd := some 5, tindex := 1 } : Req)
    let r := req (.amo 0 false 0 0 7 0)
    let s : State := { home.setMe { home.me with wait := some (.reply 1) } with
      reqs := [r], gateway := { home.gateway with ports := (Vector.replicate 8 0).set 0 1 } }
    let h : Word := header 0 0 0 0x3FF 0 0 0 0
    let m : Msg := { hdr := header 0 0 0 2 0 0 0 0, ctx := 0 }
    let full := home.modChan 0 0 (fun k => { k with recs := List.replicate 24 { msg := {} }, onChip := 16 })
    let takes := fun (u : State) => match u.arriveAt 0 m with
      | .accepted _ => true
      | _ => false
    (({ home with gateway := home.gateway.loses 15 } : State).livePorts ≠ [] ∧ ({ s with gateway := s.gateway.loses 0 } : State).livePorts = []) ∧
    (r.isCopy = false ∧ (s.slot r.src).wait = some (.reply 1) ∧ s.tiles.all (fun e => e.2.outbox.isEmpty) = true) ∧
    ((2 : BitVec 10) ≠ home.board.accelId ∧ home.portLive 0 = true ∧ home.unitAdmits (.port 0) false = true ∧ s.req? 1 = some r ∧ r.isAmo = true) ∧
    (hdrSeq h = 0 ∧ find 0 home.gateway.expected (flowKey 2 0 0 (hdrChan h)) = 0 ∧ takes home = true ∧ takes full = false ∧ home.gateway.early = [] ∧
      ([1, 0x7FFFF] : List (BitVec 20)).all (fun q => q.toNat != 0 && (q - BitVec.ofNat 20 0).toNat < 2 ^ 19) = true ∧ 2 ^ 19 ≤ ((0x80000 : BitVec 20) - BitVec.ofNat 20 0).toNat) ∧
    ((req (.remoteWrite 2 0 [1] false)).state = .sent ∧ (req (.titleCopy 1 0 [] false)).home = .peer 2) ∧
    (home.regionWorld 0 = false ∧ home.regionWorld hbmEnd = false ∧ 0 < hbmEnd ∧ gives (home.request { die := 0 } 0 0) (fun _ => true) = true) ∧ home.MemOk :=
  ⟨by decide +kernel, by decide +kernel, by decide +kernel, by decide +kernel, by decide +kernel, by decide +kernel, rfl⟩

/-- What a peer's read, write and atomic meet at port 0: memory that takes the request, sound and poisoned, memory that keeps it waiting, and memory that is
withdrawn; the filter with a stored result and without; a park list with room and full; memory beyond HBM. -/
theorem hyp_PortsAndGateway_memory :
    let src : Nat := (2 + 1) * 8192 + 5
    let h : HomeState := { home := .stack 0, filters := [⟨src, [(1, 9, .none)]⟩], parks := List.replicate 256 ⟨50, 0, 0, 0, false, 0⟩ }
    let asks := fun (s : State) (p : Nat × State → Bool) => gives (s.request { die := (0 : BitVec 4).extractLsb' 1 3 } 0 0x40000) p = true
    let sick : State := { home with units := [(hbmKey 0 0x40 0 / 64, { poison := true })] }
    let held : State := { home with hbm := { home.hbm with rfm := (List.range 16).map (fun b => (0, pcOf 0x40, BitVec.ofNat 4 b)) } }
    let gone : State := { home with hbm := { home.hbm with liveCap := 0x40000 } }
    let waits := fun (s : State) => match s.request { die := 0 } 0 0x40000 with
      | .error (.wait _) => 1
      | .error (.trap _) => 2
      | .ok _ => 0
    (asks home (fun r => decide (r.1 % 64 ≤ 56) && Memory_wf r.2.mem && !r.2.hbmPoison r.1 8 && (r.2.home (.stack (BitVec.ofNat 4 (r.1 / 2 ^ 36)))).stored src 2 == none) ∧
      asks sick (fun r => r.2.hbmPoison r.1 8) ∧ waits held = 1 ∧ waits gone = 2) ∧
    ((({ home with homes := [h] } : State).home (.stack 0)).stored src 1 = some (9, .none) ∧ (({ home with homes := [h] } : State).home (.stack 0)).parks.length = 256 ∧
      (home.home (.stack 0)).parks.length < 256) ∧
    (home.regionWorld 0x40000 = false ∧ 0x40000 % 64 = 0 ∧ hbmEnd ≤ hbmEnd ∧ home.regionWorld hbmEnd = false) := by decide +kernel

/-- A window with one descriptor to tile 0, channel 0, kind 0, no payload; a stored launch at 255 and 256 cycles. -/
theorem hyp_LaunchWindow :
    let f : Func := { lwEn := true, lwTail := 1 }
    let s := ((home.setFunc 0 f).store (hostKey 0) (wordsBytes [1 <<< 45, 0]))
    let d := descriptorOf (dwords 8 (s.bytes (hostKey 0) 64))
    let x : Stored := { tile := 0, msg := {}, refused := true, sinceOffer := 256, sinceRefusal := 2000000 }
    ((s.func 0).lwEn = true ∧ (s.func 0).lwTail ≠ (s.func 0).lwHead ∧ (s.func 0).store.length < 64 ∧ (home.func 0).lwEn = false) ∧
    (d.reservedOk = true ∧ d.inl = true ∧ (hdrKind d.hdr).toNat < 2 ∧ (hdrLen d.hdr).toNat = 0 ∧ ((s.tile d.tile).owner (hdrChan d.hdr)).isSome = true ∧
      (s.tile d.tile).inService = true ∧ (s.ctx d.ctx).state ≠ 0 ∧ (s.ctx d.ctx).func = 0 ∧ (s.ctx d.ctx).rerun ≠ 2) ∧
    ((match s.arriveAt d.tile {} with | .accepted _ => true | _ => false) = true) ∧
    (256 ≤ x.sinceOffer ∧ 2000000 ≤ x.sinceRefusal ∧ ((home.setFunc 0 { f with store := [x] }).func 0).store[0]? = some x) := by decide +kernel

theorem hyp_RegistersTakeWrites :
    let idle := home.setSlot fetchSlot {}
    let gate := idle.modCtx 0 (fun c => { c with gateAdmitted := true })
    let shown : State := { home with board := { home.board with hostVisible := [(hbmEnd, hbmEnd + 4096)] } }
    ((gate.ctx (gate.entry 0 0).ctx).gateAdmitted = true ∧ gate.entryIdle 0 0 = true ∧ (home.ctx (home.entry 0 0).ctx).gateAdmitted = false ∧
      home.entryIdle 0 0 = false) ∧
    (1024 ≤ (1024 : Word).toNat % 2 ^ 32 ∧ (1023 : Word).toNat % 2 ^ 32 < 1024) ∧
    ((hbmEnd, hbmEnd + 4096) ∈ shown.board.hostVisible ∧ hbmEnd ≤ hbmEnd + 4095 ∧ hbmEnd + 4095 < hbmEnd + 4096 ∧ 0xBFFFFFFFFF < hbmEnd) ∧
    (0x010 : BitVec 12) ∉ [0x000, 0x008, 0x018, 0x100, 0x108, 0x110, 0x120] ∧ home.MemOk :=
  ⟨by decide +kernel, by decide +kernel, by decide +kernel, by decide +kernel, rfl⟩


/-- An image whose first region holds every address, and the same with that region split at 4096. -/
def image (signed monitor : Bool) : BootImage :=
  { firmware := ⟨0, 1⟩, firmwareSigned := signed, monitor := ⟨0, 2⟩, monitorSigned := monitor, liveMask := 0xFFFF, accelId := 5, outOfService := []
    withdrawnLinks := [(0, 1)], secureClusters := [], secureUnits := [], hostVisible := [], shrinkTimeoutMs := 100
    regions := (0, 2 ^ 48, false) :: List.replicate 63 (2 ^ 48, 2 ^ 48, false) }

/-- The regions cover each address once; 63 of them, a base that is not aligned, two that meet, or a gap are refused. -/
theorem test_regions :
    let rest := List.replicate 62 ((2 ^ 48, 2 ^ 48, false) : Nat × Nat × Bool)
    regionsOk (image true true).regions = true ∧ regionsOk ((0, 4096, false) :: (4096, 2 ^ 48, true) :: rest) = true ∧
    (regionsOk ((image true true).regions.drop 1) = false ∧ regionsOk ((0, 4000, false) :: (4000, 2 ^ 48, true) :: rest) = false ∧
      regionsOk ((0, 8192, false) :: (4096, 2 ^ 48, true) :: rest) = false ∧ regionsOk ((0, 4096, false) :: (8192, 2 ^ 48, true) :: rest) = false) := by
  decide +kernel

theorem hyp_BoardEvents :
    let b := home.board
    let loaded : Board := { b with image := some (image true true) }
    (Instr.powerGood (.start (image true true))).wf = true ∧
    ((image false true).firmwareSigned = false ∧ ((image true false).firmwareSigned = true ∧ (image true false).monitorSigned = false)) ∧
    ((image true true).firmwareSigned = true ∧ (image true true).monitorSigned = true) ∧ (b.image = none ∧ loaded.image = some (image true true)) ∧
    (State.reset.board.ready = false ∧ b.ready = true ∧ b.nextMeasure ≤ 7 ∧ ({ b with nextMeasure := 8 } : Board).nextMeasure > 7) ∧
    (b.spdm < 1 ∧ b.spdm < 3 ∧ ({ b with spdm := 3 } : Board).spdm = 3) ∧
    (b.overPower = false ∧ 1000000 ≤ b.sinceClock[(0 : Fin 8)] ∧ b.powerLimit < b.powerLimit + 1 ∧ 1000000 ≤ b.sinceReport ∧
      ({ b with sinceReport := 999999 } : Board).sinceReport < 1000000) ∧
    ((0 : BitVec 3) ≠ 7 ∧ (94 < 95 ∧ 100 ≤ 100 ∧ 110 ≤ 110 ∧ 1600 ≤ 3200)) := by decide +kernel

/-- A table that serves every level of addresses below 2 MiB: entry 0 points to itself, entry 16 is the leaf of the code page. -/
def tabled : State := ((home.modCtx 0 (fun c => { c with en := true, top := 0x100, landing := [⟨0, 2, 3⟩] })).setPte 0x100000
  (0x8000000000100000)).setPte (0x100000 + 128) (0x83FF0000000000A8)

def request : CtxRequest := ⟨7, false, 3, 1, 0, 0, 0, 0x1000, 0x2000, 0x200, 1024, 0, 4, 0, false, [], []⟩

theorem hyp_ContextsComeAndGo :
    let s := home.modDomain 3 (fun d => { d with live := true })
    let stopping := (home.modCtx 0 (fun c => { c with state := 2 })).setSlot fetchSlot {}
    let saved := stopping.modCtx 0 (fun c => { c with state := 3 })
    home.MemOk ∧ s.createOk request = true ∧ (home.ctx 0).state = 1 ∧ (home.ctx 7).state = 0 ∧
    ((stopping.ctx 0).state = 2 ∧ (stopping.ctx 0).killed = false ∧ stopping.slots.all (fun e => !(e.2.busy && e.2.ctx == 0)) = true ∧ stopping.jobs = [] ∧
      (stopping.ctx 0).parked = [] ∧ (stopping.ctx 0).saved.cells = []) ∧
    ((saved.ctx 0).state = 3 ∧ home.endable 0 = false ∧ stopping.endable 0 = true) ∧
    ((s.domain 3).live = true ∧ (s.domain 4).live = false ∧ s.ctxs.all (fun e => e.2.state == 0 || e.2.domain != 3) = true) :=
  ⟨rfl, by decide +kernel⟩

/-- A graph of one word of code with one handler on tile 0 and one HBM title, and the same with its entry beyond the code; a ring of two packages. -/
def graph (entry : BitVec 56) : Graph :=
  { ctx := 0, codeLo := 0x10000, codeHi := 0x10004, code := [0x13], handlers := [⟨none, [0], 2, true, none, none, 1, 0, 0, 1, 16, 16, entry, 0x10000, 1024, none⟩]
    chans := [], titles := [], landing := [], spawnQueue := 64 }
def windowed : Graph := { graph 0x10000 with titles := [⟨.hbm, 0x20000, 257, 0, 0, false, false, false, []⟩] }

theorem hyp_GraphsLoad :
    let pod : PodLoad := { pod := [tabled.board.accelId, 5], window := none, refused := false }
    (¬(({ graph 0x10000 with landing := [⟨3, 1, 1⟩, ⟨3, 2, 1⟩] } : Graph).landing.map LandingSpec.tile).Nodup) ∧
    (tabled.load (graph 0x10000) none).isSome = true ∧ (tabled.load (graph 0x10004) none).isNone = true ∧
    (2 ≤ pod.pod.length ∧ pod.pod.length ≤ 1024 ∧ pod.pod.Nodup ∧ tabled.board.accelId ∈ pod.pod ∧ pod.refused = false) ∧
    ((tabled.podWindow windowed pod.pod 0).map (fun w => (w.base, w.len)) = some (0x20000 + 2 ^ 36, 512)) := by decide +kernel

/-- A message to channel 0 with room on chip, in a full channel with 8 ring places, as its own and as another's, and against the gate; refused at 255 and 256
cycles; a slot in line; a POST held; a message to another die before it sets out, on its way, and there. -/
theorem hyp_MessagesArrive :
    let c : Copy := { tile := 0, hdr := 0 }
    let out := fun (s : State) (b : OutBuf) => s.modTile 0 (fun t => { t with outbox := [(3, b)] })
    let b : OutBuf := { copies := [c] }
    let s := out home b
    let full := s.modChan 0 0 (fun k => { k with recs := List.replicate 24 { msg := {} }, onChip := 16 })
    let gate := s.modEntry 0 0 (fun e => { e with gateOn := true, gkey := 9 })
    let line := home.modTile 0 (fun t => { t with outWaiters := [(true, 0)] })
    let post := out home { b with departed := false }
    let far : Copy := { c with tile := 128, packet := some 1 }
    let two := out (home.modTile 128 (fun _ => home.tile 0)) { b with copies := [far] }
    let away := two.modLink 0 1 (fun l => { l with replay := [{ lsn := 0, cls := 0, group := 0, payload := [], ends := some { dst := 1, num := 1 } }] })
    let there : State := { two with board := { two.board with home := [1] } }
    ((s.buffer 0 3).copyFor 0 = some c ∧ b.msg.titles = [] ∧ b.element = none ∧ ((s.tile 0).owner 0).isSome = true ∧ (s.ctx 0).rerun ≠ 2 ∧
      s.heldBack 0 b 0 0 = false ∧ b.peer = 0x3FF ∧ b.departed = true ∧ b.forJob = false ∧ s.reach (dieOf 0) (dieOf 0) = true) ∧
    ((s.chan 0 0).onChip < (s.chan 0 0).cap ∧ (full.chan 0 0).onChip = (full.chan 0 0).cap ∧
      (full.chan 0 0).ring - ((full.chan 0 0).recs.length - (full.chan 0 0).onChip) = 8 ∧ hdrPeer c.hdr ≠ 0x3FF ∧
      hdrPeer (0x3FF#64 <<< 36) = 0x3FF ∧ hdrKind (3#64 <<< 62) = 3) ∧
    (hdrKey c.hdr ≠ (gate.entry 0 0).gkey ∧ (gate.entry 0 0).gateOn = true) ∧
    (256 ≤ ({ c with refused := true, sinceOffer := 256, sinceRefusal := 2000000 } : Copy).sinceOffer ∧ home.outFree 0 > 0 ∧
      (line.tile 0).outWaiters = [(true, 0)]) ∧
    ((post.buffer 0 3).departed = false ∧ post.anyPending 0 (post.buffer 0 3).waits = false) ∧
    (dieOf 0 ≠ dieOf 128 ∧ two.reach (dieOf 0) (dieOf 128) = true ∧ (two.buffer 0 3).copyFor 128 = some far ∧ ((two.tile 128).owner 0).isSome = true ∧
      two.heldBack 0 { b with copies := [far] } 128 0 = false ∧ two.legOf (some 1) = .lost ∧ away.legOf (some 1) = .away ∧
      there.legOf (some 1) = .home) := by decide +kernel

/-- A walk that ends in the leaf, one in 0x30 and one whose table's bank is in refresh management, for a slot at its access, a scout, a job and a prefetch. -/
theorem hyp_WalksEnd :
    let w := fun (b : Walker) (va : Nat) => ({ ctx := 0, va := va, kind := .read, by_ := b } : Walk)
    let s := fun (x : Walk) => tabled.modCluster 0 (fun c => { c with walks := [x] })
    let pc : Word := 0x10000
    let sc : Scout := { x := Vector.replicate 32 0, pc := pc, unknown := 0, pages := [], count := 0, fault := {} }
    let held := fun (x : Walk) => ({ s x with hbm := { tabled.hbm with rfm := [(0, pcOf 0x100, bankOf 0), (0, pcOf 0x100, bankOf 128)] } } : State)
    let ends := fun (t : State) (a : Nat) (p : Except Stop (Word × Nat × State) → Bool) => p (t.walkBy { die := dieOfCluster 0 } 0 a) = true
    ((s (w (.slot fetchSlot pc) 0x10000)).cluster 0).walks[0]? = some (w (.slot fetchSlot pc) 0x10000) ∧
    (ends (s (w (.slot fetchSlot pc) 0x10000)) 0x10000 (fun r => match r with
        | .ok (l, a, _) => l == 0x83FF0000000000A8 && a == 0x100000 + 128
        | _ => false) ∧
      ends (s (w .prefetch 0x20000)) 0x20000 (fun r => match r with
        | .error (.trap y) => y.cause == 0x30
        | _ => false) ∧
      ends (held (w .prefetch 0x10000)) 0x10000 (fun r => match r with
        | .error (.wait _) => true
        | _ => false)) ∧
    (tabled.me.busy = true ∧ tabled.me.ctx = 0 ∧ tabled.me.pc = pc ∧ tabled.me.trap = none ∧ tabled.me.scout = none ∧ tabled.me.wait = none ∧
      tabled.me.ending = none ∧ tabled.me.handler = false) ∧
    ((tabled.setMe { tabled.me with scout := some sc }).me.scout = some sc ∧ sc.pc = pc) ∧ tabled.MemOk :=
  ⟨by decide +kernel, by decide +kernel, by decide +kernel, by decide +kernel, by unfold State.MemOk; decide +kernel⟩

/-- A page to migrate, at its threshold, at step 1 and after it; a range in use and one that is not; a page that is vacated for a retirement of stack 1. -/
theorem hyp_PageTablesChange :
    let leaf : Word := 0x88010000000000B8
    let counted : State := { tabled with board := { tabled.board with migCounts := [(firstReplica 4096 (0x100000 + 128), 2 ^ 15)] } }
    let s : State := { tabled with board := { tabled.board with migrations := [(0, 0x10000)] } }
    let m : Migrating := { ctx := 0, va := 0x10000, leaf := leaf, pa := 0x100000 + 128 }
    let later : State := { tabled with board := { tabled.board with migrating := [m] } }
    let peer := tabled.setPte (0x100000 + 128) leaf
    let old : Word := 0x83FF000000000098 ||| 0xC00000000
    let two : State := { tabled with hbm := { tabled.hbm with liveMask := 3, liveCap := BitVec.ofNat 40 (96 * 2 ^ 30), state := 1, target := 1 } }
    let going := two.setPte (0x100000 + 128) old
    tabled.MemOk ∧ tabled.hbm.state ≠ 2 ∧ tabled.tableAt 0x10000 0 4 0x100000 = some 0x100000 ∧ tabled.tableAt 0xFF000000000000 0 4 0x100000 = none ∧
    (tabled.hbm.nowPlace 0x100).isSome = true ∧ tabled.hbm.vacates 0x83FF0000000000A8 0x83FF0000000010A8 = false ∧
    (going.pteAt (0x100000 + 128) = some (old, false) ∧ going.hbm.vacates old 0x83FF0000002000A8 = true ∧ pteAddr old / 4096 < 12 * 2 ^ 20 * 2 ∧
      pteAddr old % 4096 = 0 ∧ pteAddr 0x83FF0000002000A8 = 0x200000 ∧ leafBytes (pteSize 0x83FF0000002000A8) = 4096 ∧
      (going.hbm.nowPlace (pteAddr old / 4096)).isSome = true ∧ (going.hbm.nowPlace 0x200).isSome = true) ∧
    tabled.usesRange 0 0x10000 0x11000 = false ∧ ((0, 0x10000) ∈ s.board.migrations ∧ s.board.migrating = []) ∧
    (peer.walk 0 0x10000 = .leaf leaf (0x100000 + 128) ∧ pteMode leaf = 2 ∧ ptePeer leaf = 1 ∧ leafBytes (pteSize leaf) = 4096 ∧ bits leaf 11 8 + 4 ≤ 15) ∧
    find 0 counted.board.migCounts (firstReplica 4096 (0x100000 + 128)) = 2 ^ 15 ∧
    (later.board.migrating.find? (fun m => m.ctx == 0 && m.va == 0x10000) = some m ∧ later.usesRange 0 0x10000 0x11000 = false ∧ (later.pteAt m.pa).isSome = true) ∧
    ((tabled.cluster 0).tlbFind 0 0x10000).isSome = true ∧ ((tabled.cluster 0).tlbFind 0 0x20000 = none ∧ (tabled.cluster 0).walks = []) :=
  ⟨by unfold State.MemOk; decide +kernel, by decide +kernel⟩

/-- A clean line, one masked in its first sector, one of a title's shadow and none; units without an error, with one symbol and with two in error, and a poisoned
one; a bank at its threshold, one that is due, and one whose pseudo-channel runs a microprogram. -/
theorem hyp_BaseDiesServe :
    let l : Line := { pa := 0x200, ctx := 0, index := 1, gen := 0, valid := 15 }
    let s := home.modCluster 0 (fun c => { c with lines := [l, { l with mask := 1 }, { l with pa := 2 ^ 40 }] })
    let b := bankIndex 0 0 0
    let warm : State := { home with hbm := { home.hbm with rfmThreshold := 4, actCounts := [(b, 3)] } }
    let hot : State := { home with hbm := { home.hbm with rfmBy := [(b, 0)] } }
    let rate := home.modDomain 0 (fun d => { d with actRate := 8 })
    let soon : State := { rate with hbm := { rate.hbm with sinceRefill := [(tokenKey 0 0, 999)] } }
    let part : Line := { l with mask := 1 }
    let full : Line := { l with mask := 2 ^ 64 - 1 }
    let ill := fun (u : Unit64) => ({ home with units := [(hbmKey 0 0 0 / 64, u)] } : State)
    let micro : State := { paged with grans := [granOf0 1], jobs := [{ tile := 0, num := 9, core := true, slot := 0, chainId := 1, ctx := 0, kind := .run, card := {},
                                                                        status := 1, gran := some 0x40 }] }
    ((home.hbm.nowPlace 0x20).isSome = true ∧ gives (home.request { die := 0 } 0 (0x200 * 256)) (fun _ => true) = true ∧ part.sectorMask 0 = 1 ∧
      full.sectorMask 0 = ~~~0 ∧ full.mask.toNat < 2 ^ 64 ∧ l.pa * 256 < hbmEnd) ∧
    (((ill {}).unit (hbmKey 0 0 0)).symbols = 0 ∧ ((ill { symbols := 1 }).unit (hbmKey 0 0 0)).symbols = 1 ∧
      ((ill { symbols := 2 }).unit (hbmKey 0 0 0)).symbols = 2 ∧ ((ill { poison := true }).unit (hbmKey 0 0 0)).poison = true ∧ hbmKey 0 0 0 % 64 = 0) ∧
    (gives (home.ordinary (pcNo 0 0) { die := 0 } (hbmEnd + b)) (fun _ => true) = true ∧
      gives (micro.ordinary (granOf0 1).pc { die := 0 } (hbmEnd + b)) (fun _ => true) = false) ∧
    ((s.cluster 0).lines[0]? = some l ∧ (s.cluster 0).lines[3]? = none ∧ l.dirty = false ∧ l.pa < 2 ^ 40 ∧ s.hbm.inWindow 0x20 = false ∧ s.hbm.state = 0) ∧
    gives (s.writeLine 0 part) (fun _ => true) = true ∧
    (warm.hbm.rfmThreshold ≠ 0 ∧ warm.hbm.rfmThreshold ≤ find 0 warm.hbm.actCounts b + 1 ∧ warm.hbm.rfmBy = []) ∧
    ((b, 0) ∈ hot.hbm.rfmBy ∧ hot.hbm.rfm = []) ∧
    ((home.domain 0).actRate = 0 ∧ (rate.domain 0).actRate ≠ 0 ∧ 1000 ≤ find 1000 rate.hbm.sinceRefill (tokenKey 0 0) ∧
      find 1000 soon.hbm.sinceRefill (tokenKey 0 0) < 1000) := by decide +kernel

/-- Retirement of stack 1 of two, in each of its states. -/
def retiring (st : BitVec 2) (wmark : BitVec 36) : State :=
  { home with hbm := { home.hbm with liveMask := 3, liveCap := BitVec.ofNat 40 (96 * 2 ^ 30), state := st, target := 1, confirmed := true, wmark := wmark,
                                      shrinkTimeoutMs := 1, sinceRequest := 1000000 } }

/-- A step that the microprograms of its pseudo-channels hold, and one that they let in; a translation above the new capacity, in use and not. -/
theorem hyp_StacksRetire :
    let moving := retiring 2 12582912
    let job : Job := { tile := 0, num := 9, core := true, slot := 0, chainId := 1, ctx := 0, kind := .run, card := {}, status := 1, gran := some 0 }
    let busy : State := { moving with grans := [{ granOf0 1 with g := 0, stack := 0, off := 0 }], jobs := [job] }
    ((retiring 0 0).hbm.state = 0 ∧ (retiring 0 0).hbm.liveMask.getLsbD 1 = true ∧ (liveOf (retiring 0 0).hbm.liveMask).length = 2 ∧
      (retiring 0 0).hbm.liveMask.getLsbD 2 = false) ∧
    ((retiring 1 0).hbm.state = 1 ∧ (retiring 1 0).hbm.confirmed = true ∧ ((retiring 1 0).leaveAbove (48 * 2 ^ 30)).usesAbove (48 * 2 ^ 30) = false ∧
      (retiring 1 0).hbm.shrinkTimeoutMs.toNat * 1000000 ≤ (retiring 1 0).hbm.sinceRequest) ∧
    ((retiring 2 512).hbm.state = 2 ∧ (retiring 2 512).hbm.wmark ≠ 0 ∧ (retiring 2 512).grans = []) ∧
    (busy.hbm.state = 2 ∧ busy.hbm.wmark ≠ 0 ∧ busy.grans.all (fun g => !g.rowOpen) = true ∧
      (busy.hbm.stepChannels 12582912).any (fun y => busy.microOn y && !busy.hbm.granted.contains (foehnAsks y)) = true) ∧
    ((retiring 2 0).hbm.wmark = 0 ∧ (retiring 2 0).hbm.requests = []) := by decide +kernel

theorem hyp_MigrationKeepsMemory :
    let s := retiring 2 12582912
    s.MemOk ∧ s.hbm.state = 2 ∧ s.hbm.wmark ≠ 0 ∧ (liveOf s.hbm.liveMask).length = 2 ∧ s.hbm.liveMask.getLsbD s.hbm.target.toNat = true ∧
    s.hbm.wmark.toNat ≤ 12 * 2 ^ 20 * 1 ∧ s.grans = [] ∧ (∀ y, s.microOn y = false) ∧ (s.hbm.nowPlace 0).isSome = true ∧ (s.hbm.nowPlace 12582911).isSome = true :=
  ⟨rfl, by decide +kernel, by decide +kernel, by decide +kernel, by decide +kernel, by decide +kernel, rfl, fun _ => rfl, by decide +kernel, by decide +kernel⟩

/-- Records in each queue; a staged entry, a log with room and a full one; a retry record for a waiting slot and for a job; an ended scout. -/
theorem hyp_ReportingEvents :
    let r : FaultRec := { cause := 0x30, core := true, seq := 7 }
    let retry : State := { home with rings := { home.rings with retryQ := [r] } }
    let term : State := { home with rings := { home.rings with termQ := [r] } }
    let func := home.modFunc 0 (fun f => { f with queue := [r], frEn := true })
    let e : LogEntry := { kind := 1, tile := 0, core := true, slot := 0, serial := 1, value := 0 }
    let staged := (home.modTile 0 (fun t => { t with staging := [(0, e)] })).modCtx 0 (fun c => { c with logCap := 1 })
    let waits : State := { home.setMe { home.me with wait := some (.retry 7) } with rings := { home.rings with retry := [r] } }
    let job : Job := { tile := 0, num := 9, core := true, slot := 0, chainId := 1, ctx := 0, kind := .copy, card := {}, status := 1, paused := some 7 }
    let paused : State := { home with rings := { home.rings with retry := [r] }, jobs := [job] }
    let sc : Scout := { x := Vector.replicate 32 0, pc := 0x10004, unknown := 0, pages := [], count := 0, fault := r, ended := true }
    home.MemOk ∧ (Ring.retry.order.find? home.ringPending = none ∧ Ring.retry.order.find? retry.ringPending = some .retry ∧
      Ring.retry.order.find? term.ringPending = some .terminal ∧ Ring.retry.order.find? func.ringPending = some .function ∧ func.nextFunc = some 0) ∧
    ((staged.tile 0).staging = [(0, e)] ∧ (staged.ctx 0).logStopped = false ∧ (staged.ctx 0).log.length < (staged.ctx 0).logCap) ∧
    (waits.rings.retry.find? (fun x => x.seq == 7 && x.tile == 0 && x.core == true && x.slot == 0) = some r ∧
      (waits.slot fetchSlot).wait = some (.retry 7)) ∧ waits.CanTrap fetchSlot ∧
    (paused.jobs.find? (fun x => x.src == fetchSlot && x.paused == some 7 && x.status.toNat < 3) = some job ∧ paused.job? 0 9 = some job) ∧
    (home.setMe { home.me with scout := some sc }).me.scout = some sc ∧ sc.ended = true ∧
    (let pool := pooled { paused := some 7 } []
     (pool.slot fetchSlot).wait ≠ some (.retry 7) ∧ pool.pausedJob fetchSlot 7 = none ∧ pool.pausedShard 7 = some (0, 0)) :=
  ⟨rfl, by decide +kernel, by decide +kernel, by decide +kernel, by unfold State.CanTrap; decide +kernel, by decide +kernel, by decide +kernel, by decide +kernel,
    by decide +kernel⟩

theorem hyp_DecodeEncodeRoundTrip : (Instr.addi 31 31 0xFFF).wf = true ∧ encode (.addi 31 31 0xFFF) = some 0xFFFF8F93 ∧ decode 0xFFFF8F93 = some (.addi 31 31 0xFFF) ∧
    (Instr.mac16 15 7 7 true).wf = true ∧ (encode (.mac16 15 7 7 true)).isSome = true ∧ decodeMicro 0x08000000 = some .act := by decide +kernel

/-- A turn of a slot, one of a microprogram, one of an event; a word at the end of the code, and a PC outside it. -/
theorem hyp_StepRunsDecoded :
    let s := State.reset.withFetchWord 32 0x13
    let u : State := { s with agenda := [], cur := fetchSlot, curJob := none }
    let m := State.reset.withFetchWord 32 0x08000000
    let two := (s.setSlot ⟨0, true, 2⟩ { s.slot fetchSlot with serial := 2 }).modTile 0 (fun t => { t with issueC := 1 })
    (s.board.stopped = false ∧ s.board.halted = false ∧ s.agenda = [.issue fetchSlot] ∧ (s.slot fetchSlot).busy = true ∧
      (s.slot fetchSlot).ending = none ∧ (s.slot fetchSlot).mayIssue = true ∧ (s.slot fetchSlot).scout = none ∧
      ({ s with agenda := [] } : State).inTurn fetchSlot = true ∧ ({ two with agenda := [] } : State).inTurn fetchSlot = false) ∧
    (gives (u.fetch fetchSlot) (fun r => decode r.1 == some (.addi 0 0 0)) = true ∧ decode 0 = none) ∧
    ((s.entryOf fetchSlot).holds 0x10FFC = true ∧ (s.entryOf fetchSlot).holds 0x11000 = false ∧ 0x10002 % 4 ≠ 0 ∧
      ((s.cluster 0).tlbFind 0 0x10FFC).any (fun e => e.xp && e.peer == 0x3FF && !e.aPending && e.pa + (0x10FFC - e.va) < s.hbm.liveCap.toNat) = true ∧
      s.regionWorld 0xFFC = (s.ctx 0).world ∧ gives (u.request { die := 0 } 0 0xFFC) (fun _ => true) = true ∧ s.hbmPoison 0xFFC 4 = false) ∧
    (m.agenda = [.micro 0 1] ∧ (({ m with agenda := [] } : State).microIssue 0 1).1 = some .act) ∧
    ((Instr.logDrain 0).wf = true ∧ encode (.logDrain 0) = none) := by decide +kernel

theorem hyp_OnlyStandstillStops :
    (State.reset.board.stopped = false ∧ State.reset.board.halted = false ∧ ∀ m rest, State.reset.agenda ≠ .unit (.powerGood (.start m)) :: rest) ∧
    regionsOk (image true true).regions = true ∧ ({ State.reset.board with image := some (image true true) } : Board).image = some (image true true) :=
  ⟨⟨rfl, rfl, fun _ _ h => by cases h⟩, by decide +kernel, rfl⟩

theorem hyp_MemoryStaysCanonical : ∃ t, home.MemOk ∧ exec .exit home = .next t := ⟨_, rfl, rfl⟩
theorem hyp_MemoryStaysCanonical_step : ∃ t, State.reset.MemOk ∧ step State.reset = .next t := ⟨_, rfl, rfl⟩
theorem hyp_PowerStaysInBounds : State.reset.PowerOk := by unfold State.PowerOk; decide +kernel


/-! ### One step -/

/-- The state after an instruction. -/
def after (i : Instr) (s : State) : State := match exec i s with
  | .next t => t
  | _ => s

/-- RISC-V: ADDI wraps; the immediate is sign-extended; x0 stays 0. -/
theorem test_addi_wraps : (after (.addi 5 6 1) (home.withX 6 (BitVec.allOnes 64))).me.xr 5 = 0 := by decide +kernel
theorem test_sltiu_extends_by_sign : (after (.sltiu 5 6 0xFFF) (home.withX 6 7)).me.xr 5 = 1 := by decide +kernel
theorem test_x0_stays : (after (.addi 0 0 1) home).me.xr 0 = 0 ∧ (after (.addi 0 0 1) home).me.pc = 0x10004 := by decide +kernel
theorem test_addiw_extends_by_sign : (after (.addiw 5 6 1) (home.withX 6 0x7FFFFFFF)).me.xr 5 = 0xFFFFFFFF80000000 := by decide +kernel
theorem test_srai_keeps_sign : (after (.srai 5 6 63) (home.withX 6 (BitVec.intMin 64))).me.xr 5 = BitVec.allOnes 64 := by decide +kernel
theorem test_sub_source_is_destination : (after (.sub 5 6 5) ((home.withX 5 3).withX 6 10)).me.xr 5 = 7 := by decide +kernel
/-- RISC-V: division by zero gives all ones, the remainder the dividend; the signed overflow gives the dividend and 0. -/
theorem test_div_by_zero : (after (.div 5 6 0) (home.withX 6 9)).me.xr 5 = BitVec.allOnes 64 ∧ (after (.remu 5 6 0) (home.withX 6 9)).me.xr 5 = 9 := by decide +kernel
theorem test_div_overflow : (after (.rem 5 6 7) ((home.withX 6 (BitVec.intMin 64)).withX 7 (BitVec.allOnes 64))).me.xr 5 = 0 := by decide +kernel
theorem test_mulhsu_mixed : (after (.mulhsu 5 6 7) ((home.withX 6 (BitVec.allOnes 64)).withX 7 2)).me.xr 5 = BitVec.allOnes 64 := by decide +kernel
/-- RISC-V: JALR clears bit 0 and writes the next address, also where its rd is its rs1. -/
theorem test_jalr : let t := after (.jalr 6 6 1) (home.withX 6 0x10020); t.me.pc = 0x10020 ∧ t.me.xr 6 = 0x10004 := by decide +kernel
theorem test_bltu_is_unsigned : (after (.bltu 6 7 8) ((home.withX 6 1).withX 7 (BitVec.allOnes 64))).me.pc = 0x10010 := by decide +kernel
/-- R94: little-endian in the slot's own region, and 0x37 one byte beyond it. -/
theorem test_store_little_endian : let t := after (.sw 6 7 0) ((home.withX 6 0x1FFC).withX 7 0x11223344)
    (t.byte (coreKey 0 true 0x1FFC) = 0x44 ∧ t.byte (coreKey 0 true 0x1FFF) = 0x11 ∧ t.byte (coreKey 0 true 0x2000) = 0) := by decide +kernel
theorem test_lb_extends_by_sign : (after (.lb 5 6 0) ((home.withX 6 0x10).store (coreKey 0 true 0x10) [0x80])).me.xr 5 = 0xFFFFFFFFFFFFFF80 := by decide +kernel
theorem test_load_beyond_region : let t := after (.lb 5 6 0) (home.withX 6 0x2000)
    (t.me.handler = true ∧ t.me.xr 10 = 0x37 ∧ t.me.xr 12 = 0x2000) := by decide +kernel
/-- R125, R172: ECALL enters the handler with a0 the cause, a1 the PC, a2 0 and sp at 0x400 of the region. -/
theorem test_ecall : let t := after .ecall home
    (t.me.handler = true ∧ t.me.xr 10 = 2 ∧ t.me.xr 11 = 0x10000 ∧ t.me.xr 12 = 0 ∧ t.me.xr 2 = 0x400 ∧ t.me.pc = 0x10000) := by decide +kernel
/-- R128: a fault in the handler ends the firing, with 0x74 on the terminal ring. -/
theorem test_fault_in_handler : let t := after .ebreak home.inHandler
    (t.me.ending = some .abandon ∧ t.rings.termQ.map FaultRec.cause = [0x74]) := by decide +kernel
/-- R212: SKIPF goes on behind the frame's PC. -/
theorem test_skipf : let t := after .skipf (home.setMe { home.me with handler := true, frame := { record := some {}, pc := 0x10040 } })
    (t.me.handler = false ∧ t.me.pc = 0x10044) := by decide +kernel
/-- R215: CHAIN 1, ENTRY 0, CTX 0, the C-core and slot 0. -/
theorem test_slotid : (after (.slotid 5) home).me.xr 5 = 1 * 2 ^ 22 + 1 * 2 ^ 2 := by decide +kernel
/-- R220: 257 bytes take two blocks, the lowest free ones: 4 and 5. -/
theorem test_tnew_rounds_up : let t := after (.tnew 3 2 5) (titled.withX 5 257)
    (t.me.xr 5 = 512 ∧ (t.me.kr 3).img.base = 0x1400 ∧ (t.me.kr 3).img.len = 2 ∧ t.arenaMap 0 2 = [(0, 4), (4, 2)]) := by decide +kernel
/-- R79, R222: a share of a WHOLE has RD and SEND of the mask at most, and is counted. -/
theorem test_tsplit_limits_rights : let t := after (.tsplit 3 1 0b11111) titled
    ((t.me.kr 3).img.kind = 2 ∧ (t.me.kr 3).img.rights = 0b10010 ∧ (t.tte sram).shares = 1) := by decide +kernel
/-- R209: SEM.P at 0 waits; SEM.V of another firing would hand it its unit. -/
theorem test_semP_waits : let t := after (.semP 3) home
    (t.me.pc = 0x10000 ∧ (t.tile 0).semWaiters = [(3, true, 0)]) := by decide +kernel
/-- R57: EXIT frees the slot. -/
theorem test_exit : (after .exit home).me.busy = false ∧ (after .exit home).me.serial = 1 := by decide +kernel
/-- R181: a matrix word on an S-core raises 0x00; R182: so does a word that decodes to nothing. -/
theorem test_matrix_on_s_core : let s : State := { (home.setSlot ⟨0, false, 0⟩ { busy := true, pc := 0x10000 }) with cur := ⟨0, false, 0⟩ }
    ((after (.mzero 0) s).me.handler = true ∧ (after (.mzero 0) s).me.xr 10 = 0) := by decide +kernel
theorem test_reserved_word_traps : (match step (State.reset.withFetchWord 32 0x0000700B) with
    | .next t => (t.slot fetchSlot).handler && (t.slot fetchSlot).xr 10 == 0
    | _ => false) = true := by decide +kernel
theorem test_step_runs_addi : (match step (State.reset.withFetchWord 32 0x00128293) with
    | .next t => (t.slot fetchSlot).xr 5 == 1 && (t.slot fetchSlot).pc == 0x10004
    | _ => false) = true := by decide +kernel
/-- R341, R344: the first micro-instruction of a run, ACT, opens the row. -/
theorem test_step_runs_act : (match step (State.reset.withFetchWord 32 0x08000000) with
    | .next t => t.grans.all Gran.rowOpen && t.grans.length == 1
    | _ => false) = true := by decide +kernel
/-- R40: 110 °C stops the package, and no later turn moves it. -/
theorem test_stopped : step { State.reset with board := { State.reset.board with stopped := true } } = .fault .packageStopped := by rfl
/-- FIPS 202 (NIST's published value): SHA3-256 of the empty message, first byte lowest. -/
theorem test_sha3_empty : leBytes 32 (sha3 []).toNat = [0xA7, 0xFF, 0xC6, 0xF8, 0xBF, 0x1E, 0xD7, 0x66, 0x51, 0xC1, 0x47, 0x56, 0xA0, 0x61, 0xD6, 0x62,
    0xF5, 0x80, 0xFF, 0x4D, 0xE4, 0x3B, 0x49, 0xFA, 0x82, 0xD8, 0x0A, 0x4B, 0x80, 0xF8, 0x43, 0x4A] := by decide +kernel
/-- R19: with 15 working lanes the second beat begins with byte 15; lane 0, out of the mask, carries 0. -/
theorem test_stripe : let bs := stripe 0xFFFE ((List.range 256).map (BitVec.ofNat 8))
    (bs.length = 18 ∧ (bs.getD 1 0).extractLsb' 0 16 = 0x0F00 ∧ (bs.getD 17 0).extractLsb' 8 8 = 255 ∧ (bs.getD 17 0).extractLsb' 16 8 = 0) := by
  decide +kernel
/-- R184: a pair at 8n whose second word reads nothing that the first writes issues in one turn; one that reads it takes two. -/
theorem test_pair_issues : (match step ((State.reset.withFetchWord 32 0x00128293).store 4 (leBytes 4 0x00130313)) with
    | .next t => (t.slot fetchSlot).xr 5 == 1 && (t.slot fetchSlot).xr 6 == 1 && (t.slot fetchSlot).pc == 0x10008
    | _ => false) = true := by decide +kernel
theorem test_pair_depends : (match step ((State.reset.withFetchWord 32 0x00128293).store 4 (leBytes 4 0x00128313)) with
    | .next t => (t.slot fetchSlot).xr 5 == 1 && (t.slot fetchSlot).xr 6 == 0 && (t.slot fetchSlot).pc == 0x10004
    | _ => false) = true := by decide +kernel

end Sys2Proof.Tests
end

section
/-! PROOF. Register writes of host and firmware, and CXL.mem (R4, R24 to R26, R45, R46, R111, R134, R135). -/

namespace Sys2Proof.Machine

/-! ### Tiles and their entries -/

theorem State.tile_modTile_ne (s : State) {t c : BitVec 10} (g : Tile → Tile) (h : c ≠ t) : (s.modTile t g).tile c = s.tile c :=
  s.tile_setTile_ne _ h

theorem State.tile_modEntry_ne (s : State) {t c : BitVec 10} (e : BitVec 6) (g : Entry → Entry) (h : c ≠ t) :
    (s.modEntry t e g).tile c = s.tile c :=
  s.tile_modTile_ne _ h

theorem State.entry_modEntry_ne (s : State) (t : BitVec 10) {e m : BitVec 6} (g : Entry → Entry) (h : m ≠ e) :
    (s.modEntry t e g).entry t m = s.entry t m := by
  have hn : m.toNat ≠ e.toNat := fun x => h (BitVec.eq_of_toNat_eq x)
  simp [State.entry, State.modEntry, Tile.entry, find_put_ne _ _ _ hn]

theorem mem_slotsOf {t : BitVec 10} {i : SlotId} : i ∈ slotsOf t ↔ i.tile = t := by
  obtain ⟨u, c, n⟩ := i
  have slots : ∀ (c : Bool) (n : BitVec 2), ∃ k < 8, decide (k ≥ 4) = c ∧ BitVec.ofNat 2 (k % 4) = n := by decide
  simp only [slotsOf, List.mem_map, List.mem_range, SlotId.mk.injEq]
  constructor
  · rintro ⟨-, -, rfl, -⟩
    rfl
  · rintro rfl
    obtain ⟨k, hk, hc, hn⟩ := slots c n
    exact ⟨k, hk, rfl, hc, hn⟩

/-- An entry is busy exactly where some slot of its tile runs it (R46). -/
theorem State.entryIdle_eq_false_iff (s : State) (t : BitVec 10) (e : BitVec 6) :
    s.entryIdle t e = false ↔ ∃ i : SlotId, i.tile = t ∧ (s.slot i).busy = true ∧ (s.slot i).entry = e := by
  simp [State.entryIdle, List.all_eq_false, mem_slotsOf]

/-! ### Fields of a function's registers (R26, R135) -/

theorem clampLog_ring (w : Word) : clampLog w 4 16 = BitVec.ofNat 5 (Nat.max 4 (Nat.min 16 (w.toNat % 32))) := by
  have hb : bits w 4 0 = w.toNat % 32 := by simp [bits]
  unfold clampLog
  simp only [hb]
  congr 1
  change _ = max 4 (min 16 (w.toNat % 32))
  split
  · omega
  · split <;> omega

/-- A ring's base is aligned to 64 bytes. -/
theorem and_not_63 (w : Word) : w &&& ~~~(0x3F#64) = BitVec.ofNat 64 (w.toNat / 64 * 64) := by
  have mask : ~~~(0x3F#64) = BitVec.allOnes 64 <<< 6 := by decide
  rw [mask, ← BitVec.shiftLeft_ushiftRight]
  apply BitVec.eq_of_toNat_eq
  simp [Nat.shiftRight_eq_div_pow, Nat.shiftLeft_eq]

theorem Func.setLwLog_eq (v : Func) (w : Word) : v.setLwLog w =
    { v with lwLog := if v.lwEn then v.lwLog else BitVec.ofNat 5 (Nat.max 4 (Nat.min 16 (w.toNat % 32))) } := by
  unfold Func.setLwLog
  rw [clampLog_ring]
  exact (apply_ite (fun x => { v with lwLog := x }) (v.lwEn = true) ..).symm

theorem Func.setLwBase_eq (v : Func) (w : Word) : v.setLwBase w =
    { v with lwBase := if v.lwEn then v.lwBase else BitVec.ofNat 64 (w.toNat / 64 * 64) } := by
  unfold Func.setLwBase
  rw [and_not_63]
  exact (apply_ite (fun x => { v with lwBase := x }) (v.lwEn = true) ..).symm

theorem Func.setFrLog_eq (v : Func) (w : Word) : v.setFrLog w =
    { v with frLog := if v.frEn then v.frLog else BitVec.ofNat 5 (Nat.max 4 (Nat.min 16 (w.toNat % 32))) } := by
  unfold Func.setFrLog
  rw [clampLog_ring]
  exact (apply_ite (fun x => { v with frLog := x }) (v.frEn = true) ..).symm

theorem Func.setFrBase_eq (v : Func) (w : Word) : v.setFrBase w =
    { v with frBase := if v.frEn then v.frBase else BitVec.ofNat 64 (w.toNat / 64 * 64) } := by
  unfold Func.setFrBase
  rw [and_not_63]
  exact (apply_ite (fun x => { v with frBase := x }) (v.frEn = true) ..).symm

/-- The change of EN from 0 to 1, and no other write, empties the fault ring (R135). -/
theorem Func.setFrEn_eq (v : Func) (en : Bool) : v.setFrEn en = { v with
    frEn := en, frHead := if en = true ∧ v.frEn = false then 0 else v.frHead, frTail := if en = true ∧ v.frEn = false then 0 else v.frTail } := by
  unfold Func.setFrEn
  cases en <;> cases v.frEn <;> rfl

/-! ### BAR0 (R25) -/

/-- Every offset of BAR0 but those of the writable registers ignores a write. -/
theorem Func.barWrite_readOnly (v : Func) {x : BitVec 12} (w : Word) (h : x ∉ [0x000, 0x008, 0x018, 0x100, 0x108, 0x110, 0x120]) :
    v.barWrite x w = v := by
  have off : ∀ c : BitVec 12, x ≠ c → x.toNat ≠ c.toNat := fun c hc e => hc (BitVec.eq_of_toNat_eq e)
  simp only [List.mem_cons, List.not_mem_nil, or_false, not_or] at h
  obtain ⟨h000, h008, h018, h100, h108, h110, h120⟩ := h
  unfold Func.barWrite
  split
  · next e => exact absurd e (off _ h000)
  · next e => exact absurd e (off _ h008)
  · next e => exact absurd e (off _ h018)
  · next e => exact absurd e (off _ h100)
  · next e => exact absurd e (off _ h108)
  · next e => exact absurd e (off _ h110)
  · next e => exact absurd e (off _ h120)
  · rfl

/-- Two fields of a register that do not overlap, as a number. -/
theorem shiftLeft_or_eq_ofNat {m k : Nat} (a : BitVec m) (b : BitVec k) {n : Nat} (h : b.toNat < 2 ^ n) :
    a.setWidth 64 <<< n ||| b.setWidth 64 = BitVec.ofNat 64 (2 ^ n * a.toNat + b.toNat) := by
  have high : a.setWidth 64 <<< n = BitVec.ofNat 64 (2 ^ n * a.toNat) :=
    BitVec.eq_of_toNat_eq (by simp [Nat.shiftLeft_eq, Nat.mul_comm])
  rw [Nat.two_pow_add_eq_or_of_lt h, BitVec.ofNat_or, ← high, BitVec.ofNat_toNat]

/-- A ring's control register: EN below the size of the ring. -/
theorem control_word_eq (log : BitVec 5) (en : Bool) :
    log.setWidth 64 <<< 8 ||| (BitVec.ofBool en).setWidth 64 = BitVec.ofNat 64 (256 * log.toNat + b2n en) := by
  have hen : (BitVec.ofBool en).toNat = b2n en := by cases en <;> rfl
  have fields : log.setWidth 64 <<< 8 ||| (BitVec.ofBool en).setWidth 64 = BitVec.ofNat 64 (256 * log.toNat + (BitVec.ofBool en).toNat) :=
    shiftLeft_or_eq_ofNat log (BitVec.ofBool en) (n := 8) (by cases en <;> decide)
  exact fields.trans (congrArg (fun x => BitVec.ofNat 64 (256 * log.toNat + x)) hen)

theorem Func.barRead_lwctl (v : Func) : v.barRead 0x000 = BitVec.ofNat 64 (256 * v.lwLog.toNat + b2n v.lwEn) :=
  control_word_eq ..

theorem Func.barRead_frctl (v : Func) : v.barRead 0x100 = BitVec.ofNat 64 (256 * v.frLog.toNat + b2n v.frEn) :=
  control_word_eq ..

theorem Func.barRead_lwstat (v : Func) : v.barRead 0x020 = BitVec.ofNat 64 (65536 * v.rejects.toNat + v.lastErr.toNat) :=
  shiftLeft_or_eq_ofNat v.rejects v.lastErr (n := 16) (Nat.lt_trans v.lastErr.isLt (by decide))

/-! ### Writes of one register -/

/-- Event i leaves v in the registers of function f, and everything else as it was. -/
def State.FuncTakes (s : State) (i : Instr) (f : BitVec 5) (v : Func) : Prop :=
  ∃ u, Runs i s u ∧ u.func f = v ∧ (∀ g, g ≠ f → u.func g = s.func g) ∧ { u with funcs := s.funcs } = s

theorem State.funcTakes_modFunc {s : State} {i : Instr} {f : BitVec 5} {g : Func → Func} {v : Func}
    (run : Runs i s (s.modFunc f g)) (hv : g (s.func f) = v) : s.FuncTakes i f v :=
  ⟨_, run, by rw [s.func_modFunc, hv], fun _ h => s.func_modFunc_ne g h, rfl⟩

/-- Event i leaves x in entry e of tile t, and everything else as it was. -/
def State.EntryTakes (s : State) (i : Instr) (t : BitVec 10) (e : BitVec 6) (x : Entry) : Prop :=
  ∃ u, Runs i s u ∧ u.entry t e = x ∧ (∀ m, m ≠ e → u.entry t m = s.entry t m) ∧ (∀ c, c ≠ t → u.tile c = s.tile c) ∧
    { u with tiles := s.tiles } = s

theorem State.entryTakes_modEntry {s : State} {i : Instr} {t : BitVec 10} {e : BitVec 6} {g : Entry → Entry} {x : Entry}
    (run : Runs i s (s.modEntry t e g)) (hx : g (s.entry t e) = x) : s.EntryTakes i t e x :=
  ⟨_, run, by rw [s.entry_modEntry, hx], fun _ h => s.entry_modEntry_ne t g h, fun _ h => s.tile_modEntry_ne e g h, rfl⟩

theorem Func.barWrite_takes {s : State} {f : BitVec 5} {x : BitVec 12} {w : Word} {v : Func} (hv : (s.func f).barWrite x w = v) :
    s.FuncTakes (.registerWrite (.bar f x) w) f v :=
  State.funcTakes_modFunc rfl hv

/-- GKEY is writable in an idle entry of a context admitted to gate channels alone (R46). -/
theorem exec_gkey (s : State) (t : BitVec 10) (e : BitVec 6) (w : Word) : exec (.registerWrite (.gkey t e) w) s = .next
    (if (s.ctx (s.entry t e).ctx).gateAdmitted && s.entryIdle t e then s.modEntry t e (fun v => { v with gkey := w.setWidth 8 }) else s) := rfl

/-- A watchdog limit is writable in an idle entry, from 1,024 on (R46). -/
theorem exec_wdog (s : State) (t : BitVec 10) (e : BitVec 6) (w : Word) : exec (.registerWrite (.wdog t e) w) s = .next
    (if 1024 ≤ w.toNat % 2 ^ 32 ∧ s.entryIdle t e = true then s.modEntry t e (fun v => { v with wdog := w.setWidth 32 }) else s) := by
  have low : bits w 31 0 = w.toNat % 2 ^ 32 := by simp [bits]
  rw [← low]
  rfl

theorem gkey_takes {s : State} {t : BitVec 10} {e : BitVec 6} (w : Word)
    (admitted : (s.ctx (s.entry t e).ctx).gateAdmitted = true) (idle : s.entryIdle t e = true) :
    s.EntryTakes (.registerWrite (.gkey t e) w) t e { s.entry t e with gkey := w.extractLsb' 0 8 } := by
  refine State.entryTakes_modEntry (g := fun v => { v with gkey := w.setWidth 8 }) ?_ ?_
  · rw [Runs, exec_gkey, admitted, idle]; rfl
  · rw [BitVec.setWidth_eq_extractLsb' (by decide)]

theorem gkey_ignored {s : State} {t : BitVec 10} {e : BitVec 6} (w : Word)
    (h : (s.ctx (s.entry t e).ctx).gateAdmitted = false ∨ s.entryIdle t e = false) : Runs (.registerWrite (.gkey t e) w) s s := by
  rw [Runs, exec_gkey, if_neg]
  rcases h with h | h <;> simp [h]

theorem wdog_takes {s : State} {t : BitVec 10} {e : BitVec 6} {w : Word} (limit : 1024 ≤ w.toNat % 2 ^ 32) (idle : s.entryIdle t e = true) :
    s.EntryTakes (.registerWrite (.wdog t e) w) t e { s.entry t e with wdog := w.extractLsb' 0 32 } := by
  refine State.entryTakes_modEntry (g := fun v => { v with wdog := w.setWidth 32 }) ?_ ?_
  · rw [Runs, exec_wdog, if_pos ⟨limit, idle⟩]
  · rw [BitVec.setWidth_eq_extractLsb' (by decide)]

theorem wdog_ignored {s : State} {t : BitVec 10} {e : BitVec 6} {w : Word} (h : w.toNat % 2 ^ 32 < 1024 ∨ s.entryIdle t e = false) :
    Runs (.registerWrite (.wdog t e) w) s s := by
  rw [Runs, exec_wdog, if_neg]
  rintro ⟨limit, idle⟩
  rcases h with h | h
  · omega
  · simp [h] at idle

/-- A mark of a range is set or taken back as a whole, and no other range changes (R24). -/
theorem hostMark_takes (s : State) (lo hi : BitVec 48) (w : Word) :
    ∃ u, Runs (.registerWrite (.hostMark lo hi) w) s u ∧ { u with board := s.board } = s ∧
      ∀ r, r ∈ u.board.hostVisible ↔ (r ∈ s.board.hostVisible ∧ r ≠ (lo.toNat, hi.toNat)) ∨ (r = (lo.toNat, hi.toNat) ∧ w.getLsbD 0 = true) := by
  refine ⟨_, rfl, rfl, fun r => ?_⟩
  dsimp only
  split
  · next set => simp [set, or_comm]
  · next clear => simp only [clear, List.mem_filter, bne_iff_ne, Bool.false_eq_true, and_false, or_false]

/-! ### CXL.mem (R24) -/

/-- The n bytes from pa on lie outside HBM, in ranges that firmware has marked. -/
def State.CxlVisible (s : State) (pa n : Nat) : Prop :=
  ∀ m < n, hbmEnd ≤ pa + m ∧ ∃ r ∈ s.board.hostVisible, r.1 ≤ pa + m ∧ pa + m < r.2

theorem State.all_hostVisible_iff (s : State) (pa n : Nat) :
    ((List.range n).map (pa + ·)).all s.hostVisible = true ↔ s.CxlVisible pa n := by
  simp [State.hostVisible, State.CxlVisible]

theorem cxlMemRequest_ignored {s : State} {write : Bool} {pa : BitVec 48} {bs : List Byte} (h : ¬s.CxlVisible pa.toNat bs.length) :
    Runs (.cxlMemRequest write pa bs) s s := by
  rw [← s.all_hostVisible_iff, Bool.not_eq_true] at h
  change execCxlMemRequest write pa bs s = _
  simp only [execCxlMemRequest, h, Bool.not_false, if_true]

theorem cxlMemRequest_write {s : State} {pa : BitVec 48} {bs : List Byte} (h : s.CxlVisible pa.toNat bs.length) :
    Runs (.cxlMemRequest true pa bs) s (s.paStore pa.toNat bs) := by
  rw [← s.all_hostVisible_iff] at h
  change execCxlMemRequest true pa bs s = _
  simp only [execCxlMemRequest, h, Bool.not_true, Bool.false_eq_true, if_false, if_true]

theorem cxlMemRequest_read {s : State} {pa : BitVec 48} {bs : List Byte} (h : s.CxlVisible pa.toNat bs.length) :
    Runs (.cxlMemRequest false pa bs) s { s with board := { s.board with
      hostData := s.bytes (paKey pa.toNat) bs.length, hostBad := s.hbmPoison (paKey pa.toNat) bs.length } } := by
  rw [← s.all_hostVisible_iff] at h
  change execCxlMemRequest false pa bs s = _
  simp only [execCxlMemRequest, h, Bool.not_true, Bool.false_eq_true, if_false, State.paLoad]

/-- Beside the bytes, a write outside HBM changes the lines kept and the poison of its unit alone. -/
theorem State.paStore_mem (s : State) (pa : Nat) (bs : List Byte) : (s.paStore pa bs).mem = (s.store (paKey pa) bs).mem := by
  unfold State.paStore
  simp only
  split <;> rfl

theorem State.bytes_paStore_same {s : State} (h : s.MemOk) (pa : Nat) (bs : List Byte) :
    (s.paStore pa bs).bytes (paKey pa) bs.length = bs := by
  rw [State.bytes, State.paStore_mem]
  exact State.bytes_store_same h _ bs

theorem State.byte_paStore_ne {s : State} (h : s.MemOk) {pa k : Nat} {bs : List Byte} (hk : ¬(paKey pa ≤ k ∧ k < paKey pa + bs.length)) :
    (s.paStore pa bs).byte k = s.byte k := by
  rw [State.byte, State.paStore_mem]
  exact (State.byte_store h _ k bs).trans (if_neg hk)

/-- Settles O43: a clause about one register is the equation of its field, with the frame of the table that holds it; the clauses about CXL.mem follow
from what a store outside HBM reads back. -/
theorem registersTakeWrites : Obligations.RegistersTakeWrites := by
  unfold Obligations.RegistersTakeWrites
  intro s f t e d w en n pa bs v size base func entry
  have low32 : w.setWidth 32 = w.extractLsb' 0 32 := BitVec.setWidth_eq_extractLsb' (by decide)
  have low8 : w.setWidth 8 = w.extractLsb' 0 8 := BitVec.setWidth_eq_extractLsb' (by decide)
  refine ⟨State.funcTakes_modFunc rfl (Func.setLwLog_eq ..),
    State.funcTakes_modFunc rfl (Func.setLwBase_eq ..),
    State.funcTakes_modFunc rfl (low8 ▸ rfl),
    State.funcTakes_modFunc rfl (Func.setFrLog_eq ..),
    State.funcTakes_modFunc rfl (Func.setFrBase_eq ..),
    State.funcTakes_modFunc rfl (low32 ▸ rfl),
    State.funcTakes_modFunc rfl (Func.setFrEn_eq ..),
    State.funcTakes_modFunc rfl rfl,
    ⟨_, rfl, s.domain_modDomain .., rfl⟩,
    gkey_takes w, gkey_ignored w, wdog_takes, wdog_ignored,
    ⟨_, rfl, rfl, rfl⟩,
    fun lo hi => hostMark_takes s lo hi w,
    ⟨_, rfl, rfl, rfl⟩,
    ⟨_, rfl, find_put_same .., rfl⟩,
    s.entryIdle_eq_false_iff t e,
    fun x hx => Func.barWrite_takes (Func.barWrite_readOnly _ w hx),
    Func.barWrite_takes (low32 ▸ rfl),
    Func.barWrite_takes rfl,
    ⟨v.barRead_lwctl, rfl, rfl, rfl, v.barRead_lwstat, rfl, v.barRead_frctl, rfl, rfl, rfl, rfl⟩, ?_⟩
  intro visible
  exact ⟨cxlMemRequest_ignored, cxlMemRequest_read,
    fun shown ok => ⟨_, cxlMemRequest_write shown, State.bytes_paStore_same ok .., fun _ hk => State.byte_paStore_ne ok hk⟩⟩

end Sys2Proof.Machine
end
